-- ==== Sys2Proof/Word.lean ====
section
/-! DEFINITION. The index and byte types of the FCS-12: bytes as the links carry them, and the numbers of ports,
lines, segments, tags and tables, each bounded as 00_scope.md and the owner chapters bound it. -/

namespace Sys2Proof

/-- One byte of a frame or of the configuration store (00_scope.md: bit 7 is the most significant). -/
abbrev Byte := BitVec 8
/-- A link port, 0 to 11 (R1). -/
abbrev Port := Fin 12
/-- A sort line, 0 to 7 (R81). -/
abbrev LineIx := Fin 8
/-- A conveyor segment, 0 to 11 (R91). -/
abbrev SegIx := Fin 12
/-- A transit tag, 0 to 63 (R102). -/
abbrev Tag := Fin 64
/-- A generation of a transit entry, 0 to 15 (R92). -/
abbrev Gen := Fin 16
/-- A fault number, 0 to 31 (R149). -/
abbrev FaultNo := Fin 32
/-- A deposit scheme, 0 to 3 (R46). -/
abbrev SchemeIx := Fin 4
/-- A tariff class, 0 to 31 (R45). -/
abbrev ClassIx := Fin 32
/-- A hop index of a route, 0 to 5 (R81). -/
abbrev HopIx := Fin 6
/-- A gate of a sorter, 0 to 3 (R81). -/
abbrev Gate := Fin 4
/-- A sense input, 0 to 7 (R163). -/
abbrev SenseIx := Fin 8
/-- An output line, 0 to 7 (R166). -/
abbrev OutIx := Fin 8
/-- A 48-bit article code (R34). -/
abbrev ArticleCode := BitVec 48
/-- A 128-bit unlock code or key (R49). -/
abbrev Key := BitVec 128
/-- A set of hop indices, hop h at bit h (section 2.3). -/
abbrev HopSet := BitVec 6
/-- A set of the six materials, material m at bit m (R173). -/
abbrev MaterialSet := BitVec 6
/-- A set of the 22 conditions, condition n at bit n (R20, R168). -/
abbrev ConditionSet := BitVec 22

end Sys2Proof
end

