-- ==== Sys2Proof/Config.lean ====
section
/-! DEFINITION. The capacities and fixed numbers the manual gives the part, and the one free value of the model. -/

namespace Sys2Proof.Config

/-- Places of a receive queue (R11). -/
def rxPlaces : Nat := 8
/-- Places of a transmit queue (R14). -/
def txPlaces : Nat := 16
/-- The error score at which a link is given up (R10). -/
def scoreLimit : Nat := 16
/-- The good-frame count returns to 0 here and takes one off the score (R10). -/
def goodFrameSpan : Nat := 64
/-- The taken count at which credit is returned (R12). -/
def creditReturn : Nat := 4
/-- The most a transmit credit holds (R13). -/
def txCreditMax : Nat := 255
/-- The most INTAKE ports (R2, check 3). -/
def maxIntakes : Nat := 8
/-- The most COUNTER ports (R2, check 3). -/
def maxCounters : Nat := 4
/-- The most article entries (R36). -/
def maxArticles : Nat := 16384
/-- Records of a voucher queue (R140). -/
def voucherPlaces : Nat := 8
/-- Copies of a report list (R147, R160). -/
def reportPlaces : Nat := 8
/-- The most data bytes of a MGMT_REPLY (section 2.2). -/
def replyDataMax : Nat := 47
/-- The largest count of a session (R121) and of a class (R124). -/
def countMax : Nat := 65535
/-- The session limit after power-on (R135). -/
def sessionLimitReset : Nat := 999999
/-- The destination address of the switch itself (00_scope.md). -/
def switchAddress : Fin 16 := 15
/-- The format word of a valid image (section 11.6). -/
def formatWord : BitVec 32 := 0x4C57A5C3
/-- A measured weight that means scale overload (R62). -/
def scaleOverload : Nat := 65535

/-- FREE VALUE (log entry 12). The data bytes sent for a MGMT_REPLY whose fields, coded by R173, need more than the 47
bytes a reply can carry (a session or a context read whole by R178): the manual does not say which bytes are sent. -/
opaque overlongReply : List Byte → Vector Byte 47

end Sys2Proof.Config
end

