-- ==== Sys2Proof/Syntax.lean ====
section
/-! DEFINITION. The commands of the FCS-12: one constructor of `Instr` for each row of spec/opcode_table.json, and the
records they carry. A command is an event at a pin or a link, a frame taken by its owner block, a timer's expiry, a
message from one block to another, or a management request. -/

namespace Sys2Proof

/-! ### Names (each list in the manual's order, which is its code by R20) -/

/-- Station roles (R1), coded 0 to 5 (R20). -/
inductive Role where
  | unused | intake | sorter | bin | counter | controller
  deriving DecidableEq, Repr

/-- Link states (section 1.2). -/
inductive LinkState where
  | disabled | down | training | up | faulted
  deriving DecidableEq, Repr

/-- The six materials (R44). A sighted material is an `Option Material`: none is UNKNOWN (section 2.3). -/
inductive Material where
  | pet | glass | alu | steel | hdpe | other
  deriving DecidableEq, Repr

/-- The five shapes (section 2.3). -/
inductive Shape where
  | can | bottleS | bottleL | crate | other
  deriving DecidableEq, Repr

/-- The deposit mark as sighted (section 2.3). -/
inductive Mark where
  | seen | absent | unread
  deriving DecidableEq, Repr

/-- A gate position (section 2.3). -/
inductive Position where
  | pass | left | right
  deriving DecidableEq, Repr

/-- The result of a GATE_ACK (section 2.3). -/
inductive GateResult where
  | normal | jammed | conflict | busy
  deriving DecidableEq, Repr

/-- The reason of a HOLD frame (section 2.2). -/
inductive HoldReason where
  | lineBusy | roomStop | counterBusy
  deriving DecidableEq, Repr

/-- The stop reason of a STOPPED context (R57). -/
inductive StopReason where
  | start | mgmt | shutdown
  deriving DecidableEq, Repr

/-- The reason of an INTAKE_STOP frame (section 2.2): a stop reason, or LOCKED. -/
inductive StopFrameReason where
  | start | mgmt | locked | shutdown
  deriving DecidableEq, Repr

/-- The pause reason of a PAUSED context (R57). -/
inductive PauseReason where
  | roomStop | counterBusy
  deriving DecidableEq, Repr

/-- Admission context states (R57). -/
inductive CtxState where
  | stopped | idle | holding | paused | gating | releasing | returning | locked
  deriving DecidableEq, Repr

/-- Session states (R121). -/
inductive SessionState where
  | idle | opened | closePending | closingWait
  deriving DecidableEq, Repr

/-- Transit entry states (R102). -/
inductive EntryState where
  | free | gating | releaseSent | moving
  deriving DecidableEq, Repr

/-- Gating steps (R102). -/
inductive GatingStep where
  | awaitingRecord | setting | releaseWait
  deriving DecidableEq, Repr

/-- Counter unit states (section 8.4). -/
inductive UnitState where
  | offline | ready | busy | paused | stalled
  deriving DecidableEq, Repr

/-- The state of a voucher record (R136). -/
inductive RecordState where
  | queued | sent
  deriving DecidableEq, Repr

/-- The result of a VOUCHER_DONE, and the outcome of a VOUCHER_REPORT (section 2.2). -/
inductive VoucherResult where
  | printed | paperOut | refused
  deriving DecidableEq, Repr

/-- Line states (R85). -/
inductive LineState where
  | opened | nearFull | closed | disabled
  deriving DecidableEq, Repr

/-- The kind of a fault (R149). -/
inductive FaultKind where
  | reject | note | abort | transit
  deriving DecidableEq, Repr

/-- The table an error record names (section 2.3). -/
inductive ErrorTable where
  | none | article | cls | line | segment | transit | disposition
  deriving DecidableEq, Repr

/-- The action of a disposition entry (R150). -/
inductive Action where
  | giveBack | keep | stop
  deriving DecidableEq, Repr

/-- The class of a disposition entry (R150). -/
inductive FaultClass where
  | benign | contributory
  deriving DecidableEq, Repr

/-- The outcome of a fault (R60, R151, R154). -/
inductive FaultResult where
  | proceed
  | giveBack
  | keep (line : LineIx)
  | lock
  | shutdown
  deriving DecidableEq, Repr

/-- The function of a sense input (R163). -/
inductive SenseFunction where
  | none | binFull (line : LineIx) | roomStop
  deriving DecidableEq, Repr

/-- The debounce state of a sense input (R164). -/
inductive DebounceState where
  | idle | debouncing | latched
  deriving DecidableEq, Repr

/-- The function of an output line (R166). -/
inductive OutputFunction where
  | manual | lineOpen (line : LineIx) | intakeReady (port : Port) | anyCondition
  deriving DecidableEq, Repr

/-- The polarity of an output line (R166). -/
inductive Polarity where
  | activeHigh | activeLow
  deriving DecidableEq, Repr

/-- The tariff lock's state (R49). -/
inductive LockState where
  | locked | opened
  deriving DecidableEq, Repr

/-- The 22 conditions in the order of R168. -/
inductive Condition where
  | linkFault | roleMismatch | overrun | mgmtCheck | mgmtForeign | kindRefused | staleFrame | lineClosed
  | lineNearFull | misroute | transitLost | intakeLocked | intakeShutdown | counterStall | paperOut
  | voucherRefused | roomStop | senseLatch | configDefault | unlockFailed | undeliverable | storeFailed
  deriving DecidableEq, Repr

/-- The reply statuses in the order of R175. -/
inductive Status where
  | done | doneClamped | badTable | badIndex | badValue | locked | refused | tableFull | duplicate | notFound
  | notAllowed | busy
  deriving DecidableEq, Repr

/-! ### Records carried by commands -/

/-- A received frame that has passed the check, with its header fields as written (section 2.1). Its source is the port it
came in on (R18). -/
structure RxFrame where
  dst     : Fin 16
  kind    : Byte
  tag     : Byte
  gen     : Gen
  payload : List Byte
  deriving DecidableEq, Repr

/-- The SIGHTING fields as handed on (section 2.3, R21). -/
structure Sighting where
  seq      : Byte
  code     : ArticleCode
  shape    : Shape
  material : Option Material
  mark     : Mark
  weight   : Fin 65536
  count    : Option (Fin 256)
  deriving DecidableEq, Repr

/-- A transit tag with its generation. -/
structure TagGen where
  tag : Tag
  gen : Gen
  deriving DecidableEq, Repr

/-- A hop of a route (R81). -/
structure Hop where
  port     : Port
  gate     : Gate
  position : Position
  deriving DecidableEq, Repr

/-- A container's credit with its split by scheme and its class counts (R63). -/
structure ContainerCredit where
  credit  : Nat
  split   : List (SchemeIx × Nat)
  classes : List (ClassIx × Nat)
  deriving DecidableEq, Repr

/-- The claim handed to the transit table at a grant (R94). -/
structure Claim where
  tag      : Tag
  gen      : Gen
  intake   : Port
  seq      : Byte
  line     : LineIx
  route    : List Hop
  segments : List SegIx
  limit    : Nat
  pitch    : Nat
  deriving DecidableEq, Repr

/-- What a transit entry copies from a container record: the article code, the kept flag, and the credit with its split and class
counts (R102, R104). -/
structure Cargo where
  code   : ArticleCode
  kept   : Bool
  credit : ContainerCredit
  deriving DecidableEq, Repr

/-- The container record handed to the transit table by the admission context (R65): the intake port, the chamber seq, and what
the entry copies. -/
structure ContainerRecord where
  intake : Port
  seq    : Byte
  cargo  : Cargo
  deriving DecidableEq, Repr

/-- A posting (R114, R123). -/
structure Posting where
  intake : Port
  seq    : Byte
  tag    : Tag
  credit : ContainerCredit
  kept   : Bool
  deriving DecidableEq, Repr

/-- A voucher request from the tally unit (R138). -/
structure VoucherRequest where
  counter    : Port
  intake     : Port
  subtotals  : Vector Nat 4
  total      : Nat
  containers : Nat
  kept       : Nat
  deriving DecidableEq, Repr

/-- The two gate faults a transit entry reports (R109). -/
inductive GateFaultKind where
  | refused | timeout
  deriving DecidableEq, Repr

/-- The two transit faults (R118). -/
inductive TransitFaultKind where
  | misroute | lost
  deriving DecidableEq, Repr

/-- The controller port a management request came in on, and its request tag (R18, R19). -/
structure Requester where
  port : Port
  tag  : Byte
  deriving DecidableEq, Repr

/-- The written fields of a port entry as a WRITE_ENTRY carries them, before R2 judges them. Role and admin enable are the
codes of R20, and a counter port of 255 is NONE (R173). -/
structure PortFields where
  role        : Nat
  admin       : Nat
  counterPort : Nat
  creditLimit : Nat
  tare        : Int
  holdLimit   : Nat
  deriving DecidableEq, Repr

/-- The written fields of a line record as a WRITE_ENTRY carries them, before R82 judges them. A hop is its sorter port,
gate and position code; an overflow of 255 is NONE (R173). -/
structure LineFields where
  route        : List (Nat × Nat × Nat)
  segments     : List Nat
  binPort      : Nat
  overflow     : Nat
  materials    : MaterialSet
  nearFull     : Nat
  full         : Nat
  transitLimit : Nat
  deriving DecidableEq, Repr

/-- The crate part of an offered article entry, before R35 judges it. -/
structure CrateFields where
  contentClass : Nat
  capacity     : Nat
  bottleMin    : Nat
  bottleMax    : Nat
  deriving DecidableEq, Repr

/-- An article entry as ARTICLE_INSERT and ARTICLE_REPLACE offer it, before R35 judges it. -/
structure ArticleFields where
  code         : ArticleCode
  depositClass : Nat
  material     : Nat
  shape        : Nat
  weightMin    : Fin 65536
  weightMax    : Fin 65536
  line         : Nat
  active       : Bool
  markRequired : Bool
  refillable   : Bool
  crate        : Option CrateFields
  deriving DecidableEq, Repr

/-- The written fields of a disposition entry, before R150 judges them. -/
structure DispositionFields where
  action   : Nat
  keepLine : Nat
  cls      : Nat
  report   : Nat
  deriving DecidableEq, Repr

/-- The written fields of a sense entry, before R163 judges them: the function code, its line, the debounce time. -/
structure SenseFields where
  function : Nat
  line     : Nat
  debounce : Nat
  deriving DecidableEq, Repr

/-- The written fields of an output entry, before R166 judges them: the function code, its line or port, the codes of
polarity and manual value. -/
structure OutputFields where
  function : Nat
  operand  : Nat
  polarity : Nat
  manual   : Nat
  deriving DecidableEq, Repr

/-- The external serial configuration store (section 11.6): whether it answers at all, its header fields and its body. -/
structure ConfigStore where
  answers : Bool
  format  : BitVec 32
  length  : Nat
  check   : BitVec 16
  body    : List Byte
  deriving DecidableEq, Repr

/-- What the store interface meets at the end of a save (R182): a store that does not answer, a body read back at step 4,
or the format word read back at step 5. -/
inductive SaveEnd where
  | noAnswer
  | bodyReadBack (body : List Byte)
  | formatReadBack (word : BitVec 32)
  deriving DecidableEq, Repr

/-- The owner of a waiting frame that takes a place-free notice (R14). -/
inductive Owner where
  | dispatcher (source : Port)   -- a held PASS or UNDELIVERABLE of that source port (R28, R29)
  | management                   -- the reply slot (R172)
  | admission                    -- the context's outbound list (R58)
  | transit                      -- a held RELEASE (R107) or a clear backlog (R110)
  | tally                        -- a TALLY owed (R122)
  | counter                      -- a send owed (R141)
  | voucherReports               -- the voucher unit's report list (R147)
  | faultReports                 -- the fault unit's report list (R160)
  deriving DecidableEq, Repr

/-- The commands, one for each row of spec/opcode_table.json, in the table's order. -/
inductive Instr where
  -- resets, pins and links (chapters 1, 11)
  | powerOnReset
  | storeReadDone (fitted : Option ConfigStore)
  | signalDetect (p : Port)
  | signalLoss (p : Port)
  | frameArrival (p : Port) (bytes : List Byte)
  | announce (p : Port) (f : RxFrame)
  | credit (p : Port) (f : RxFrame)
  | frameTransmit (p : Port)
  | placeFree (p : Port) (o : Owner)
  | frameDispatch (p : Port)
  | pass (p : Port)
  -- station frames taken by their owner blocks
  | sighting (p : Port) (x : Sighting)
  | faultOutcome (p : Port) (n : FaultNo) (o : FaultResult)
  | withdrawn (p : Port) (seq : Byte)
  | returned (p : Port) (seq : Byte)
  | dropped (p : Port) (seq : Byte)
  | present (p : Port)
  | finish (p : Port)
  | headFault (p : Port) (n : FaultNo) (code : Byte)
  | gateAck (p : Port) (tag : Tag) (gen : Gen) (hop : HopIx) (result : GateResult)
  | passage (p : Port) (tag : Tag) (gen : Gen) (gate : Gate)
  | arrival (p : Port) (tag : Tag) (gen : Gen)
  | fill (p : Port) (percent : Fin 256)
  | voucherDone (p : Port) (number : Fin 65536) (result : VoucherResult)
  -- timers
  | holdTimerExpiry (p : Port)
  | handoverTimerExpiry (p : Port)
  | gateAckTimerExpiry (tag : Tag)
  | transitTimerExpiry (tag : Tag)
  | idleTimerExpiry (p : Port)
  | replyTimerExpiry (p : Port)
  -- sense pins
  | senseAssert (i : SenseIx)
  | senseRelease (i : SenseIx)
  | debounceTimerExpiry (i : SenseIx)
  -- messages between blocks
  | claim (c : Claim)
  | containerRecord (tag : Tag) (gen : Gen) (r : ContainerRecord)
  | grantNotice (p : Port) (seq : Byte) (tag : Tag) (gen : Gen) (line : LineIx) (pitch : Nat)
  | reselectionNotice (p : Port) (seq : Byte) (line : Option LineIx) (tried : LineIx)
  | removalRequest (p : Port)
  | releaseNotice (tag : Tag) (gen : Gen) (line : LineIx) (pitch : Nat) (segments : List SegIx)
  | cancelRequest (tag : Tag) (gen : Gen)
  | freeRequest (tag : Tag) (gen : Gen)
  | gatesSetReport (p : Port) (tag : Tag) (gen : Gen)
  | gateFault (p : Port) (kind : GateFaultKind) (tag : Tag) (gen : Gen) (hops : HopSet)
  | dropReport (p : Port) (tag : Tag) (gen : Gen)
  | posting (x : Posting)
  | dropNote (p : Port) (tag : Tag) (seq : Byte) (credit : Nat)
  | stateReport (p : Port) (state : CtxState) (reason : Option StopReason) (seq : Option Byte)
  | returnRequest (p : Port)
  | returnAnswer (p : Port) (returned : Bool) (state : CtxState)
  | closeCompleted (p : Port)
  | roomStopReport (first : Bool)
  | binFullReport (line : LineIx) (first : Bool)
  | flagClear (p : Port)
  | transitFault (kind : TransitFaultKind) (tag : Tag) (gen : Gen) (intake : Port) (seq : Byte)
  | voucherRequest (x : VoucherRequest)
  | voucherPlaceFreed (p : Port)
  | intakeDeparture (p : Port)
  | intakeArrival (p : Port) (restart : Bool)
  | portEventReport (p : Port)
  | sorterDownReport (p : Port)
  | counterPortReport (p : Port) (up : Bool)
  | conditionRequest (c : Condition)
  | lineStateReport (line : LineIx) (state : LineState)
  -- management requests (chapter 11)
  | readEntry (r : Requester) (table index : Nat)
  | lockRecordRead (r : Requester) (index : Nat)
  | portWrite (r : Requester) (index : Nat) (x : PortFields)
  | timerWrite (r : Requester) (index value : Nat)
  | materialWrite (r : Requester) (index value : Nat)
  | pitchWrite (r : Requester) (index value : Nat)
  | classWrite (r : Requester) (index : Nat) (deposit : Fin 65536) (scheme : Nat)
  | schemeWrite (r : Requester) (index rate : Nat)
  | lineWrite (r : Requester) (index : Nat) (x : LineFields)
  | segmentWrite (r : Requester) (index capacity : Nat)
  | dispositionWrite (r : Requester) (index : Nat) (x : DispositionFields)
  | senseWrite (r : Requester) (index : Nat) (x : SenseFields)
  | outputWrite (r : Requester) (index : Nat) (x : OutputFields)
  | maskWrite (r : Requester) (index : Nat) (bits : BitVec 24)
  | lockRecordWrite (r : Requester) (index : Nat) (code : Key)
  | articleInsert (r : Requester) (x : ArticleFields)
  | articleReplace (r : Requester) (x : ArticleFields)
  | articleDelete (r : Requester) (code : ArticleCode)
  | articleFind (r : Requester) (code : ArticleCode)
  | articleRead (r : Requester) (position : Nat)
  | articleClear (r : Requester)
  | unlock (r : Requester) (key : Key)
  | relock (r : Requester)
  | clearConditions (r : Requester) (bits : BitVec 24)
  | clearSense (r : Requester) (inputs : BitVec 8)
  | intakeResume (r : Requester) (port : Nat)
  | intakeStopControl (r : Requester) (port : Nat)
  | clearFault (r : Requester) (port : Nat)
  | portEnable (r : Requester) (port : Nat)
  | portDisable (r : Requester) (port : Nat)
  | portReset (r : Requester) (port : Nat)
  | lineEnable (r : Requester) (line : Nat)
  | lineDisable (r : Requester) (line : Nat)
  | counterResume (r : Requester) (port : Nat)
  | readState (r : Requester) (target index part : Nat)
  | softReset (r : Requester)
  | storeSave (r : Requester)
  | storeSaveDone (how : SaveEnd)
  deriving DecidableEq, Repr

end Sys2Proof
end

