-- ==== Sys2Proof/Machine/State.lean ====
section
/-! DEFINITION. The state of the FCS-12 as plain data, block by block (00_scope.md, "Block overview"), and the state right
after a power-on reset. Beside what the manual gives the blocks it holds four fields of the model's own: the queue of waiting
commands (`pending`), the messages between blocks that are sent and not yet taken (`mail`), what each port has put on its link
(`LinkPort.sent`), and the answer to the last voucher request (`VoucherUnit.answer`). -/

namespace Sys2Proof.Machine

/-- A timer of the part (R177). none: stopped. some k: running; k further ticks of the 1 ms time base may pass before its
expiry is due (log entry 3). -/
abbrev Timer := Option Nat

/-! ### Tables and records -/

/-- A port table entry (R1). -/
structure PortEntry where
  role        : Role
  enabled     : Bool
  counterPort : Option Port
  creditLimit : Nat
  tare        : Int
  holdLimit   : Nat
  deriving DecidableEq, Repr

/-- A crate part of an article entry (R34). -/
structure CratePart where
  contentClass : ClassIx
  capacity     : Nat
  bottleMin    : Nat
  bottleMax    : Nat
  deriving DecidableEq, Repr

/-- An article entry (R34). -/
structure ArticleEntry where
  code         : ArticleCode
  depositClass : ClassIx
  material     : Material
  shape        : Shape
  weightMin    : Nat
  weightMax    : Nat
  line         : LineIx
  active       : Bool
  markRequired : Bool
  refillable   : Bool
  crate        : Option CratePart
  deriving DecidableEq, Repr

/-- A tariff class (R45). -/
structure TariffClass where
  deposit : Nat
  scheme  : SchemeIx
  deriving DecidableEq, Repr

/-- The answer to a lookup that found its entry (R42). -/
structure ArticleCopy where
  entry     : ArticleEntry
  position  : Nat
  allowance : Nat
  tariff    : TariffClass
  content   : Option TariffClass
  deriving DecidableEq, Repr

/-- The catalogue's state (chapter 3). -/
structure Catalogue where
  articles   : List ArticleEntry
  allowances : Vector Nat 6
  classes    : Vector TariffClass 32
  rates      : Vector Nat 4
  lock       : LockState
  code       : Key
  deriving DecidableEq, Repr

/-- The reason byte of a RETURN frame (section 2.2). -/
inductive ReturnReason where
  | fault (n : FaultNo) | stopped | finished
  deriving DecidableEq, Repr

/-- The frames the admission unit offers to an intake (R58): RETURN, HOLD, INTAKE_STOP and INTAKE_GO. -/
inductive IntakeFrame where
  | giveBack (seq : Byte) (reason : ReturnReason)
  | hold (seq : Byte) (reason : HoldReason)
  | stop (reason : StopFrameReason)
  | go
  deriving DecidableEq, Repr

/-- The keep mark of a container being kept (R74). -/
structure KeepMark where
  line  : LineIx
  fault : FaultNo
  deriving DecidableEq, Repr

/-- An admission context (R57). A bracketed field of the manual is an Option. The lock fault stands in every LOCKED context that
a fault has locked, with a container or without one (R73, R155; log entry 23). -/
structure Context where
  state         : CtxState
  stopReason    : Option StopReason
  seq           : Option Byte
  sighting      : Option Sighting
  tareCopy      : Option Int
  holdCopy      : Option Nat
  article       : Option ArticleCopy
  clampedCount  : Option Nat
  credit        : Option ContainerCredit
  keep          : Option KeepMark
  line          : Option LineIx
  pitch         : Option Nat
  tag           : Option TagGen
  pause         : Option PauseReason
  lockFault     : Option FaultNo
  holdTimer     : Timer
  handoverTimer : Timer
  outbound      : List IntakeFrame
  deriving DecidableEq, Repr

/-- The admission unit (chapter 4): a context per INTAKE port, and its record of whether a ROOM_STOP latch is set (R80). -/
structure Admission where
  contexts : Vector (Option Context) 12
  roomStop : Bool
  deriving DecidableEq, Repr

/-- The written fields of a line record (R81). -/
structure LineRecord where
  route        : List Hop
  segments     : List SegIx
  binPort      : Port
  overflow     : Option LineIx
  materials    : MaterialSet
  nearFull     : Nat
  full         : Nat
  transitLimit : Nat
  deriving DecidableEq, Repr

/-- The cause set of a line (R84), one flag per cause. -/
structure Causes where
  mgmtDisabled : Bool
  binFullSense : Bool
  fillFull     : Bool
  binDown      : Bool
  routeDown    : Bool
  deriving DecidableEq, Repr

/-- A line: its record, its enable field and the kept fields of R81. -/
structure Line where
  record   : LineRecord
  enabled  : Bool
  causes   : Causes
  lastFill : Nat
  state    : LineState
  live     : Nat
  deriving DecidableEq, Repr

/-- A segment (R91). -/
structure Segment where
  capacity : Nat
  reserved : Nat
  deriving DecidableEq, Repr

/-- The free-entry record's part for one tag (R92). -/
structure TagRecord where
  free : Bool
  gen  : Gen
  deriving DecidableEq, Repr

/-- A hold queue entry (R96). -/
structure HoldEntry where
  intake   : Port
  seq      : Byte
  start    : LineIx
  kept     : Bool
  material : Option Material
  line     : LineIx
  pitch    : Nat
  segments : List SegIx
  deriving DecidableEq, Repr

/-- The line unit (chapter 5). -/
structure LineUnit where
  lines     : Vector Line 8
  segments  : Vector Segment 12
  pitches   : Vector Nat 5
  tags      : Vector TagRecord 64
  holdQueue : List HoldEntry
  deriving DecidableEq, Repr

/-- The fields a transit entry takes from its claim (R102, R103). -/
structure EntryUse where
  intake   : Port
  seq      : Byte
  line     : LineIx
  route    : List Hop
  segments : List SegIx
  pitch    : Nat
  limit    : Nat
  ack      : HopSet
  refusal  : HopSet
  deriving DecidableEq, Repr

/-- A transit entry (R102). -/
structure Entry where
  state       : EntryState
  gen         : Gen
  step        : Option GatingStep
  use         : Option EntryUse
  record      : Option Cargo
  hopIndex    : Option Nat
  heldRelease : Bool
  timer       : Timer
  deriving DecidableEq, Repr

/-- A GATE_CLEAR frame (section 2.3), as kept in a clear backlog (R110). -/
structure ClearFrame where
  tag  : Tag
  gen  : Gen
  gate : Gate
  deriving DecidableEq, Repr

/-- The transit table (chapter 6), with the clear backlog of each sorter port (R110). -/
structure TransitTable where
  entries : Vector Entry 64
  backlog : Vector (List ClearFrame) 12
  deriving DecidableEq, Repr

/-- An awaited posting (R126). -/
structure Awaited where
  tag    : Tag
  seq    : Byte
  credit : Nat
  deriving DecidableEq, Repr

/-- The last posting of a session (R121). -/
structure LastPosting where
  tag : Tag
  seq : Byte
  deriving DecidableEq, Repr

/-- A session (R121), with the context state last reported to the tally unit. -/
structure Session where
  state      : SessionState
  containers : Nat
  kept       : Nat
  subtotals  : Vector Nat 4
  total      : Nat
  classes    : List (ClassIx × Nat)
  limit      : Nat
  awaited    : Option Awaited
  last       : Option LastPosting
  carried    : Option Posting
  idleTimer  : Timer
  owed       : Bool
  ctxWaiting : Bool
  reported   : CtxState
  deriving DecidableEq, Repr

/-- The tally unit (chapter 7): the sessions and the closing-wait list (R129). -/
structure TallyUnit where
  sessions    : Vector (Option Session) 12
  closingWait : List Port
  deriving DecidableEq, Repr

/-- A voucher record (R136). -/
structure VoucherRecord where
  number     : Fin 65536
  intake     : Port
  subtotals  : Vector Nat 4
  bonuses    : Vector Nat 4
  total      : Nat
  containers : Nat
  kept       : Nat
  state      : RecordState
  deriving DecidableEq, Repr

/-- A counter unit with its voucher queue, oldest record first (R140, section 8.4). -/
structure CounterUnit where
  state      : UnitState
  queue      : List VoucherRecord
  replyTimer : Timer
  sendOwed   : Bool
  deriving DecidableEq, Repr

/-- A VOUCHER_REPORT copy (R147). -/
structure VoucherReport where
  record  : VoucherRecord
  outcome : VoucherResult
  deriving DecidableEq, Repr

/-- The answer to a voucher request (R138). -/
inductive VoucherAnswer where
  | created (number : Fin 65536)
  | queueFull
  deriving DecidableEq, Repr

/-- The voucher unit (chapter 8). `answer` is the model's own: the answer given to the last voucher request. -/
structure VoucherUnit where
  units   : Vector (Option CounterUnit) 12
  number  : Fin 65536
  reports : Vector (List VoucherReport) 12
  answer  : Option VoucherAnswer
  deriving DecidableEq, Repr

/-- A disposition entry (R150). -/
structure Disposition where
  action   : Action
  keepLine : LineIx
  cls      : FaultClass
  report   : Bool
  deriving DecidableEq, Repr

/-- An error record (section 2.3, R23): an optional field is absent when its presence flag is clear. -/
structure ErrorRecord where
  number  : FaultNo
  kind    : FaultKind
  ext     : Bool
  double  : Bool
  table   : ErrorTable
  index   : Nat
  intake  : Port
  seq     : Option Byte
  tag     : Option TagGen
  hops    : Option HopSet
  station : Option Byte
  deriving DecidableEq, Repr

/-- A fault context (R152). -/
structure FaultContext where
  flag     : Bool
  reported : CtxState
  seq      : Option Byte
  last     : Option ErrorRecord
  deriving DecidableEq, Repr

/-- The fault unit (chapter 9). -/
structure FaultUnit where
  dispositions : Vector Disposition 32
  contexts     : Vector (Option FaultContext) 12
  reports      : Vector (List ErrorRecord) 12
  deriving DecidableEq, Repr

/-- A sense table entry (R163). -/
structure SenseEntry where
  function : SenseFunction
  debounce : Nat
  deriving DecidableEq, Repr

/-- The state of one sense input (R164): the pin's present level, the debounce state and the debounce timer. -/
structure SenseInput where
  level : Bool
  state : DebounceState
  timer : Timer
  deriving DecidableEq, Repr

/-- An output table entry (R166). -/
structure OutputEntry where
  function : OutputFunction
  polarity : Polarity
  manual   : Bool
  deriving DecidableEq, Repr

/-- The condition unit (chapter 10). `high` is the level driven on each output line, `queued` the notice slot of each
CONTROLLER port (R169), `lineStates` and `ctxStates` the states last reported (R167). -/
structure ConditionUnit where
  sense      : Vector SenseEntry 8
  inputs     : Vector SenseInput 8
  latchCount : Vector Nat 8
  roomStops  : Nat
  outputs    : Vector OutputEntry 8
  high       : Vector Bool 8
  set        : ConditionSet
  mask       : ConditionSet
  queued     : Vector Bool 12
  lineStates : Vector LineState 8
  ctxStates  : Vector CtxState 12
  deriving DecidableEq, Repr

/-- The timer table (R176): gate acknowledgement, handover and counter reply times in ms, session idle time in s. -/
structure TimerTable where
  gateAck  : Nat
  handover : Nat
  reply    : Nat
  idle     : Nat
  deriving DecidableEq, Repr

/-- The data of a MGMT_REPLY, by what it carries (R174, R178; coded by R173 in Machine/Encode.lean). -/
inductive ReplyData where
  | none
  | port (e : PortEntry) (station : Byte) (link : LinkState) (score : Nat)
  | timer (v : Nat)
  | material (v : Nat)
  | pitch (v : Nat)
  | cls (c : TariffClass)
  | rate (v : Nat)
  | line (l : Line)
  | segment (s : Segment)
  | disposition (d : Disposition)
  | sense (e : SenseEntry)
  | output (e : OutputEntry) (high : Bool)
  | conditions (c : ConditionSet)
  | lock (state : LockState) (code : Key)
  | article (position : Option Nat) (entry : Option ArticleEntry) (count : Nat)
  | cleared (removed count : Nat)
  | session (s : Session)
  | classCounts (pairs : List (ClassIx × Nat)) (length : Nat)
  | context (c : Context)
  | errorRecord (e : ErrorRecord)
  | entryState (e : Entry)
  | entryRoute (e : Entry)
  | entryCredit (e : Entry)
  | holdEntry (length : Nat) (e : HoldEntry)
  | voucher (state : UnitState) (length : Nat) (r : Option VoucherRecord)
  | length (n : Nat)
  deriving DecidableEq, Repr

/-- A MGMT_REPLY (section 2.2) with the request tag it answers (R19). -/
structure Reply where
  tag    : Byte
  status : Status
  data   : ReplyData
  deriving DecidableEq, Repr

/-- Whether a request of a controller port is being carried out (R172): none; taken from the receive queue; or taken from a
port that has left UP since, so that its reply is dropped. -/
inductive Carried where
  | none | carrying | orphaned
  deriving DecidableEq, Repr

/-- What the management unit holds for a CONTROLLER port (R172, R182): its reply slot, the request being carried out, and
the reply a store save owes it. -/
structure ControllerSlot where
  reply   : Option Reply
  carried : Carried
  owed    : Option Reply
  deriving DecidableEq, Repr

/-- A store save in progress (R182): the requester whose reply will be owed, unless its port has left UP, and the copy of
the image body. -/
structure Save where
  requester : Option Requester
  copy      : List Byte
  deriving DecidableEq, Repr

/-- The management unit (chapter 11). `loading` holds from a power-on reset until the store read completes (R181). -/
structure ManagementUnit where
  timers  : TimerTable
  slots   : Vector ControllerSlot 12
  save    : Option Save
  loading : Bool
  deriving DecidableEq, Repr

/-! ### Frames the part sends, and the link ports -/

/-- A frame the part sends, by kind (section 2.2); its bytes are built in Machine/Encode.lean. -/
inductive TxFrame where
  | announce (role : Role) (credits : Nat)
  | credit (count : Nat)
  | intake (f : IntakeFrame)
  | release (tag : Tag) (gen : Gen) (seq : Byte)
  | tally (state : SessionState) (containers total : Nat)
  | gateSet (tag : Tag) (gen : Gen) (hop : Nat) (gate : Gate) (position : Position)
  | gateClear (c : ClearFrame)
  | voucher (r : VoucherRecord)
  | mgmtReply (r : Reply)
  | notice (c : ConditionSet)
  | faultReport (e : ErrorRecord)
  | voucherReport (r : VoucherReport)
  | pass (source : Port) (f : RxFrame)
  | undeliverable (f : RxFrame)
  deriving DecidableEq, Repr

/-- What the dispatcher holds at the head of a receive queue (R24): the PASS that stands there, or the UNDELIVERABLE held in
its place (R29). -/
inductive Held where
  | pass
  | undeliverable (f : RxFrame)
  deriving DecidableEq, Repr

/-- A link port (chapter 1). The queued count of R11 is the length of `rx`. `carrier` is what the line receiver reports
(R4), `held` the dispatcher's hold on the head of `rx` (R24), and `sent` the model's own record of the frames put on the
link, oldest first. -/
structure LinkPort where
  entry       : PortEntry
  stationCode : Byte
  link        : LinkState
  carrier     : Bool
  errorScore  : Nat
  goodFrames  : Nat
  rx          : List RxFrame
  granted     : Nat
  taken       : Nat
  tx          : List TxFrame
  txCredit    : Nat
  held        : Option Held
  sent        : List TxFrame
  deriving DecidableEq, Repr

/-- The state of the part. -/
structure State where
  ports     : Vector LinkPort 12
  catalogue : Catalogue
  admission : Admission
  lines     : LineUnit
  transit   : TransitTable
  tally     : TallyUnit
  vouchers  : VoucherUnit
  faults    : FaultUnit
  cond      : ConditionUnit
  mgmt      : ManagementUnit
  store     : ConfigStore
  mail      : List Instr
  pending   : List Instr
  deriving DecidableEq, Repr

/-- Why the machine stops. The manual gives every command an effect in every state, so no meaning of this model raises a
fault: the type has no constructor, and that is SAFE (nothing is claimed of a stopped machine). -/
inductive Fault where
  deriving DecidableEq, Repr

/-- Why a command is refused. -/
inductive Refusal where
  /-- Raised by `exec` alone, for a command that has no meaning yet. SAFE: the machine stops where the part goes on. No arm
  of `exec` raises it any more. -/
  | notModelled (mnemonic : String)
  deriving DecidableEq, Repr

/-! ### Values after a power-on reset -/

/-- The default port table entry (R1): port 0 CONTROLLER, the others UNUSED. -/
def PortEntry.default (p : Port) : PortEntry :=
  { role := if p = 0 then .controller else .unused, enabled := true, counterPort := none, creditLimit := 100000, tare := 0,
    holdLimit := 8000 }

/-- A link port after a power-on reset, while the store read runs (section 1.7). -/
def LinkPort.reset (p : Port) : LinkPort :=
  { entry := .default p, stationCode := 0, link := .disabled, carrier := false, errorScore := 0, goodFrames := 0, rx := [],
    granted := 0, taken := 0, tx := [], txCredit := 0, held := none, sent := [] }

/-- The twelve values of a per-port table, by port. -/
def perPort {α : Type} (f : Port → α) : Vector α 12 :=
  #v[f 0, f 1, f 2, f 3, f 4, f 5, f 6, f 7, f 8, f 9, f 10, f 11]

/-- The catalogue after a power-on reset (section 3.6), with the default tables of R44, R48 and R54. -/
def Catalogue.reset : Catalogue :=
  { articles := [], allowances := #v[40, 60, 30, 30, 40, 0], classes := Vector.replicate 32 ⟨0, 0⟩,
    rates := Vector.replicate 4 0, lock := .locked, code := BitVec.allOnes 128 }

/-- The default line record of line l (R101). -/
def LineRecord.default (l : LineIx) : LineRecord :=
  { route := [⟨0, 0, .pass⟩], segments := [⟨l.val, by omega⟩], binPort := 0, overflow := none, materials := 0,
    nearFull := 80, full := 95, transitLimit := 12000 }

/-- A line after a power-on reset (R101): DISABLED by the default record, with no port UP. -/
def Line.reset (l : LineIx) : Line :=
  { record := .default l, enabled := false, causes := ⟨true, false, false, true, true⟩, lastFill := 0, state := .disabled,
    live := 0 }

/-- The line unit after a power-on reset (R90, R91, R101). -/
def LineUnit.reset : LineUnit :=
  { lines := #v[.reset 0, .reset 1, .reset 2, .reset 3, .reset 4, .reset 5, .reset 6, .reset 7],
    segments := Vector.replicate 12 ⟨0, 0⟩, pitches := #v[1, 2, 3, 10, 3], tags := Vector.replicate 64 ⟨true, 0⟩,
    holdQueue := [] }

/-- A transit entry that is not in use, with the generation of its last claim (R102). -/
def Entry.free (g : Gen) : Entry :=
  { state := .free, gen := g, step := none, use := none, record := none, hopIndex := none, heldRelease := false,
    timer := none }

/-- The default disposition of each fault number (R150). -/
def Disposition.default (n : Nat) : Disposition :=
  if n ≤ 11 then ⟨.giveBack, 0, .benign, false⟩
  else if n ≤ 13 then ⟨.giveBack, 0, .contributory, true⟩
  else if n = 14 then ⟨.stop, 0, .contributory, true⟩
  else if n = 15 then ⟨.giveBack, 0, .contributory, true⟩
  else if n ≤ 17 then ⟨.giveBack, 0, .benign, false⟩
  else if n ≤ 19 then ⟨.giveBack, 0, .benign, true⟩
  else ⟨.stop, 0, .contributory, true⟩

/-- The default disposition table (R150). -/
def defaultDispositions : Vector Disposition 32 :=
  ⟨((List.range 32).map Disposition.default).toArray, by simp⟩

/-- The fault unit after a power-on reset, before any context is created (R162). -/
def FaultUnit.reset : FaultUnit :=
  { dispositions := defaultDispositions, contexts := Vector.replicate 12 none, reports := Vector.replicate 12 [] }

/-- The condition unit after a power-on reset, while the store read runs (R171). -/
def ConditionUnit.reset : ConditionUnit :=
  { sense := Vector.replicate 8 ⟨.none, 250⟩, inputs := Vector.replicate 8 ⟨false, .idle, none⟩,
    latchCount := Vector.replicate 8 0, roomStops := 0, outputs := Vector.replicate 8 ⟨.manual, .activeHigh, false⟩,
    high := Vector.replicate 8 false, set := 0, mask := 0, queued := Vector.replicate 12 false,
    lineStates := Vector.replicate 8 .closed, ctxStates := Vector.replicate 12 .stopped }

/-- The default timer table (R176). -/
def TimerTable.default : TimerTable := { gateAck := 150, handover := 3000, reply := 5000, idle := 60 }

/-- A controller slot with nothing in it (R183). -/
def ControllerSlot.empty : ControllerSlot := { reply := none, carried := .none, owed := none }

/-- The machine right after a power-on reset (R33, R54, R80, R101, R120, R135, R148, R162, R171, R181, R183): every block at
its power-on values, the stored tables at their defaults until the store read completes (log entry 4), no per-port state
created yet, no port UP, no store fitted and every pin released (log entry 5), and no command waiting. -/
def State.reset : State :=
  { ports := perPort LinkPort.reset
    catalogue := .reset
    admission := { contexts := Vector.replicate 12 none, roomStop := false }
    lines := .reset
    transit := { entries := Vector.replicate 64 (Entry.free 0), backlog := Vector.replicate 12 [] }
    tally := { sessions := Vector.replicate 12 none, closingWait := [] }
    vouchers := { units := Vector.replicate 12 none, number := 0, reports := Vector.replicate 12 [], answer := none }
    faults := .reset
    cond := .reset
    mgmt := { timers := .default, slots := Vector.replicate 12 .empty, save := none, loading := true }
    store := { answers := false, format := 0, length := 0, check := 0, body := [] }
    mail := []
    pending := [] }

end Sys2Proof.Machine
end

