-- ==== Sys2Proof/Machine/Ops.lean ====
section
/-! DEFINITION. The operations every block shares: reading and replacing one cell of a table, handing a message to another
block, starting and stopping a timer, and offering a frame to a port (R14). -/

namespace Sys2Proof.Machine

/-! ### Cells of a table -/

/-- Cell i of a table. -/
def cell {α : Type} {n : Nat} (v : Vector α n) (i : Fin n) : α := v[i.val]

/-- The table with cell i replaced. -/
def put {α : Type} {n : Nat} (v : Vector α n) (i : Fin n) (x : α) : Vector α n := v.set i.val x i.isLt

/-- The table with every cell passed through f. -/
def mapCells {α β : Type} {n : Nat} (f : α → β) (v : Vector α n) : Vector β n :=
  ⟨(v.toList.map f).toArray, by simp⟩

/-- The number n as an index of a table of m cells, when it is one. -/
def index? (m n : Nat) : Option (Fin m) := if h : n < m then some ⟨n, h⟩ else none

/-- Every index of a table of n cells, lowest first. -/
def indices (n : Nat) : List (Fin n) := List.finRange n

/-! ### Bit sets -/

/-- Member i of a set held as bits. -/
def hasBit {n : Nat} (b : BitVec n) (i : Nat) : Bool := b.getLsbD i

/-- The set with member i added. -/
def addBit {n : Nat} (b : BitVec n) (i : Nat) : BitVec n := b ||| (1#n <<< i)

/-- The set with member i taken out. -/
def dropBit {n : Nat} (b : BitVec n) (i : Nat) : BitVec n := b &&& ~~~(1#n <<< i)

/-! ### State updates, one for each kind of owned state -/

/-- The link port p. -/
def State.port (s : State) (p : Port) : LinkPort := cell s.ports p

/-- Replaces link port p. -/
def State.setPort (s : State) (p : Port) (l : LinkPort) : State := { s with ports := put s.ports p l }

/-- The role port p holds (R1). -/
def State.role (s : State) (p : Port) : Role := (s.port p).entry.role

/-- Whether port p is UP. -/
def State.up (s : State) (p : Port) : Bool := (s.port p).link == .up

/-- The admission context of port p, when it has one (R56). -/
def State.context (s : State) (p : Port) : Option Context := cell s.admission.contexts p

/-- Replaces the admission context of port p. -/
def State.setContext (s : State) (p : Port) (c : Option Context) : State :=
  { s with admission := { s.admission with contexts := put s.admission.contexts p c } }

/-- The session of port p, when it has one (R121). -/
def State.session (s : State) (p : Port) : Option Session := cell s.tally.sessions p

/-- Replaces the session of port p. -/
def State.setSession (s : State) (p : Port) (x : Option Session) : State :=
  { s with tally := { s.tally with sessions := put s.tally.sessions p x } }

/-- The counter unit of port p, when it has one (R140). -/
def State.unit (s : State) (p : Port) : Option CounterUnit := cell s.vouchers.units p

/-- Replaces the counter unit of port p. -/
def State.setUnit (s : State) (p : Port) (u : Option CounterUnit) : State :=
  { s with vouchers := { s.vouchers with units := put s.vouchers.units p u } }

/-- The fault context of port p, when it has one (R152). -/
def State.faultContext (s : State) (p : Port) : Option FaultContext := cell s.faults.contexts p

/-- Replaces the fault context of port p. -/
def State.setFaultContext (s : State) (p : Port) (c : Option FaultContext) : State :=
  { s with faults := { s.faults with contexts := put s.faults.contexts p c } }

/-- Line l. -/
def State.line (s : State) (l : LineIx) : Line := cell s.lines.lines l

/-- Replaces line l. -/
def State.setLine (s : State) (l : LineIx) (x : Line) : State :=
  { s with lines := { s.lines with lines := put s.lines.lines l x } }

/-- The transit entry with a tag (R102). -/
def State.entry (s : State) (t : Tag) : Entry := cell s.transit.entries t

/-- Replaces a transit entry. -/
def State.setEntry (s : State) (t : Tag) (e : Entry) : State :=
  { s with transit := { s.transit with entries := put s.transit.entries t e } }

/-- Replaces the clear backlog of port p (R110). -/
def State.setBacklog (s : State) (p : Port) (b : List ClearFrame) : State :=
  { s with transit := { s.transit with backlog := put s.transit.backlog p b } }

/-- The controller slot of port p (R172). -/
def State.slot (s : State) (p : Port) : ControllerSlot := cell s.mgmt.slots p

/-- Replaces the controller slot of port p. -/
def State.setSlot (s : State) (p : Port) (x : ControllerSlot) : State :=
  { s with mgmt := { s.mgmt with slots := put s.mgmt.slots p x } }

/-- Hands a message to another block: it joins the messages sent and not yet taken (log entry 1). -/
def State.post (s : State) (m : Instr) : State := { s with mail := s.mail ++ [m] }

/-- The waiting messages for which `mine` holds, taken now, oldest first: what one block has sent another comes before what it
asks of it later (log entry 2). -/
def takeWaiting (mine : Instr → Bool) (take : State → Instr → State) (s : State) : State :=
  let waiting := s.mail.filter mine
  if waiting.isEmpty then s else waiting.foldl take { s with mail := s.mail.filter fun m => !mine m }

/-- Asks the condition unit to set a condition (R168). -/
def State.request (s : State) (c : Condition) : State := s.post (.conditionRequest c)

/-- The ports that hold the role CONTROLLER and are UP, by number (R32). -/
def State.controllersUp (s : State) : List Port :=
  (indices 12).filter fun p => s.role p == .controller && s.up p

/-! ### Timers (R177) -/

/-- The timer started, or restarted, with a value of t ms: it is due at the tick that ends the interval t to t + 1 ms
(R177, log entry 3). -/
def startTimer (t : Nat) : Timer := some (t + 1)

/-- The timer stopped. -/
def stopTimer : Timer := none

/-- The session idle timer started with the table value, in s; a value of 0 disables it (R133, R177). -/
def startIdleTimer (s : State) : Timer :=
  if s.mgmt.timers.idle = 0 then none else startTimer (s.mgmt.timers.idle * 1000)

/-! ### Offering a frame to a port (R14) -/

/-- What a port answers to an offer. -/
inductive Offer where
  | accepted | queueFull | notUp
  deriving DecidableEq, Repr

/-- The answer port p gives to an offer made now (R14). -/
def offerAnswer (s : State) (p : Port) : Offer :=
  if (s.port p).link ≠ .up then .notUp
  else if Config.txPlaces ≤ (s.port p).tx.length then .queueFull
  else .accepted

/-- The frame joins the tail of port p's transmit queue (R14). -/
def enqueue (s : State) (p : Port) (f : TxFrame) : State :=
  s.setPort p { s.port p with tx := (s.port p).tx ++ [f] }

/-- Port p after an offer of a frame: it joins the queue when the offer is accepted (R14). -/
def offer (s : State) (p : Port) (f : TxFrame) : State :=
  match offerAnswer s p with
  | .accepted => enqueue s p f
  | .queueFull => s
  | .notUp => s

/-- Offers the head of a waiting list, and after each acceptance the next, at a notice that a place is free. What is left
waits for the next notice; an offer refused NOT_UP drops the rest (R58, R110, R147, R160). Answers the waiting rest and the
state. -/
def offerList {α : Type} (frame : α → TxFrame) (p : Port) : List α → State → List α × State
  | [], s => ([], s)
  | x :: xs, s =>
    match offerAnswer s p with
    | .accepted => offerList frame p xs (enqueue s p (frame x))
    | .queueFull => (x :: xs, s)
    | .notUp => ([], s)

/-- The copy of a report for one controller port: offered when its report list is empty, else placed in the list while it
holds fewer than 8, else dropped (R147, R160). Answers the list and the state. -/
def offerReport {α : Type} (frame : α → TxFrame) (p : Port) (list : List α) (x : α) (s : State) : List α × State :=
  if list.isEmpty then
    match offerAnswer s p with
    | .accepted => ([], enqueue s p (frame x))
    | .queueFull => ([x], s)
    | .notUp => ([], s)
  else if list.length < Config.reportPlaces then (list ++ [x], s)
  else (list, s)

end Sys2Proof.Machine
end

