-- ==== Sys2Proof/Machine/Operands.lean ====
section
/-! DEFINITION. The operand forms of the management requests: the codes of the enumerated fields (R20, R173), the records a
WRITE_ENTRY or an article operation offers judged whole, and the values clamped on writing (R175). -/

namespace Sys2Proof.Machine

/-! ### Codes (R20): the position of a value in its list, counting from 0 -/

/-- The value a code names in a list of values, when it names one (R20). -/
def decodeName {α : Type} (names : List α) (n : Nat) : Option α := names[n]?

/-- The position of a value in its list of values (R20). -/
def codeOf {α : Type} [DecidableEq α] (names : List α) (x : α) : Nat := names.idxOf x

/-- The roles in order (R20). -/
def roles : List Role := [.unused, .intake, .sorter, .bin, .counter, .controller]
/-- The materials in order (R44). -/
def materials : List Material := [.pet, .glass, .alu, .steel, .hdpe, .other]
/-- The shapes in order (section 2.3). -/
def shapes : List Shape := [.can, .bottleS, .bottleL, .crate, .other]
/-- The marks in order (section 2.3). -/
def marks : List Mark := [.seen, .absent, .unread]
/-- The gate positions in order (section 2.3). -/
def positions : List Position := [.pass, .left, .right]
/-- The gate results in order (section 2.3). -/
def gateResults : List GateResult := [.normal, .jammed, .conflict, .busy]
/-- The voucher results in order (section 2.2). -/
def voucherResults : List VoucherResult := [.printed, .paperOut, .refused]
/-- The values of admin enable and of a line's enable field in order: enabled, disabled (R1, R81). -/
def enables : List Bool := [true, false]
/-- The disposition actions in order (R150). -/
def actions : List Action := [.giveBack, .keep, .stop]
/-- The fault classes in order (R150). -/
def faultClasses : List FaultClass := [.benign, .contributory]
/-- The polarities in order (R166). -/
def polarities : List Polarity := [.activeHigh, .activeLow]
/-- The manual values in order: active, inactive (R166). -/
def manualValues : List Bool := [true, false]

/-- A single flag: 1 for set and 0 for clear (R173). -/
def decodeFlag (n : Nat) : Option Bool := if n = 0 then some false else if n = 1 then some true else none

/-- A field that may be NONE, which is coded as 255 (R173): none when the code is outside its set. -/
def decodeOptional (m n : Nat) : Option (Option (Fin m)) :=
  if n = 255 then some none
  else match index? m n with
    | none => none
    | some i => some (some i)

/-! ### Clamping (R175) -/

/-- A value clamped to a range. -/
def clamp (lo hi n : Nat) : Nat := if n < lo then lo else if hi < n then hi else n

/-- A signed value clamped to a range. -/
def clampInt (lo hi n : Int) : Int := if n < lo then lo else if hi < n then hi else n

/-- The reply status of a write with clamping: DONE_CLAMPED when a value was moved (R175). -/
def clampStatus (moved : Bool) : Status := if moved then .doneClamped else .done

/-! ### Port entries (R2, checks 1 and 6) -/

/-- A port entry as offered, when its role, admin enable and counter port lie in their sets (R2, check 1). The credit limit,
tare offset and hold limit are clamped to their ranges (R2, check 6). -/
def portEntryOf (x : PortFields) : Option PortEntry :=
  match decodeName roles x.role, decodeName enables x.admin, decodeOptional 12 x.counterPort with
  | some r, some e, some c =>
    some { role := r, enabled := e, counterPort := c, creditLimit := clamp 1 999999 x.creditLimit,
           tare := clampInt (-500) 500 x.tare, holdLimit := clamp 0 60000 x.holdLimit }
  | _, _, _ => none

/-- Whether a port entry as offered had a value moved by clamping (R2, check 6). -/
def portClamped (x : PortFields) (e : PortEntry) : Bool :=
  e.creditLimit != x.creditLimit || e.tare != x.tare || e.holdLimit != x.holdLimit

/-- The fields of a port entry as a WRITE_ENTRY would carry them, with another admin enable (R3). -/
def fieldsOf (e : PortEntry) (enabled : Bool) : PortFields :=
  { role := codeOf roles e.role, admin := codeOf enables enabled
    counterPort := match e.counterPort with
      | none => 255
      | some c => c.val
    creditLimit := e.creditLimit, tare := e.tare, holdLimit := e.holdLimit }

/-! ### Article entries (R35) -/

/-- A crate part as offered, when it passes test 5 of R35. -/
def cratePartOf (x : CrateFields) : Option CratePart :=
  match index? 32 x.contentClass with
  | none => none
  | some c =>
    if x.capacity = 0 ∨ 40 < x.capacity ∨ x.bottleMax < x.bottleMin then none
    else some ⟨c, x.capacity, x.bottleMin, x.bottleMax⟩

/-- The crate part of an offered entry: none when tests 4 and 5 of R35 refuse it. -/
def cratesAgree (shape : Shape) (x : Option CrateFields) : Option (Option CratePart) :=
  match x with
  | none => if shape = .crate then none else some none
  | some y =>
    if shape = .crate then
      match cratePartOf y with
      | none => none
      | some c => some (some c)
    else none

/-- An offered article entry, when it is valid (R35). No field is clamped. -/
def articleOf (x : ArticleFields) : Option ArticleEntry :=
  match index? 32 x.depositClass, decodeName materials x.material, decodeName shapes x.shape, index? 8 x.line with
  | some d, some m, some sh, some l =>
    match cratesAgree sh x.crate with
    | none => none
    | some c =>
      if x.code = 0 ∨ x.weightMax < x.weightMin ∨ (sh = .crate ∧ x.refillable = false) then none
      else some { code := x.code, depositClass := d, material := m, shape := sh, weightMin := x.weightMin.val,
                  weightMax := x.weightMax.val, line := l, active := x.active, markRequired := x.markRequired,
                  refillable := x.refillable, crate := c }
  | _, _, _, _ => none

/-! ### Line records (R82) -/

/-- A hop as offered, when its port, gate and position lie in their sets (R82). -/
def hopOf (x : Nat × Nat × Nat) : Option Hop :=
  match index? 12 x.1, index? 4 x.2.1, decodeName positions x.2.2 with
  | some p, some g, some q => some ⟨p, g, q⟩
  | _, _, _ => none

/-- Every item of a list converted, when each one can be. -/
def convertAll {α β : Type} (f : α → Option β) : List α → Option (List β)
  | [] => some []
  | x :: xs =>
    match f x, convertAll f xs with
    | some y, some ys => some (y :: ys)
    | _, _ => none

/-- A line record as offered to line l, when it passes test 2 of R82; its transit limit is clamped (R82, test 4). -/
def lineRecordOf (l : LineIx) (x : LineFields) : Option LineRecord :=
  match convertAll hopOf x.route, convertAll (index? 12) x.segments, index? 12 x.binPort, decodeOptional 8 x.overflow with
  | some r, some g, some b, some o =>
    if r.isEmpty ∨ 6 < r.length ∨ g.isEmpty ∨ 4 < g.length ∨ ¬ g.Nodup ∨ o = some l ∨ 100 ≤ x.nearFull ∨ x.full = 0 ∨
        100 < x.full ∨ x.full ≤ x.nearFull then none
    else some { route := r, segments := g, binPort := b, overflow := o, materials := x.materials, nearFull := x.nearFull,
                full := x.full, transitLimit := clamp 500 60000 x.transitLimit }
  | _, _, _, _ => none

/-! ### Dispositions, sense and output entries (R150, R163, R166) -/

/-- A disposition as offered, when its fields lie in their sets (R150, R175). -/
def dispositionOf (x : DispositionFields) : Option Disposition :=
  match decodeName actions x.action, index? 8 x.keepLine, decodeName faultClasses x.cls, decodeFlag x.report with
  | some a, some l, some c, some r => some ⟨a, l, c, r⟩
  | _, _, _, _ => none

/-- A sense function as offered: code 255 NONE (R173), 1 BIN_FULL with its line, 2 ROOM_STOP (R163, log entry 9). -/
def senseFunctionOf (function line : Nat) : Option SenseFunction :=
  match function with
  | 255 => some .none
  | 1 => match index? 8 line with
    | none => none
    | some l => some (.binFull l)
  | 2 => some .roomStop
  | _ => none

/-- A sense entry as offered, when its function lies in its set; the debounce time is clamped (R163). -/
def senseEntryOf (x : SenseFields) : Option SenseEntry :=
  match senseFunctionOf x.function x.line with
  | none => none
  | some f => some ⟨f, clamp 20 2000 x.debounce⟩

/-- An output function as offered: code 0 MANUAL, 1 LINE_OPEN with its line, 2 INTAKE_READY with its port, 3 ANY_CONDITION
(R166, log entry 9). -/
def outputFunctionOf (function operand : Nat) : Option OutputFunction :=
  match function with
  | 0 => some .manual
  | 1 => match index? 8 operand with
    | none => none
    | some l => some (.lineOpen l)
  | 2 => match index? 12 operand with
    | none => none
    | some p => some (.intakeReady p)
  | 3 => some .anyCondition
  | _ => none

/-- An output entry as offered, when its fields lie in their sets (R166). -/
def outputEntryOf (x : OutputFields) : Option OutputEntry :=
  match outputFunctionOf x.function x.operand, decodeName polarities x.polarity, decodeName manualValues x.manual with
  | some f, some p, some m => some ⟨f, p, m⟩
  | _, _, _ => none

/-! ### Timers (R176) -/

/-- A timer value clamped to the range of its index; for the session idle time 0 is in range (R176). -/
def clampTimer (i : Fin 4) (v : Nat) : Nat :=
  match i with
  | 0 => clamp 10 2000 v
  | 1 => clamp 200 10000 v
  | 2 => clamp 500 30000 v
  | 3 => if v = 0 then 0 else clamp 10 600 v

/-- The timer table with one value replaced (R176). -/
def setTimerValue (t : TimerTable) (i : Fin 4) (v : Nat) : TimerTable :=
  match i with
  | 0 => { t with gateAck := v }
  | 1 => { t with handover := v }
  | 2 => { t with reply := v }
  | 3 => { t with idle := v }

/-- One value of the timer table (R176). -/
def timerValue (t : TimerTable) (i : Fin 4) : Nat :=
  match i with
  | 0 => t.gateAck
  | 1 => t.handover
  | 2 => t.reply
  | 3 => t.idle

end Sys2Proof.Machine
end

