-- ==== Sys2Proof/Decode.lean ====
section
/-! DEFINITION. The decoders: a received frame read as the command its owner block takes (R18, R25 to R27), and the payload of a
MGMT_REQ read as a management request (R173 to R175). The rows of spec/opcode_table.json give no bits, so no table word
spells a command. -/

/-- The command a table word spells. No row of spec/opcode_table.json gives bits: none. -/
def Sys2Proof.decodeTableWord (_nbits _w : Nat) : Option Sys2Proof.Instr := none

namespace Sys2Proof.Machine

/-! ### Frame kinds (section 2.2) -/

/-- The frame kinds (section 2.2), in the order of the table. -/
inductive Kind where
  | announce | credit | sighting | dropped | withdrawn | returned | present | finish | headFault
  | release | giveBack | hold | tally | intakeStop | intakeGo
  | gateSet | gateClear | gateAck | passage | arrival | fill | voucher | voucherDone
  | mgmtReq | mgmtReply | notice | faultReport | voucherReport | pass | undeliverable
  deriving DecidableEq, Repr

/-- The kinds with their codes (section 2.2). -/
def kindCodes : List (Byte × Kind) :=
  [(0x01, .announce), (0x02, .credit), (0x10, .sighting), (0x11, .dropped), (0x12, .withdrawn), (0x13, .returned),
   (0x14, .present), (0x15, .finish), (0x16, .headFault), (0x20, .release), (0x21, .giveBack), (0x22, .hold),
   (0x23, .tally), (0x24, .intakeStop), (0x25, .intakeGo), (0x30, .gateSet), (0x31, .gateClear), (0x32, .gateAck),
   (0x33, .passage), (0x40, .arrival), (0x41, .fill), (0x50, .voucher), (0x51, .voucherDone), (0x60, .mgmtReq),
   (0x61, .mgmtReply), (0x62, .notice), (0x63, .faultReport), (0x64, .voucherReport), (0x70, .pass),
   (0x71, .undeliverable)]

/-- The kind a code names; every other code names none (section 2.2). -/
def kindOf (code : Byte) : Option Kind := (kindCodes.find? fun x => x.1 == code).map (·.2)

/-- The code of a kind (section 2.2). -/
def kindCode (k : Kind) : Byte :=
  match kindCodes.find? fun x => x.2 == k with
  | none => 0
  | some x => x.1

/-- The acceptance table: the kinds a station of a role may address to the switch (R26). -/
def acceptedKinds : Role → List Kind
  | .unused => []
  | .intake => [.sighting, .withdrawn, .returned, .dropped, .present, .finish, .headFault]
  | .sorter => [.gateAck, .passage]
  | .bin => [.arrival, .fill]
  | .counter => [.voucherDone]
  | .controller => [.mgmtReq]

/-! ### Numbers (R20) -/

/-- The number a list of bytes carries, most significant byte first (R20). -/
def number (bytes : List Byte) : Nat := bytes.foldl (fun n b => n * 256 + b.toNat) 0

/-- The number two bytes carry. -/
def word16 (b1 b0 : Byte) : Fin 65536 := (b1 ++ b0).toFin

/-! ### Station frames (R21, R27) -/

/-- The material a SIGHTING reports: 6 is UNKNOWN, above 6 is outside the set (section 2.3, R27). -/
def sightedMaterial (n : Nat) : Option (Option Material) :=
  if n = 6 then some none
  else match decodeName materials n with
    | none => none
    | some m => some (some m)

/-- The fields of a SIGHTING, when they pass the form check; its count is handed on for a crate alone (R21, R27). -/
def sightingOf (seq : Byte) (code : ArticleCode) (shape material mark : Byte) (weight : Fin 65536)
    (count : Option (Fin 256)) : Option Sighting :=
  match decodeName shapes shape.toNat, sightedMaterial material.toNat, decodeName marks mark.toNat with
  | some sh, some m, some k => some ⟨seq, code, sh, m, k, weight, if sh = .crate then count else none⟩
  | _, _, _ => none

/-- The SIGHTING payload of 12 or 13 bytes (section 2.3, R21). -/
def sightingPayload : List Byte → Option Sighting
  | [q, c5, c4, c3, c2, c1, c0, sh, m, k, w1, w0] =>
    sightingOf q (BitVec.ofNat 48 (number [c5, c4, c3, c2, c1, c0])) sh m k (word16 w1 w0) none
  | [q, c5, c4, c3, c2, c1, c0, sh, m, k, w1, w0, n] =>
    sightingOf q (BitVec.ofNat 48 (number [c5, c4, c3, c2, c1, c0])) sh m k (word16 w1 w0) (some n.toFin)
  | _ => none

/-- A HEAD_FAULT: fault number 22 to 31 (R27). -/
def headFaultPayload (p : Port) : List Byte → Option Instr
  | [n, code] =>
    match index? 32 n.toNat with
    | none => none
    | some k => if k.val < 22 then none else some (.headFault p k code)
  | _ => none

/-- A GATE_ACK: tag, hop index and result in their ranges (R27). -/
def gateAckPayload (p : Port) (f : RxFrame) : Option Instr :=
  match f.payload with
  | [h, x] =>
    match index? 64 f.tag.toNat, index? 6 h.toNat, decodeName gateResults x.toNat with
    | some t, some i, some r => some (.gateAck p t f.gen i r)
    | _, _, _ => none
  | _ => none

/-- A PASSAGE: tag and gate in their ranges (R27). -/
def passagePayload (p : Port) (f : RxFrame) : Option Instr :=
  match f.payload with
  | [g] =>
    match index? 64 f.tag.toNat, index? 4 g.toNat with
    | some t, some k => some (.passage p t f.gen k)
    | _, _ => none
  | _ => none

/-- An ARRIVAL: no payload, the tag in its range (R27). -/
def arrivalPayload (p : Port) (f : RxFrame) : Option Instr :=
  match f.payload, index? 64 f.tag.toNat with
  | [], some t => some (.arrival p t f.gen)
  | _, _ => none

/-- A VOUCHER_DONE: number and result (R27). -/
def voucherDonePayload (p : Port) : List Byte → Option Instr
  | [n1, n0, x] =>
    match decodeName voucherResults x.toNat with
    | none => none
    | some r => some (.voucherDone p (word16 n1 n0) r)
  | _ => none

/-- A payload of one byte. -/
def oneByte (make : Byte → Instr) : List Byte → Option Instr
  | [b] => some (make b)
  | _ => none

/-- An empty payload. -/
def noBytes (i : Instr) : List Byte → Option Instr
  | [] => some i
  | _ => none

/-- The command of a station frame, with the source port, when it passes the form check (R26, R27). A MGMT_REQ is taken by
the management unit (R172) and the link control kinds by the port itself, so they spell none. -/
def stationCommand (p : Port) (k : Kind) (f : RxFrame) : Option Instr :=
  match k with
  | .sighting =>
    match sightingPayload f.payload with
    | none => none
    | some x => some (.sighting p x)
  | .dropped => oneByte (.dropped p) f.payload
  | .withdrawn => oneByte (.withdrawn p) f.payload
  | .returned => oneByte (.returned p) f.payload
  | .present => noBytes (.present p) f.payload
  | .finish => noBytes (.finish p) f.payload
  | .headFault => headFaultPayload p f.payload
  | .gateAck => gateAckPayload p f
  | .passage => passagePayload p f
  | .arrival => arrivalPayload p f
  | .fill => oneByte (fun b => .fill p b.toFin) f.payload
  | .voucherDone => voucherDonePayload p f.payload
  | _ => none

/-! ### Management requests (R173 to R175) -/

/-- What the management unit makes of a request: a status it answers at once (R175), or the command for the owner block. -/
inductive Request where
  | refused (status : Status)
  | command (i : Instr)
  deriving DecidableEq, Repr

/-- A request whose operands are shorter or longer than it needs (R175, test 3). -/
def wrongLength : Request := .refused .badValue

/-- The command made of the operands, or a refusal when their length is wrong (R175, test 3). -/
def whenFits : Option Instr → Request
  | none => wrongLength
  | some i => .command i

/-- n hops of 3 bytes each, and the bytes that follow (R173). -/
def takeHops : Nat → List Byte → Option (List (Nat × Nat × Nat) × List Byte)
  | 0, rest => some ([], rest)
  | n + 1, p :: g :: q :: rest =>
    match takeHops n rest with
    | none => none
    | some x => some ((p.toNat, g.toNat, q.toNat) :: x.1, x.2)
  | _ + 1, _ => none

/-- n numbers of 1 byte each, and the bytes that follow (R173). -/
def takeNumbers : Nat → List Byte → Option (List Nat × List Byte)
  | 0, rest => some ([], rest)
  | n + 1, b :: rest =>
    match takeNumbers n rest with
    | none => none
    | some x => some (b.toNat :: x.1, x.2)
  | _ + 1, [] => none

/-- The written fields of a port entry (R1, R173). -/
def portFieldsOf : List Byte → Option PortFields
  | [r, a, c, l2, l1, l0, t1, t0, h1, h0] =>
    some { role := r.toNat, admin := a.toNat, counterPort := c.toNat, creditLimit := number [l2, l1, l0],
           tare := (t1 ++ t0).toInt, holdLimit := number [h1, h0] }
  | _ => none

/-- The written fields of a line record after its two lists (R81, R173). -/
def lineTail (route : List (Nat × Nat × Nat)) (segments : List Nat) : List Byte → Option LineFields
  | [b, o, m, near, full, t1, t0] =>
    some { route := route, segments := segments, binPort := b.toNat, overflow := o.toNat, materials := m.setWidth 6,
           nearFull := near.toNat, full := full.toNat, transitLimit := number [t1, t0] }
  | _ => none

/-- The segment list of a line record and what follows (R81, R173). -/
def lineSegments (route : List (Nat × Nat × Nat)) : List Byte → Option LineFields
  | n :: rest =>
    match takeNumbers n.toNat rest with
    | none => none
    | some x => lineTail route x.1 x.2
  | [] => none

/-- The written fields of a line record (R81, R173). -/
def lineFieldsOf : List Byte → Option LineFields
  | n :: rest =>
    match takeHops n.toNat rest with
    | none => none
    | some x => lineSegments x.1 x.2
  | [] => none

/-- A crate part, which follows exactly when the shape is CRATE (R34, R173): the outer option is the length test. -/
def crateFieldsOf (shape : Nat) : List Byte → Option (Option CrateFields)
  | [] => if shape = 3 then none else some none
  | [c, k, m1, m0, x1, x0] =>
    if shape = 3 then some (some ⟨c.toNat, k.toNat, number [m1, m0], number [x1, x0]⟩) else none
  | _ => none

/-- An article entry as offered; the three flags are bits 0 to 2 of one byte (R34, R173). -/
def articleFieldsOf : List Byte → Option ArticleFields
  | c5 :: c4 :: c3 :: c2 :: c1 :: c0 :: d :: m :: sh :: a1 :: a0 :: b1 :: b0 :: l :: fl :: rest =>
    match crateFieldsOf sh.toNat rest with
    | none => none
    | some k =>
      some { code := BitVec.ofNat 48 (number [c5, c4, c3, c2, c1, c0]), depositClass := d.toNat, material := m.toNat,
             shape := sh.toNat, weightMin := word16 a1 a0, weightMax := word16 b1 b0, line := l.toNat,
             active := fl.getLsbD 0, markRequired := fl.getLsbD 1, refillable := fl.getLsbD 2, crate := k }
  | _ => none

/-- An article code (R173). -/
def codeOperand : List Byte → Option ArticleCode
  | [c5, c4, c3, c2, c1, c0] => some (BitVec.ofNat 48 (number [c5, c4, c3, c2, c1, c0]))
  | _ => none

/-- A 128-bit key or code (R173). -/
def keyOperand (bytes : List Byte) : Option Key :=
  if bytes.length = 16 then some (BitVec.ofNat 128 (number bytes)) else none

/-- Operands of one 2-byte number. -/
def oneWord (make : Nat → Instr) : List Byte → Option Instr
  | [v1, v0] => some (make (number [v1, v0]))
  | _ => none

/-- Operands of one condition set, 3 bytes (R173). -/
def conditionBytes (make : BitVec 24 → Instr) : List Byte → Option Instr
  | [b2, b1, b0] => some (make (b2 ++ b1 ++ b0))
  | _ => none

/-- The written fields of a tariff class: deposit and scheme (R45, R173). -/
def classBytes (make : Fin 65536 → Nat → Instr) : List Byte → Option Instr
  | [d1, d0, k] => some (make (word16 d1 d0) k.toNat)
  | _ => none

/-- Written fields of four bytes. -/
def fourBytes (make : Byte → Byte → Byte → Byte → Instr) : List Byte → Option Instr
  | [a, b, c, d] => some (make a b c d)
  | _ => none

/-- The command of a WRITE_ENTRY on a table, by the table's code (R174): none when the fields have another length.
A rate is one byte, as R173 codes a number whose range ends at 250 (log entry 39). -/
def writeCommand (r : Requester) (table index : Nat) (x : List Byte) : Option Instr :=
  match table with
  | 0 => (portFieldsOf x).map (.portWrite r index)
  | 1 => oneWord (.timerWrite r index) x
  | 2 => oneWord (.materialWrite r index) x
  | 3 => oneByte (fun v => .pitchWrite r index v.toNat) x
  | 4 => classBytes (.classWrite r index) x
  | 5 => oneByte (fun v => .schemeWrite r index v.toNat) x
  | 6 => (lineFieldsOf x).map (.lineWrite r index)
  | 7 => oneByte (fun v => .segmentWrite r index v.toNat) x
  | 8 => fourBytes (fun a l c f => .dispositionWrite r index ⟨a.toNat, l.toNat, c.toNat, f.toNat⟩) x
  | 9 => fourBytes (fun f l d1 d0 => .senseWrite r index ⟨f.toNat, l.toNat, number [d1, d0]⟩) x
  | 10 => fourBytes (fun f o q m => .outputWrite r index ⟨f.toNat, o.toNat, q.toNat, m.toNat⟩) x
  | 11 => conditionBytes (.maskWrite r index) x
  | 12 => (keyOperand x).map (.lockRecordWrite r index)
  | _ => none

/-- A WRITE_ENTRY: the table's code is judged before the length (R175). -/
def writeRequest (r : Requester) : List Byte → Request
  | [] => wrongLength
  | t :: rest =>
    if 12 < t.toNat then .refused .badTable
    else
      match rest with
      | [] => wrongLength
      | i :: fields => whenFits (writeCommand r t.toNat i.toNat fields)

/-- A READ_ENTRY; the lock record has a command of its own (R52, R174, R175). -/
def readRequest (r : Requester) : List Byte → Request
  | [] => wrongLength
  | t :: rest =>
    if 12 < t.toNat then .refused .badTable
    else
      match rest with
      | [i] => .command (if t = 12 then .lockRecordRead r i.toNat else .readEntry r t.toNat i.toNat)
      | _ => wrongLength

/-- A READ_STATE: the target is judged before the length (R175, R178). -/
def stateRequest (r : Requester) : List Byte → Request
  | [] => wrongLength
  | t :: rest =>
    if 6 < t.toNat then .refused .badTable
    else
      match rest with
      | [i, q] => .command (.readState r t.toNat i.toNat q.toNat)
      | _ => wrongLength

/-- A control operation that is not in its list: the port or line is judged before it (R88, R174). -/
def unknownControl (limit index : Nat) : Request := .refused (if limit ≤ index then .badIndex else .badValue)

/-- INTAKE_CONTROL: RESUME, STOP or CLEAR_FAULT (R174). -/
def intakeRequest (r : Requester) (port op : Nat) : Request :=
  match op with
  | 0 => .command (.intakeResume r port)
  | 1 => .command (.intakeStopControl r port)
  | 2 => .command (.clearFault r port)
  | _ => unknownControl 12 port

/-- PORT_CONTROL: ENABLE, DISABLE or RESET (R174). -/
def portRequest (r : Requester) (port op : Nat) : Request :=
  match op with
  | 0 => .command (.portEnable r port)
  | 1 => .command (.portDisable r port)
  | 2 => .command (.portReset r port)
  | _ => unknownControl 12 port

/-- LINE_CONTROL: ENABLE or DISABLE (R88, R174). -/
def lineRequest (r : Requester) (line op : Nat) : Request :=
  match op with
  | 0 => .command (.lineEnable r line)
  | 1 => .command (.lineDisable r line)
  | _ => unknownControl 8 line

/-- The operands of an operation that takes a port or line and one of a list of controls (R174). -/
def controlRequest (make : Nat → Nat → Request) : List Byte → Request
  | [x, op] => make x.toNat op.toNat
  | _ => wrongLength

/-- The request an operation code and its operands make (R174): the operations are coded from 0 to 18. -/
def operationRequest (r : Requester) (op : Nat) (x : List Byte) : Request :=
  match op with
  | 0 => readRequest r x
  | 1 => writeRequest r x
  | 2 => whenFits ((articleFieldsOf x).map (.articleInsert r))
  | 3 => whenFits ((articleFieldsOf x).map (.articleReplace r))
  | 4 => whenFits ((codeOperand x).map (.articleDelete r))
  | 5 => whenFits ((codeOperand x).map (.articleFind r))
  | 6 => whenFits (oneWord (.articleRead r) x)
  | 7 => whenFits (noBytes (.articleClear r) x)
  | 8 => whenFits ((keyOperand x).map (.unlock r))
  | 9 => whenFits (noBytes (.relock r) x)
  | 10 => whenFits (conditionBytes (.clearConditions r) x)
  | 11 => whenFits (oneByte (.clearSense r) x)
  | 12 => controlRequest (intakeRequest r) x
  | 13 => controlRequest (portRequest r) x
  | 14 => controlRequest (lineRequest r) x
  | 15 => whenFits (oneByte (fun p => .counterResume r p.toNat) x)
  | 16 => stateRequest r x
  | 17 => whenFits (noBytes (.softReset r) x)
  | 18 => whenFits (noBytes (.storeSave r) x)
  | _ => .refused .badValue

/-- A MGMT_REQ payload read as a request (R175): a code above 18 names no operation. The form check has refused an empty
payload (R27). -/
def requestOf (r : Requester) : List Byte → Request
  | [] => wrongLength
  | op :: operands => operationRequest r op.toNat operands

end Sys2Proof.Machine
end

