-- ==== Sys2Proof/Machine/Replies.lean ====
section
/-! DEFINITION. The reply slots of the management unit (R172) and the owed replies of store saves (R182): how a management
request is taken and answered. -/

namespace Sys2Proof.Machine

/-- The reply in a port's slot offered to the port (R172): accepted it leaves the slot, refused QUEUE_FULL it stays, refused
NOT_UP it is dropped. -/
def offerSlot (p : Port) (s : State) : State :=
  let x := s.slot p
  match x.reply with
  | none => s
  | some r =>
    match offerAnswer s p with
    | .accepted => (enqueue s p (.mgmtReply r)).setSlot p { x with reply := none }
    | .queueFull => s
    | .notUp => s.setSlot p { x with reply := none }

/-- The reply owed by a store save goes into the slot when the slot is EMPTY and no request being carried out is to fill it
(R172, R182), and is offered. Where such a request holds the EMPTY slot, its own reply goes first (log entry 53). -/
def settleOwed (p : Port) (s : State) : State :=
  let x := s.slot p
  match x.carried, x.reply, x.owed with
  | .none, none, some r => offerSlot p (s.setSlot p { x with reply := some r, owed := none })
  | _, _, _ => s

/-- The slot's reply offered, and then a reply owed by a save when the slot has become EMPTY (R172, R182). -/
def offerReplies (p : Port) (s : State) : State := settleOwed p (offerSlot p s)

/-- Whether a message is a request that keeps every other request from being taken: a SOFT_RESET until its reply is placed
(R179), a STORE_SAVE until its copy is complete (R182). -/
def keepsOthersOut : Instr → Bool
  | .softReset _ => true
  | .storeSave _ => true
  | _ => false

/-- Whether the management unit takes a new request of a port (R25, R172, R179, R182): the port holds CONTROLLER, its slot is
EMPTY, no save reply is owed, no earlier request of the port is being carried out, and no request that keeps the others out
is. -/
def takesRequest (s : State) (p : Port) : Bool :=
  s.role p == .controller && (s.slot p).reply.isNone && (s.slot p).owed.isNone && (s.slot p).carried == .none
    && !(s.mail.any keepsOthersOut)

/-- The requester of a management request. -/
def requesterOf : Instr → Option Requester
  | .readEntry r _ _ => some r
  | .lockRecordRead r _ => some r
  | .portWrite r _ _ => some r
  | .timerWrite r _ _ => some r
  | .materialWrite r _ _ => some r
  | .pitchWrite r _ _ => some r
  | .classWrite r _ _ _ => some r
  | .schemeWrite r _ _ => some r
  | .lineWrite r _ _ => some r
  | .segmentWrite r _ _ => some r
  | .dispositionWrite r _ _ => some r
  | .senseWrite r _ _ => some r
  | .outputWrite r _ _ => some r
  | .maskWrite r _ _ => some r
  | .lockRecordWrite r _ _ => some r
  | .articleInsert r _ => some r
  | .articleReplace r _ => some r
  | .articleDelete r _ => some r
  | .articleFind r _ => some r
  | .articleRead r _ => some r
  | .articleClear r => some r
  | .unlock r _ => some r
  | .relock r => some r
  | .clearConditions r _ => some r
  | .clearSense r _ => some r
  | .intakeResume r _ => some r
  | .intakeStopControl r _ => some r
  | .clearFault r _ => some r
  | .portEnable r _ => some r
  | .portDisable r _ => some r
  | .portReset r _ => some r
  | .lineEnable r _ => some r
  | .lineDisable r _ => some r
  | .counterResume r _ => some r
  | .readState r _ _ _ => some r
  | .softReset r => some r
  | .storeSave r => some r
  | _ => none

/-- Whether a message is a management request of port p. -/
def isRequestOf (p : Port) (m : Instr) : Bool := (requesterOf m).any fun r => r.port == p

/-- Whether a request of port p is carried out now (R172). While one is being carried out it is that one, which has left the
messages, and no other while that one is still on its way to its owner; else it is one the management unit takes. -/
def mayTake (s : State) (p : Port) : Bool :=
  if (s.slot p).carried = .none then takesRequest s p else !(s.mail.any (isRequestOf p))

/-- The reply to a request placed in its slot and offered (R172); the reply to a request of a port that has left UP since it
was taken is dropped. -/
def placeReply (r : Requester) (status : Status) (data : ReplyData) (s : State) : State :=
  let x := s.slot r.port
  if x.carried = .orphaned then s.setSlot r.port { x with carried := .none }
  else offerReplies r.port (s.setSlot r.port { x with reply := some ⟨r.tag, status, data⟩, carried := .none })

/-- What an owner block answers to a management request: the status and data of the reply, and the state. -/
structure Answer where
  status : Status
  data   : ReplyData
  state  : State
  deriving DecidableEq, Repr

/-- An answer with no data. -/
def answer (status : Status) (s : State) : Answer := ⟨status, .none, s⟩

/-- A management request taken, carried out by its owner as one event, and answered (R172). One that is not taken changes
nothing (log entry 6). -/
def manage (r : Requester) (owner : State → Answer) (s : State) : State :=
  if mayTake s r.port then placeReply r (owner s).status (owner s).data (owner s).state else s

end Sys2Proof.Machine
end

