-- ==== Sys2Proof/Machine/Catalogue.lean ====
section
/-! DEFINITION. The catalogue (chapter 3): the article table, lookups, the protected tables and the tariff lock, and the
meanings of the management requests the catalogue owns. -/

namespace Sys2Proof.Machine

/-! ### The article table (R36) -/

/-- The position a code has, or would be inserted at: the number of entries whose code is lower (R36). -/
def positionOf (code : ArticleCode) (t : List ArticleEntry) : Nat := (t.filter fun e => e.code < code).length

/-- The entry with a code (R36). -/
def findArticle (code : ArticleCode) (t : List ArticleEntry) : Option ArticleEntry := t.find? fun e => e.code == code

/-- An entry inserted at its ordered position (R37, test 4). -/
def insertArticle (x : ArticleEntry) : List ArticleEntry → List ArticleEntry
  | [] => [x]
  | e :: es => if x.code < e.code then x :: e :: es else e :: insertArticle x es

/-- The entry with the offered code overwritten (R38). -/
def replaceArticle (x : ArticleEntry) (t : List ArticleEntry) : List ArticleEntry :=
  t.map fun e => if e.code = x.code then x else e

/-- The entry with a code removed (R39). -/
def deleteArticle (code : ArticleCode) (t : List ArticleEntry) : List ArticleEntry := t.filter fun e => e.code != code

/-- Replaces the article table. -/
def withArticles (s : State) (t : List ArticleEntry) : State := { s with catalogue := { s.catalogue with articles := t } }

/-- The index of a material in the material table (R44). -/
def materialIndex : Material → Fin 6
  | .pet => 0
  | .glass => 1
  | .alu => 2
  | .steel => 3
  | .hdpe => 4
  | .other => 5

/-- The answer to a lookup (R42): not found, with the position at which the code would be inserted, or the article copy. -/
inductive LookupAnswer where
  | notFound (position : Nat)
  | found (a : ArticleCopy)
  deriving DecidableEq, Repr

/-- A lookup answered from the tables as they stand (R42). -/
def lookup (c : Catalogue) (code : ArticleCode) : LookupAnswer :=
  if code = 0 then .notFound 0
  else
    match findArticle code c.articles with
    | none => .notFound (positionOf code c.articles)
    | some e =>
      .found {
        entry := e, position := positionOf code c.articles, allowance := cell c.allowances (materialIndex e.material)
        tariff := cell c.classes e.depositClass
        content := e.crate.map fun k => cell c.classes k.contentClass }

/-- The data of an article reply: the position, the entry, and the count as it stands after the operation (R36). -/
def articleData (position : Option Nat) (entry : Option ArticleEntry) (s : State) : ReplyData :=
  .article position entry s.catalogue.articles.length

/-- Whether an operation code names an article operation, ARTICLE_INSERT to ARTICLE_CLEAR (section 11.2). -/
def isArticleOperation (op : Byte) : Bool := decide (2 ≤ op.toNat) && decide (op.toNat ≤ 7)

/-- The data of the reply to a request whose form is refused (R175): the count for an article operation (R36), else none. -/
def refusalData (payload : List Byte) (s : State) : ReplyData :=
  match payload with
  | op :: _ => if isArticleOperation op then articleData none none s else .none
  | [] => .none

/-! ### Article operations (R37 to R41) -/

/-- ARTICLE_INSERT decided by the tests of R37. -/
def articleInsert (x : ArticleFields) (s : State) : Answer :=
  match articleOf x with
  | none => ⟨.badValue, articleData none none s, s⟩
  | some e =>
    let p := positionOf e.code s.catalogue.articles
    if (findArticle e.code s.catalogue.articles).isSome then ⟨.duplicate, articleData (some p) none s, s⟩
    else if Config.maxArticles ≤ s.catalogue.articles.length then ⟨.tableFull, articleData none none s, s⟩
    else
      let s1 := withArticles s (insertArticle e s.catalogue.articles)
      ⟨.done, articleData (some p) none s1, s1⟩

/-- ARTICLE_INSERT (R37). -/
def execArticleInsert (r : Requester) (x : ArticleFields) (s : State) : Host.Outcome State Fault Refusal :=
  .next (manage r (articleInsert x) s)

/-- ARTICLE_REPLACE decided by the tests of R38. -/
def articleReplace (x : ArticleFields) (s : State) : Answer :=
  match articleOf x with
  | none => ⟨.badValue, articleData none none s, s⟩
  | some e =>
    let p := positionOf e.code s.catalogue.articles
    if (findArticle e.code s.catalogue.articles).isSome then
      let s1 := withArticles s (replaceArticle e s.catalogue.articles)
      ⟨.done, articleData (some p) none s1, s1⟩
    else ⟨.notFound, articleData (some p) none s, s⟩

/-- ARTICLE_REPLACE (R38). -/
def execArticleReplace (r : Requester) (x : ArticleFields) (s : State) : Host.Outcome State Fault Refusal :=
  .next (manage r (articleReplace x) s)

/-- ARTICLE_DELETE decided by the tests of R39. -/
def articleDelete (code : ArticleCode) (s : State) : Answer :=
  if code = 0 then ⟨.badValue, articleData none none s, s⟩
  else
    let p := positionOf code s.catalogue.articles
    if (findArticle code s.catalogue.articles).isSome then
      let s1 := withArticles s (deleteArticle code s.catalogue.articles)
      ⟨.done, articleData (some p) none s1, s1⟩
    else ⟨.notFound, articleData (some p) none s, s⟩

/-- ARTICLE_DELETE (R39). -/
def execArticleDelete (r : Requester) (code : ArticleCode) (s : State) : Host.Outcome State Fault Refusal :=
  .next (manage r (articleDelete code) s)

/-- ARTICLE_FIND decided by the tests of R40; it changes nothing. -/
def articleFind (code : ArticleCode) (s : State) : Answer :=
  if code = 0 then ⟨.badValue, articleData none none s, s⟩
  else
    let p := positionOf code s.catalogue.articles
    match findArticle code s.catalogue.articles with
    | none => ⟨.notFound, articleData (some p) none s, s⟩
    | some e => ⟨.done, articleData (some p) (some e) s, s⟩

/-- ARTICLE_FIND (R40). -/
def execArticleFind (r : Requester) (code : ArticleCode) (s : State) : Host.Outcome State Fault Refusal :=
  .next (manage r (articleFind code) s)

/-- ARTICLE_READ at a position (R41). -/
def articleRead (position : Nat) (s : State) : Answer :=
  match s.catalogue.articles[position]? with
  | none => ⟨.badIndex, articleData none none s, s⟩
  | some e => ⟨.done, articleData none (some e) s, s⟩

/-- ARTICLE_READ (R41). -/
def execArticleRead (r : Requester) (position : Nat) (s : State) : Host.Outcome State Fault Refusal :=
  .next (manage r (articleRead position) s)

/-- ARTICLE_CLEAR (R41): the reply carries the number of entries removed, and the count. -/
def articleClear (s : State) : Answer :=
  ⟨.done, .cleared s.catalogue.articles.length 0, withArticles s []⟩

/-- ARTICLE_CLEAR (R41). -/
def execArticleClear (r : Requester) (s : State) : Host.Outcome State Fault Refusal := .next (manage r articleClear s)

/-! ### The material, tariff class and scheme tables (R44 to R46) -/

/-- A write of a residue allowance, by the tests of R44 as they are listed (log entry 56). -/
def materialWrite (index value : Nat) (s : State) : Answer :=
  match index? 6 index with
  | none => answer .badIndex s
  | some i =>
    if 2000 < value then answer .badValue s
    else answer .done { s with catalogue := { s.catalogue with allowances := put s.catalogue.allowances i value } }

/-- MATERIAL_WRITE (R44). -/
def execMaterialWrite (r : Requester) (index value : Nat) (s : State) : Host.Outcome State Fault Refusal :=
  .next (manage r (materialWrite index value) s)

/-- A protected write of a tariff class (R45). -/
def classWrite (index : Nat) (deposit : Fin 65536) (scheme : Nat) (s : State) : Answer :=
  match index? 32 index with
  | none => answer .badIndex s
  | some i =>
    match index? 4 scheme with
    | none => answer .badValue s
    | some k =>
      if s.catalogue.lock = .locked ∧ cell s.catalogue.classes i ≠ ⟨deposit.val, k⟩ then answer .locked s
      else answer .done { s with catalogue := { s.catalogue with classes := put s.catalogue.classes i ⟨deposit.val, k⟩ } }

/-- CLASS_WRITE (R45). -/
def execClassWrite (r : Requester) (index : Nat) (deposit : Fin 65536) (scheme : Nat) (s : State) :
    Host.Outcome State Fault Refusal :=
  .next (manage r (classWrite index deposit scheme) s)

/-- A protected write of a bonus rate (R46). -/
def schemeWrite (index rate : Nat) (s : State) : Answer :=
  match index? 4 index with
  | none => answer .badIndex s
  | some i =>
    if s.catalogue.lock = .locked ∧ cell s.catalogue.rates i ≠ clamp 0 250 rate then answer .locked s
    else answer (clampStatus (250 < rate))
      { s with catalogue := { s.catalogue with rates := put s.catalogue.rates i (clamp 0 250 rate) } }

/-- SCHEME_WRITE (R46). -/
def execSchemeWrite (r : Requester) (index rate : Nat) (s : State) : Host.Outcome State Fault Refusal :=
  .next (manage r (schemeWrite index rate) s)

/-! ### The tariff lock (R49 to R53) -/

/-- Replaces the lock's state. -/
def withLock (s : State) (l : LockState) : State := { s with catalogue := { s.catalogue with lock := l } }

/-- An UNLOCK with a key (R50): it opens the lock when the key equals a code that is not all zeros; any other closes it and
asks for UNLOCK_FAILED. -/
def unlock (key : Key) (s : State) : Answer :=
  if key = s.catalogue.code ∧ s.catalogue.code ≠ 0 then answer .done (withLock s .opened)
  else answer .refused ((withLock s .locked).request .unlockFailed)

/-- UNLOCK (R50). -/
def execUnlock (r : Requester) (key : Key) (s : State) : Host.Outcome State Fault Refusal := .next (manage r (unlock key) s)

/-- A RELOCK (R51). -/
def relock (s : State) : Answer := answer .done (withLock s .locked)

/-- RELOCK (R51). -/
def execRelock (r : Requester) (s : State) : Host.Outcome State Fault Refusal := .next (manage r relock s)

/-- A read of the lock record (R52): an all-ones code opens a LOCKED lock. -/
def lockRead (index : Nat) (s : State) : Answer :=
  if index ≠ 0 then answer .badIndex s
  else
    match s.catalogue.lock with
    | .opened => ⟨.done, .lock .opened s.catalogue.code, s⟩
    | .locked =>
      if s.catalogue.code = BitVec.allOnes 128 then ⟨.done, .lock .opened 0, withLock s .opened⟩
      else ⟨.done, .lock .locked 0, s⟩

/-- LOCK_RECORD_READ (R52). -/
def execLockRecordRead (r : Requester) (index : Nat) (s : State) : Host.Outcome State Fault Refusal :=
  .next (manage r (lockRead index) s)

/-- A write of a new unlock code (R53). The index is judged before the lock (log entry 40). -/
def lockWrite (index : Nat) (code : Key) (s : State) : Answer :=
  if index ≠ 0 then answer .badIndex s
  else
    match s.catalogue.lock with
    | .locked => answer .locked s
    | .opened => answer .done { s with catalogue := { s.catalogue with code := code } }

/-- LOCK_RECORD_WRITE (R53). -/
def execLockRecordWrite (r : Requester) (index : Nat) (code : Key) (s : State) : Host.Outcome State Fault Refusal :=
  .next (manage r (lockWrite index code) s)

end Sys2Proof.Machine
end

