-- ==== Sys2Proof/Machine/Faults.lean ====
section
/-! DEFINITION. The fault unit (chapter 9): raising a fault, its outcome and its report, and the meanings of HEAD_FAULT,
TRANSIT_FAULT and FLAG_CLEAR. -/

namespace Sys2Proof.Machine

/-- The fixed kind of a fault number (R149). -/
def faultKind (n : FaultNo) : FaultKind :=
  if n = 14 ∨ n = 20 ∨ n = 21 then .abort
  else if n = 15 ∨ n = 16 ∨ n = 17 then .note
  else if n = 18 ∨ n = 19 then .transit
  else .reject

/-- The outcome a disposition gives by the fault's kind (R151). A TRANSIT fault has no outcome (R159). -/
def actionOutcome (kind : FaultKind) (d : Disposition) : FaultResult :=
  match kind, d.action with
  | .reject, .giveBack => .giveBack
  | .reject, .keep => .keep d.keepLine
  | .reject, .stop => .lock
  | .note, .giveBack => .proceed
  | .note, .keep => .proceed
  | .note, .stop => .lock
  | .abort, _ => .lock
  | .transit, _ => .proceed

/-- A fault of INTAKE scope as it is handed to the fault unit (R60, R153). -/
structure FaultRaise where
  number  : FaultNo
  ext     : Bool
  state   : CtxState
  table   : ErrorTable
  index   : Nat
  seq     : Option Byte
  tag     : Option TagGen
  hops    : Option HopSet
  station : Option Byte
  deriving DecidableEq, Repr

/-- Whether a fault is a double fault: contributory, at an intake that is not LOCKED, with the flag set (R154). -/
def isDouble (f : FaultRaise) (flag : Bool) (d : Disposition) : Bool :=
  f.state != .locked && d.cls == .contributory && flag

/-- The outcome of an INTAKE scope fault (R154). -/
def faultOutcomeOf (f : FaultRaise) (flag : Bool) (d : Disposition) : FaultResult :=
  if f.state = .locked then .shutdown
  else if isDouble f flag d then .lock
  else actionOutcome (faultKind f.number) d

/-- The contributory flag after an INTAKE scope fault (R154). -/
def flagAfter (f : FaultRaise) (flag : Bool) (d : Disposition) : Bool :=
  if f.state = .locked then flag else flag || d.cls == .contributory

/-- The error record of an INTAKE scope fault (R23, R153). -/
def errorRecordOf (p : Port) (f : FaultRaise) (double : Bool) : ErrorRecord :=
  { number := f.number, kind := faultKind f.number, ext := f.ext, double := double, table := f.table, index := f.index,
    intake := p, seq := f.seq, tag := f.tag, hops := f.hops, station := f.station }

/-- Whether an INTAKE scope fault is reported (R160). -/
def isReported (f : FaultRaise) (flag : Bool) (d : Disposition) : Bool :=
  d.report || faultKind f.number == .abort || isDouble f flag d || faultOutcomeOf f flag d == .shutdown

/-- One copy of a FAULT_REPORT for a controller port (R160). -/
def faultReportTo (e : ErrorRecord) (s : State) (p : Port) : State :=
  let r := offerReport .faultReport p (cell s.faults.reports p) e s
  { r.2 with faults := { r.2.faults with reports := put r.2.faults.reports p r.1 } }

/-- A FAULT_REPORT offered to each controller port that is UP (R32, R160). -/
def reportFault (e : ErrorRecord) (s : State) : State := s.controllersUp.foldl (faultReportTo e) s

/-- A fault of INTAKE scope taken at the fault context of its intake (R153): the outcome and the state. A port without a
fault context has no outcome to give (log entry 7). -/
def raiseFault (p : Port) (f : FaultRaise) (s : State) : FaultResult × State :=
  match s.faultContext p with
  | none => (.proceed, s)
  | some c =>
    let d := cell s.faults.dispositions f.number
    let e := errorRecordOf p f (isDouble f c.flag d)
    let s1 := s.setFaultContext p (some { c with flag := flagAfter f c.flag d, last := some e })
    (faultOutcomeOf f c.flag d, if isReported f c.flag d then reportFault e s1 else s1)

/-! ### Meanings -/

/-- HEAD_FAULT: the fault unit raises the fault itself, judged by the reported state, and hands the outcome to the context
(R157). -/
def headFault (p : Port) (n : FaultNo) (code : Byte) (s : State) : State :=
  match s.faultContext p with
  | none => s
  | some c =>
    let r := raiseFault p { number := n, ext := true, state := c.reported, table := .none, index := 0, seq := c.seq,
                            tag := none, hops := none, station := some code } s
    r.2.post (.faultOutcome p n r.1)

/-- HEAD_FAULT (R157). -/
def execHeadFault (p : Port) (n : FaultNo) (code : Byte) (s : State) : Host.Outcome State Fault Refusal :=
  .next (headFault p n code s)

/-- The contributory flag of an intake cleared (R158). -/
def clearFlag (p : Port) (s : State) : State :=
  match s.faultContext p with
  | none => s
  | some c => s.setFaultContext p (some { c with flag := false })

/-- FLAG_CLEAR: a request for a port without a fault context is dropped (R158). -/
def execFlagClear (p : Port) (s : State) : Host.Outcome State Fault Refusal := .next (clearFlag p s)

/-- The number of a transit fault (R118). -/
def transitFaultNumber : TransitFaultKind → FaultNo
  | .misroute => 18
  | .lost => 19

/-- The condition of the same name as a transit fault (R159). -/
def transitFaultCondition : TransitFaultKind → Condition
  | .misroute => .misroute
  | .lost => .transitLost

/-- The error record of a transit fault (R118, R159). -/
def transitRecord (kind : TransitFaultKind) (tag : Tag) (gen : Gen) (intake : Port) (seq : Byte) : ErrorRecord :=
  { number := transitFaultNumber kind, kind := .transit, ext := false, double := false, table := .transit, index := tag.val,
    intake := intake, seq := some seq, tag := some ⟨tag, gen⟩, hops := none, station := none }

/-- A transit fault (R159): the condition is requested, and the record is reported when the entry's flag is set. -/
def transitFault (kind : TransitFaultKind) (tag : Tag) (gen : Gen) (intake : Port) (seq : Byte) (s : State) : State :=
  let s1 := s.request (transitFaultCondition kind)
  if (cell s.faults.dispositions (transitFaultNumber kind)).report then
    reportFault (transitRecord kind tag gen intake seq) s1
  else s1

/-- TRANSIT_FAULT (R159). -/
def execTransitFault (kind : TransitFaultKind) (tag : Tag) (gen : Gen) (intake : Port) (seq : Byte) (s : State) :
    Host.Outcome State Fault Refusal :=
  .next (transitFault kind tag gen intake seq s)

end Sys2Proof.Machine
end

