-- ==== Sys2Proof/Machine/Lines.lean ====
section
/-! DEFINITION. The line unit (chapter 5): line causes and states, line selection, grants and releases, the hold queue and its
walk, and the meanings of FILL, BIN_FULL_REPORT, PORT_EVENT_REPORT, REMOVAL_REQUEST and RELEASE_NOTICE. -/

namespace Sys2Proof.Machine

/-! ### Line state (R84, R85) -/

/-- Whether a line has a cause other than MGMT_DISABLED. -/
def Causes.other (c : Causes) : Bool := c.binFullSense || c.fillFull || c.binDown || c.routeDown

/-- The state a line derives from its cause set and its last fill (R85). -/
def derivedState (l : Line) : LineState :=
  if l.causes.mgmtDisabled then .disabled
  else if l.causes.other then .closed
  else if l.record.nearFull ≤ l.lastFill then .nearFull
  else .opened

/-- A line in OPEN or NEAR_FULL is usable (R85). -/
def usable (l : Line) : Bool := l.state == .opened || l.state == .nearFull

/-- Whether port p is UP with a role (R84). -/
def upWithRole (s : State) (r : Role) (p : Port) : Bool := s.up p && s.role p == r

/-- BIN_DOWN and ROUTE_DOWN judged again from the ports as they stand (R84). -/
def judgedCauses (s : State) (l : Line) : Causes :=
  { l.causes with
    binDown := !upWithRole s .bin l.record.binPort
    routeDown := !(l.record.route.all fun h => upWithRole s .sorter h.port) }

/-! ### Line selection (R89) -/

/-- The code of a material: its bit in a set of materials (R20, R173). -/
def materialCode : Material → Nat
  | .pet => 0
  | .glass => 1
  | .alu => 2
  | .steel => 3
  | .hdpe => 4
  | .other => 5

/-- A line accepts a material its accepted materials hold; UNKNOWN is accepted by every line (R89). -/
def accepts (l : Line) : Option Material → Bool
  | none => true
  | some m => hasBit l.record.materials (materialCode m)

/-- Whether line l may be chosen for a material, the line `out` being excluded (R89, R100). -/
def choosable (s : State) (out : Option LineIx) (material : Option Material) (l : LineIx) : Bool :=
  out != some l && usable (s.line l) && accepts (s.line l) material

/-- Line selection (R89): the starting line, else its overflow unless the container is kept. -/
def selectLine (s : State) (out : Option LineIx) (start : LineIx) (kept : Bool) (material : Option Material) :
    Option LineIx :=
  if choosable s out material start then some start
  else if kept then none
  else
    match (s.line start).record.overflow with
    | none => none
    | some o => if choosable s out material o then some o else none

/-! ### Segments, tags and grants (R91 to R95) -/

/-- Whether a pitch fits on every segment of a list (R93). -/
def fits (s : State) (segments : List SegIx) (pitch : Nat) : Bool :=
  segments.all fun g => (cell s.lines.segments g).reserved + pitch ≤ (cell s.lines.segments g).capacity

/-- The lowest-numbered free tag (R92). -/
def lowestFree (s : State) : Option Tag := (indices 64).find? fun t => (cell s.lines.tags t).free

/-- Whether two segment lists have a number in common. -/
def sharesSegment (a b : List SegIx) : Bool := a.any fun g => decide (g ∈ b)

/-- The segment table with every segment of a list passed through f. -/
def adjustSegments (f : Segment → Segment) (segs : List SegIx) (v : Vector Segment 12) : Vector Segment 12 :=
  segs.foldl (fun w g => put w g (f (cell w g))) v

/-- A segment with the reserved count raised by a pitch (R94). -/
def reserve (pitch : Nat) (g : Segment) : Segment := { g with reserved := g.reserved + pitch }

/-- A segment with the reserved count lowered by a pitch (R95). -/
def unreserve (pitch : Nat) (g : Segment) : Segment := { g with reserved := g.reserved - pitch }

/-- The generation a tag takes at its next claim: one up, from 15 to 0 (R92). -/
def claimGen (s : State) (t : Tag) : Gen := (cell s.lines.tags t).gen + 1

/-- The claim handed to the transit table for tag t (R94). -/
def claimOf (s : State) (t : Tag) (intake : Port) (seq : Byte) (l : LineIx) (pitch : Nat) : Claim :=
  { tag := t, gen := claimGen s t, intake := intake, seq := seq, line := l, route := (s.line l).record.route,
    segments := (s.line l).record.segments, limit := (s.line l).record.transitLimit, pitch := pitch }

/-- A grant of tag t (R94): the segments of the line are reserved, the tag is claimed, the live count rises and the claim is
handed to the transit table. -/
def grant (t : Tag) (intake : Port) (seq : Byte) (l : LineIx) (pitch : Nat) (s : State) : State :=
  let u := s.lines
  let u1 := { u with
    segments := adjustSegments (reserve pitch) (s.line l).record.segments u.segments
    tags := put u.tags t ⟨false, claimGen s t⟩
    lines := put u.lines l { s.line l with live := (s.line l).live + 1 } }
  ({ s with lines := u1 }).post (.claim (claimOf s t intake seq l pitch))

/-! ### The hold queue (R96 to R100) -/

/-- A walk of the hold queue so far: the entries left, the blocked set, whether it has ended, and the state (R97). -/
structure Walk where
  left    : List HoldEntry
  blocked : List SegIx
  ended   : Bool
  state   : State
  deriving DecidableEq, Repr

/-- The walk takes one entry in turn (R97). -/
def walkEntry (w : Walk) (e : HoldEntry) : Walk :=
  if w.ended then { w with left := w.left ++ [e] }
  else
    match lowestFree w.state with
    | none => { w with left := w.left ++ [e], ended := true }
    | some t =>
      if sharesSegment e.segments w.blocked then
        { w with left := w.left ++ [e], blocked := w.blocked ++ e.segments }
      else if fits w.state e.segments e.pitch then
        { w with state := (grant t e.intake e.seq e.line e.pitch w.state).post
                   (.grantNotice e.intake e.seq t (claimGen w.state t) e.line e.pitch) }
      else { w with left := w.left ++ [e], blocked := w.blocked ++ e.segments }

/-- Replaces the hold queue. -/
def withQueue (s : State) (q : List HoldEntry) : State := { s with lines := { s.lines with holdQueue := q } }

/-- A walk of the hold queue, oldest entry first (R97). -/
def walk (s : State) : State :=
  let w := s.lines.holdQueue.foldl walkEntry ⟨[], [], false, s⟩
  withQueue w.state w.left

/-- A re-selection so far: the queue rebuilt, and the state (R100). -/
structure Reselection where
  queue : List HoldEntry
  state : State
  deriving DecidableEq, Repr

/-- One entry re-selected away from line l: it takes the line found, with that line's segments, or leaves the queue; its
context is told either way (R100). -/
def reselectEntry (l : LineIx) (w : Reselection) (e : HoldEntry) : Reselection :=
  match selectLine w.state (some l) e.start e.kept e.material with
  | some m =>
    { queue := w.queue ++ [{ e with line := m, segments := (w.state.line m).record.segments }]
      state := w.state.post (.reselectionNotice e.intake e.seq (some m) e.start) }
  | none => { queue := w.queue, state := w.state.post (.reselectionNotice e.intake e.seq none e.start) }

/-- Re-selection of the entries of line l for which `which` holds, oldest first, the others keeping their places (R100). -/
def reselect (l : LineIx) (which : HoldEntry → Bool) (s : State) : State :=
  let w := s.lines.holdQueue.foldl
    (fun w e => if e.line = l ∧ which e = true then reselectEntry l w e else { w with queue := w.queue ++ [e] }) ⟨[], s⟩
  withQueue w.state w.queue

/-- The conditions a line asks for on entry to a state (R85). -/
def stateConditions (n : LineState) (s : State) : State :=
  match n with
  | .closed => s.request .lineClosed
  | .nearFull => s.request .lineNearFull
  | .opened => s
  | .disabled => s

/-- A line's state derived again, with the effects of a change in the order of R85: the condition, the report, then
re-selection and a walk, or a walk, as usability changes. -/
def rederive (l : LineIx) (s : State) : State :=
  let before := s.line l
  let n := derivedState before
  if n = before.state then s
  else
    let s1 := (stateConditions n (s.setLine l { before with state := n })).post (.lineStateReport l n)
    if usable before then
      if usable { before with state := n } then s1 else walk (reselect l (fun _ => true) s1)
    else if usable { before with state := n } then walk s1
    else s1

/-- A line's cause set replaced, and its state derived again (R85). -/
def withCauses (l : LineIx) (c : Causes) (s : State) : State := rederive l (s.setLine l { s.line l with causes := c })

/-! ### Capacity requests (R93) -/

/-- The answer to a capacity request (R93). -/
inductive CapacityAnswer where
  | noLine
  | granted (line : LineIx) (pitch : Nat) (tag : Tag) (gen : Gen)
  | queued (line : LineIx) (pitch : Nat)
  | denied
  deriving DecidableEq, Repr

/-- A capacity request (R93). -/
structure CapacityRequest where
  intake   : Port
  seq      : Byte
  start    : LineIx
  kept     : Bool
  material : Option Material
  pitch    : Nat
  mayQueue : Bool
  deriving DecidableEq, Repr

/-- The queue entry a capacity request makes on line l (R96). -/
def holdEntryOf (s : State) (x : CapacityRequest) (l : LineIx) : HoldEntry :=
  { intake := x.intake, seq := x.seq, start := x.start, kept := x.kept, material := x.material, line := l, pitch := x.pitch,
    segments := (s.line l).record.segments }

/-- Steps 4 and 5 of a capacity request that is not granted (R93). -/
def queueOrDeny (x : CapacityRequest) (l : LineIx) (s : State) : CapacityAnswer × State :=
  if x.mayQueue then (.queued l x.pitch, withQueue s (s.lines.holdQueue ++ [holdEntryOf s x l])) else (.denied, s)

/-- A capacity request taken as one event (R93). -/
def capacityRequest (x : CapacityRequest) (s : State) : CapacityAnswer × State :=
  match selectLine s none x.start x.kept x.material with
  | none => (.noLine, s)
  | some l =>
    match lowestFree s with
    | none => queueOrDeny x l s
    | some t =>
      if fits s (s.line l).record.segments x.pitch
          && !(s.lines.holdQueue.any fun e => sharesSegment e.segments (s.line l).record.segments) then
        (.granted l x.pitch t (claimGen s t), grant t x.intake x.seq l x.pitch s)
      else queueOrDeny x l s

/-! ### Removal (R96, R99) -/

/-- An intake's hold queue entry removed, and the queue walked (R99). -/
def removeEntry (p : Port) (s : State) : State :=
  walk (withQueue s (s.lines.holdQueue.eraseP fun e => e.intake == p))

/-- Every removal an intake's context has asked for and the line unit has not yet taken is taken now: it comes before any
later request of the same context (R96, R99). -/
def takeRemovals (p : Port) (s : State) : State :=
  if .removalRequest p ∈ s.mail then
    removeEntry p { s with mail := s.mail.filter fun m => m != .removalRequest p }
  else s

/-! ### Meanings -/

/-- The fill percent as the line unit reads it (R86). -/
def readFill (percent : Fin 256) : Nat := min percent.val 100

/-- FILL_FULL after a fill value: added at or above the full percent, removed below the near-full percent, else kept (R84). -/
def fillFullAfter (r : LineRecord) (v : Nat) (before : Bool) : Bool :=
  if r.full ≤ v then true else if v < r.nearFull then false else before

/-- A FILL applied to one line of its bin (R86). -/
def fillLine (v : Nat) (s : State) (l : LineIx) : State :=
  let x := s.line l
  rederive l (s.setLine l { x with
    lastFill := v, causes := { x.causes with fillFull := fillFullAfter x.record v x.causes.fillFull } })

/-- FILL: every line whose bin port is the source port takes the fill (R86). -/
def fill (p : Port) (percent : Fin 256) (s : State) : State :=
  ((indices 8).filter fun l => (s.line l).record.binPort == p).foldl (fillLine (readFill percent)) s

/-- FILL (R86). -/
def execFill (p : Port) (percent : Fin 256) (s : State) : Host.Outcome State Fault Refusal := .next (fill p percent s)

/-- BIN_FULL_REPORT: BIN_FULL_SENSE added to a line, or removed (R84, R165). -/
def execBinFullReport (l : LineIx) (first : Bool) (s : State) : Host.Outcome State Fault Refusal :=
  .next (withCauses l { (s.line l).causes with binFullSense := first } s)

/-- Whether a line's route or bin port names a port (R87). -/
def namesPort (l : Line) (p : Port) : Bool := l.record.binPort == p || l.record.route.any fun h => h.port == p

/-- BIN_DOWN and ROUTE_DOWN of one line judged again (R87). -/
def judgeLine (s : State) (l : LineIx) : State := withCauses l (judgedCauses s (s.line l)) s

/-- PORT_EVENT_REPORT: the causes of every line that names the port are judged again (R87). -/
def portEvent (p : Port) (s : State) : State :=
  ((indices 8).filter fun l => namesPort (s.line l) p).foldl judgeLine s

/-- PORT_EVENT_REPORT (R87). -/
def execPortEventReport (p : Port) (s : State) : Host.Outcome State Fault Refusal := .next (portEvent p s)

/-- REMOVAL_REQUEST (R99). -/
def execRemovalRequest (p : Port) (s : State) : Host.Outcome State Fault Refusal := .next (removeEntry p s)

/-- A release notice (R95): the pitch returns to the segments of the notice, the live count falls, the tag is freed with its
generation kept, and the queue is walked. A notice for a tag that is free, or of another generation, changes nothing. -/
def release (t : Tag) (g : Gen) (l : LineIx) (pitch : Nat) (segs : List SegIx) (s : State) : State :=
  let r := cell s.lines.tags t
  if r.free = true ∨ r.gen ≠ g then s
  else
    let u := s.lines
    walk { s with lines := { u with
      segments := adjustSegments (unreserve pitch) segs u.segments
      tags := put u.tags t ⟨true, r.gen⟩
      lines := put u.lines l { s.line l with live := (s.line l).live - 1 } } }

/-- RELEASE_NOTICE (R95). -/
def execReleaseNotice (t : Tag) (g : Gen) (l : LineIx) (pitch : Nat) (segs : List SegIx) (s : State) :
    Host.Outcome State Fault Refusal :=
  .next (release t g l pitch segs s)

end Sys2Proof.Machine
end

