-- ==== Sys2Proof/Machine/Flags.lean ====
section
/-! DEFINITION. The condition set, its NOTICE frames and the output lines (R166 to R171): the operations on the part's status
flags. -/

namespace Sys2Proof.Machine

/-- The number of a condition, its bit in the set and in the mask (R168). -/
def conditionNumber : Condition → Nat
  | .linkFault => 0
  | .roleMismatch => 1
  | .overrun => 2
  | .mgmtCheck => 3
  | .mgmtForeign => 4
  | .kindRefused => 5
  | .staleFrame => 6
  | .lineClosed => 7
  | .lineNearFull => 8
  | .misroute => 9
  | .transitLost => 10
  | .intakeLocked => 11
  | .intakeShutdown => 12
  | .counterStall => 13
  | .paperOut => 14
  | .voucherRefused => 15
  | .roomStop => 16
  | .senseLatch => 17
  | .configDefault => 18
  | .unlockFailed => 19
  | .undeliverable => 20
  | .storeFailed => 21

/-! ### Output lines (R167) -/

/-- The function value of an output line: active or not (R167). -/
def functionActive (s : State) (o : OutputEntry) : Bool :=
  match o.function with
  | .manual => o.manual
  | .lineOpen l => cell s.cond.lineStates l == .opened || cell s.cond.lineStates l == .nearFull
  | .intakeReady p =>
    s.role p == .intake && s.up p && cell s.cond.ctxStates p != .stopped && cell s.cond.ctxStates p != .locked
      && s.cond.roomStops == 0
  | .anyCondition => (s.cond.set &&& ~~~s.cond.mask) != 0

/-- The level an output line drives: the function value for ACTIVE_HIGH, its inverse for ACTIVE_LOW (R167). -/
def levelHigh (s : State) (o : OutputEntry) : Bool :=
  match o.polarity with
  | .activeHigh => functionActive s o
  | .activeLow => !functionActive s o

/-- The output lines evaluated again (R167); until the store read completes they stay low (R171). -/
def evalOutputs (s : State) : State :=
  if s.mgmt.loading then s
  else { s with cond := { s.cond with high := mapCells (levelHigh s) s.cond.outputs } }

/-! ### NOTICE (R169) -/

/-- A queued frame with the condition set rewritten, when it is a NOTICE (R169). -/
def rewriteNotice (c : ConditionSet) : TxFrame → TxFrame
  | .notice _ => .notice c
  | f => f

/-- Every NOTICE that stands queued takes the condition set as it stands, in its place (R15, R169). -/
def rewriteNotices (s : State) : State :=
  { s with ports := mapCells (fun l => { l with tx := l.tx.map (rewriteNotice s.cond.set) }) s.ports }

/-- The notice slot of port p set QUEUED or EMPTY (R169). -/
def setQueued (s : State) (p : Port) (b : Bool) : State :=
  { s with cond := { s.cond with queued := put s.cond.queued p b } }

/-- A newly set unmasked condition at one controller port: a QUEUED slot carries the change already; an EMPTY one offers a new
NOTICE and becomes QUEUED when it is accepted, and a refused NOTICE is dropped (R169). -/
def noticeTo (s : State) (p : Port) : State :=
  if cell s.cond.queued p then s
  else
    match offerAnswer s p with
    | .accepted => setQueued (enqueue s p (.notice s.cond.set)) p true
    | .queueFull => s
    | .notUp => s

/-- The condition set replaced: the queued NOTICE frames are rewritten (R169). -/
def withConditions (s : State) (c : ConditionSet) : State :=
  rewriteNotices { s with cond := { s.cond with set := c } }

/-- A request to set a condition, taken by the condition unit (R168): one that is set changes nothing; one that is clear is
set, a NOTICE follows when its mask bit is clear, and the outputs are evaluated again. -/
def setCondition (c : Condition) (s : State) : State :=
  if hasBit s.cond.set (conditionNumber c) then s
  else
    let s1 := withConditions s (addBit s.cond.set (conditionNumber c))
    let s2 := if hasBit s.cond.mask (conditionNumber c) then s1 else s1.controllersUp.foldl noticeTo s1
    evalOutputs s2

/-- The conditions of a 24-bit operand, its two highest bits not read (R168, R170). -/
def conditionOperand (bits : BitVec 24) : ConditionSet := bits.setWidth 22

/-- The named conditions cleared; a clear causes no NOTICE, rewrites a queued one and is followed by an evaluation of the
outputs (R170). -/
def clearNamed (c : ConditionSet) (s : State) : State :=
  evalOutputs (withConditions s (s.cond.set &&& ~~~c))

/-! ### Sense inputs (R164, R165) -/

/-- Replaces the state of sense input i. -/
def setInput (s : State) (i : SenseIx) (x : SenseInput) : State :=
  { s with cond := { s.cond with inputs := put s.cond.inputs i x } }

/-- An input started again under its function: DEBOUNCING when its level is asserted and its function is not NONE, else
IDLE (R163, R165, R171). -/
def restartedInput (e : SenseEntry) (x : SenseInput) : SenseInput :=
  if x.level && e.function != .none then { x with state := .debouncing, timer := startTimer e.debounce }
  else { x with state := .idle, timer := stopTimer }

/-- Adds 1 to the latch count of a line, and reports the first latch to the line unit (R165). -/
def countBinLatch (l : LineIx) (s : State) : State :=
  let n := cell s.cond.latchCount l + 1
  let s1 := { s with cond := { s.cond with latchCount := put s.cond.latchCount l n } }
  if n = 1 then s1.post (.binFullReport l true) else s1

/-- Takes 1 from the latch count of a line, and reports to the line unit when none remains (R165). -/
def uncountBinLatch (l : LineIx) (s : State) : State :=
  let n := cell s.cond.latchCount l - 1
  let s1 := { s with cond := { s.cond with latchCount := put s.cond.latchCount l n } }
  if n = 0 then s1.post (.binFullReport l false) else s1

/-- Adds 1 to the room stop count, and reports the first latch to the admission unit (R165). -/
def countRoomStop (s : State) : State :=
  let s1 := { s with cond := { s.cond with roomStops := s.cond.roomStops + 1 } }
  if s.cond.roomStops = 0 then s1.post (.roomStopReport true) else s1

/-- Takes 1 from the room stop count, and reports the last latch cleared to the admission unit (R165). -/
def uncountRoomStop (s : State) : State :=
  let s1 := { s with cond := { s.cond with roomStops := s.cond.roomStops - 1 } }
  if s.cond.roomStops ≤ 1 then s1.post (.roomStopReport false) else s1

/-- The effect on the counts of a latch set under a function (R165, steps 2 and 3). -/
def countLatch : SenseFunction → State → State
  | .none, s => s
  | .binFull l, s => countBinLatch l s
  | .roomStop, s => countRoomStop s

/-- The effect on the counts of a latch taken away (R165). -/
def uncountLatch : SenseFunction → State → State
  | .none, s => s
  | .binFull l, s => uncountBinLatch l s
  | .roomStop, s => uncountRoomStop s

/-- An input latches (R165): SENSE_LATCH, and ROOM_STOP for a ROOM_STOP input, are set in the same event, the counts rise and
the outputs are evaluated. -/
def latchInput (i : SenseIx) (s : State) : State :=
  let f := (cell s.cond.sense i).function
  let s1 := setInput s i { cell s.cond.inputs i with state := .latched, timer := stopTimer }
  let s2 := setCondition .senseLatch s1
  let s3 := if f = .roomStop then setCondition .roomStop s2 else s2
  evalOutputs (countLatch f s3)

/-- A latched input released by CLEAR_SENSE (R165): its count loses 1, then it debounces again or goes to IDLE. One that is
not LATCHED is left as it stands. -/
def releaseInput (s : State) (i : SenseIx) : State :=
  if (cell s.cond.inputs i).state = .latched then
    let s1 := uncountLatch (cell s.cond.sense i).function s
    setInput s1 i (restartedInput (cell s.cond.sense i) (cell s.cond.inputs i))
  else s

/-- CLEAR_SENSE of a set of inputs, in turn, the lowest first (log entry 46), with the outputs evaluated again (R165, R167). -/
def releaseInputs (bits : BitVec 8) (s : State) : State :=
  evalOutputs (((indices 8).filter fun i => hasBit bits i.val).foldl releaseInput s)

end Sys2Proof.Machine
end

