-- ==== Sys2Proof/Machine/Vouchers.lean ====
section
/-! DEFINITION. The voucher unit (chapter 8): creating vouchers, the counter units, and the meanings of VOUCHER_DONE,
REPLY_TIMER_EXPIRY, VOUCHER_REQUEST and COUNTER_PORT_REPORT. -/

namespace Sys2Proof.Machine

/-! ### Creating a voucher (R137 to R139) -/

/-- The bonus of a scheme: subtotal times rate, divided by 1,000 and rounded down (R139). -/
def bonus (subtotal rate : Nat) : Nat := subtotal * rate / 1000

/-- The four bonuses, each rounded on its own scheme (R139). -/
def bonuses (subtotals rates : Vector Nat 4) : Vector Nat 4 :=
  #v[bonus (cell subtotals 0) (cell rates 0), bonus (cell subtotals 1) (cell rates 1),
    bonus (cell subtotals 2) (cell rates 2), bonus (cell subtotals 3) (cell rates 3)]

/-- The sum of the four values of a per-scheme table. -/
def sumSchemes (v : Vector Nat 4) : Nat := cell v 0 + cell v 1 + cell v 2 + cell v 3

/-- The numbers of the records that stand in any queue (R137). -/
def numbersInUse (s : State) : List (Fin 65536) :=
  (indices 12).flatMap fun p => match s.unit p with
    | none => []
    | some u => u.queue.map (·.number)

/-- The voucher number advanced until it names no record that stands in a queue (R137). -/
def freshNumber (used : List (Fin 65536)) : Nat → Fin 65536 → Fin 65536
  | 0, n => n
  | k + 1, n => if n ∈ used then freshNumber used k (n + 1) else n

/-- The number the next voucher takes: at most one advance per record in use is needed (R137). -/
def nextNumber (s : State) : Fin 65536 :=
  freshNumber (numbersInUse s) (numbersInUse s).length s.vouchers.number

/-- The record a voucher request creates, with the rates as they stand (R136, R138, R139). -/
def newRecord (x : VoucherRequest) (rates : Vector Nat 4) (number : Fin 65536) : VoucherRecord :=
  { number := number, intake := x.intake, subtotals := x.subtotals, bonuses := bonuses x.subtotals rates,
    total := sumSchemes x.subtotals + sumSchemes (bonuses x.subtotals rates),
    containers := x.containers, kept := x.kept, state := .queued }

/-! ### Sending the head (R141) -/

/-- A record marked SENT (R136). -/
def VoucherRecord.asSent (r : VoucherRecord) : VoucherRecord := { r with state := .sent }

/-- A counter unit in READY whose queue is not empty offers a VOUCHER for its head (R141). -/
def sendHead (p : Port) (s : State) : State :=
  match s.unit p with
  | none => s
  | some u =>
    match u.state, u.queue with
    | .ready, r :: rest =>
      match offerAnswer s p with
      | .accepted =>
        (enqueue s p (.voucher r)).setUnit p
          (some { u with state := .busy, queue := r.asSent :: rest, replyTimer := startTimer s.mgmt.timers.reply,
                         sendOwed := false })
      | .queueFull => s.setUnit p (some { u with sendOwed := true })
      | .notUp => s
    | _, _ => s

/-- The unit moved to READY, its reply timer stopped, and the head sent (R142, R144, R145). -/
def unitReady (p : Port) (s : State) : State :=
  match s.unit p with
  | none => s
  | some u => sendHead p (s.setUnit p (some { u with state := .ready, replyTimer := stopTimer }))

/-- A voucher request taken at the queue of its counter port (R138): the answer and the state. -/
def createVoucher (x : VoucherRequest) (s : State) : VoucherAnswer × State :=
  match s.unit x.counter with
  | none => (.queueFull, s)
  | some u =>
    if Config.voucherPlaces ≤ u.queue.length then (.queueFull, s)
    else
      let n := nextNumber s
      let s1 := s.setUnit x.counter (some { u with queue := u.queue ++ [newRecord x s.catalogue.rates n] })
      let s2 := { s1 with vouchers := { s1.vouchers with number := n + 1 } }
      (.created n, if u.queue.isEmpty then sendHead x.counter s2 else s2)

/-! ### Reports (R147) -/

/-- One copy of a VOUCHER_REPORT for a controller port (R147). -/
def voucherReportTo (x : VoucherReport) (s : State) (p : Port) : State :=
  let r := offerReport .voucherReport p (cell s.vouchers.reports p) x s
  { r.2 with vouchers := { r.2.vouchers with reports := put r.2.vouchers.reports p r.1 } }

/-- A VOUCHER_REPORT offered to each controller port that is UP (R32, R147). -/
def reportVoucher (x : VoucherReport) (s : State) : State :=
  s.controllersUp.foldl (voucherReportTo x) s

/-! ### Roles and restarts (R144, R146) -/

/-- A station restart of a counter unit (R144). -/
def restartUnit (p : Port) (s : State) : State :=
  match s.unit p with
  | none => s
  | some u =>
    match u.state with
    | .busy | .paused | .stalled => unitReady p s
    | .ready | .offline => s

/-- A port takes the role COUNTER: an empty queue with the unit OFFLINE, and the tally unit is told (R146). -/
def createUnit (p : Port) (s : State) : State :=
  (s.setUnit p (some { state := .offline, queue := [], replyTimer := none, sendOwed := false })).post (.voucherPlaceFreed p)

/-- A port gives up the role COUNTER: its records are reported REFUSED, VOUCHER_REFUSED is requested once, and the queue and
the unit are removed (R146). -/
def removeUnit (p : Port) (s : State) : State :=
  match s.unit p with
  | none => s
  | some u =>
    let s1 := u.queue.foldl (fun t r => reportVoucher ⟨r, .refused⟩ t) s
    let s2 := if u.queue.isEmpty then s1 else s1.request .voucherRefused
    s2.setUnit p none

/-! ### Meanings -/

/-- VOUCHER_DONE for the head of a BUSY unit (R142). -/
def voucherDoneTaken (p : Port) (u : CounterUnit) (r : VoucherRecord) (rest : List VoucherRecord) (result : VoucherResult)
    (s : State) : State :=
  match result with
  | .printed =>
    unitReady p ((s.setUnit p (some { u with queue := rest, replyTimer := stopTimer })).post (.voucherPlaceFreed p))
  | .paperOut =>
    let s1 := s.setUnit p (some { u with state := .paused, replyTimer := stopTimer })
    reportVoucher ⟨r, .paperOut⟩ (s1.request .paperOut)
  | .refused =>
    let s1 := reportVoucher ⟨r, .refused⟩ (s.setUnit p (some { u with queue := rest, replyTimer := stopTimer }))
    unitReady p ((s1.request .voucherRefused).post (.voucherPlaceFreed p))

/-- VOUCHER_DONE (R142): taken when the unit is BUSY and the number is the head's; any other is stale. A port without a
counter unit has no head, so its frame is stale too. -/
def voucherDone (p : Port) (number : Fin 65536) (result : VoucherResult) (s : State) : State :=
  match s.unit p with
  | none => s.request .staleFrame
  | some u =>
    match u.state, u.queue with
    | .busy, r :: rest =>
      if r.number = number then voucherDoneTaken p u r rest result s else s.request .staleFrame
    | _, _ => s.request .staleFrame

/-- VOUCHER_DONE. -/
def execVoucherDone (p : Port) (number : Fin 65536) (result : VoucherResult) (s : State) : Host.Outcome State Fault Refusal :=
  .next (voucherDone p number result s)

/-- The reply timer's expiry in BUSY: STALLED, and COUNTER_STALL is requested (R143). -/
def replyExpiry (p : Port) (s : State) : State :=
  match s.unit p with
  | none => s
  | some u =>
    if u.replyTimer.isSome then
      match u.state with
      | .busy => (s.setUnit p (some { u with state := .stalled, replyTimer := stopTimer })).request .counterStall
      | _ => s.setUnit p (some { u with replyTimer := stopTimer })
    else s

/-- REPLY_TIMER_EXPIRY (R143). A stopped timer does not expire (R177). -/
def execReplyTimerExpiry (p : Port) (s : State) : Host.Outcome State Fault Refusal := .next (replyExpiry p s)

/-- VOUCHER_REQUEST (R138): the voucher is created or the queue is full, and the answer is given to the tally unit. -/
def execVoucherRequest (x : VoucherRequest) (s : State) : Host.Outcome State Fault Refusal :=
  let r := createVoucher x s
  .next { r.2 with vouchers := { r.2.vouchers with answer := some r.1 } }

/-- A counter port's departure from UP, or its arrival (R145). -/
def counterPortReport (p : Port) (up : Bool) (s : State) : State :=
  match s.unit p with
  | none => s
  | some u =>
    if up then (if u.state = .offline then unitReady p s else s)
    else s.setUnit p (some { u with state := .offline, replyTimer := stopTimer, sendOwed := false })

/-- COUNTER_PORT_REPORT (R145). -/
def execCounterPortReport (p : Port) (up : Bool) (s : State) : Host.Outcome State Fault Refusal :=
  .next (counterPortReport p up s)

/-- COUNTER_RESUME taken at a counter unit that is not OFFLINE (R144). -/
def resumeUnit (p : Port) (s : State) : State :=
  match s.unit p with
  | none => s
  | some u =>
    match u.state with
    | .paused | .stalled => unitReady p s
    | .offline | .ready | .busy => s

end Sys2Proof.Machine
end

