-- ==== Sys2Proof/Machine/Tally.lean ====
section
/-! DEFINITION. The tally unit (chapter 7): postings, closes, the session test, FINISH and the idle timer, and the meanings of
the commands a session takes. -/

namespace Sys2Proof.Machine

/-- A session as it is created, or as a completed close leaves its counts (R121, R128, R135). -/
def Session.new : Session :=
  { state := .idle, containers := 0, kept := 0, subtotals := Vector.replicate 4 0, total := 0, classes := [],
    limit := Config.sessionLimitReset, awaited := none, last := none, carried := none, idleTimer := none, owed := false,
    ctxWaiting := false, reported := .stopped }

/-- Replaces the closing-wait list (R129). -/
def withClosingWait (s : State) (l : List Port) : State := { s with tally := { s.tally with closingWait := l } }

/-! ### TALLY (R122) -/

/-- The TALLY of a session as it stands (R122). -/
def tallyFrame (x : Session) : TxFrame := .tally x.state x.containers x.total

/-- A TALLY is due: a fresh one is offered; QUEUE_FULL sets the owed mark, any other answer clears it (R122). -/
def offerTally (p : Port) (s : State) : State :=
  match s.session p with
  | none => s
  | some x =>
    match offerAnswer s p with
    | .accepted => (enqueue s p (tallyFrame x)).setSession p (some { x with owed := false })
    | .queueFull => s.setSession p (some { x with owed := true })
    | .notUp => s.setSession p (some { x with owed := false })

/-! ### Posting (R123, R124) -/

/-- A count that saturates at 65,535 (R121). -/
def saturate (n : Nat) : Nat := min n Config.countMax

/-- A pair merged into the class count list (R124). -/
def mergeClass : List (ClassIx × Nat) → ClassIx × Nat → List (ClassIx × Nat)
  | [], x => [x]
  | y :: ys, x => if y.1 = x.1 then (y.1, saturate (y.2 + x.2)) :: ys else y :: mergeClass ys x

/-- A pair of the split added to the subtotal of its scheme (R123, step 3). -/
def addSplit (v : Vector Nat 4) (x : SchemeIx × Nat) : Vector Nat 4 := put v x.1 (cell v x.1 + x.2)

/-- Whether a posting is the awaited one of a session (R123, step 5). -/
def matchesAwaited (x : Session) (g : Posting) : Bool :=
  match x.awaited with
  | none => false
  | some a => a.tag == g.tag && a.seq == g.seq

/-- The counts, subtotals, class counts and last posting of a session after a posting (R123, steps 2 to 5). -/
def addPosting (x : Session) (g : Posting) : Session :=
  { x with
    kept := if g.kept then saturate (x.kept + 1) else x.kept
    containers := if g.kept then x.containers else saturate (x.containers + 1)
    subtotals := g.credit.split.foldl addSplit x.subtotals
    total := x.total + g.credit.credit
    classes := g.credit.classes.foldl mergeClass x.classes
    last := if matchesAwaited x g then none else some ⟨g.tag, g.seq⟩
    awaited := if matchesAwaited x g then none else x.awaited }

/-- A posting taken by a session in IDLE, OPEN or CLOSE_PENDING (R123): IDLE becomes OPEN, and in OPEN the idle timer is
restarted. -/
def postInto (s : State) (x : Session) (g : Posting) : Session :=
  let y := addPosting x g
  match x.state with
  | .idle | .opened => { y with state := .opened, idleTimer := startIdleTimer s }
  | .closePending | .closingWait => y

/-- A posting taken as R123 states, with its TALLY. -/
def takePosting (p : Port) (g : Posting) (s : State) : State :=
  match s.session p with
  | none => s
  | some x => offerTally p (s.setSession p (some (postInto s x g)))

/-! ### Closing (R128, R129, R134) -/

/-- Whether the session's counter port names a port that holds the role COUNTER (R128, step 3). -/
def counterOf (s : State) (p : Port) : Option Port :=
  match (s.port p).entry.counterPort with
  | none => none
  | some c => if s.role c = .counter then some c else none

/-- The session goes to CLOSING_WAIT: the idle timer stops, it takes its place in the closing-wait list, and a change of
state makes a TALLY due (R122, R129, R133). -/
def enterClosingWait (p : Port) (s : State) : State :=
  match s.session p with
  | none => s
  | some x =>
    if x.state = .closingWait then s
    else
      let s1 := s.setSession p (some { x with state := .closingWait, idleTimer := stopTimer })
      offerTally p (withClosingWait s1 (s.tally.closingWait ++ [p]))

/-- The session a completed close leaves (R128): IDLE with every count 0, the waiting mark clear; the session limit, the
postings not yet matched, the owed mark and the reported context state are kept. -/
def Session.closed (x : Session) : Session :=
  { x with state := .idle, containers := 0, kept := 0, subtotals := Vector.replicate 4 0, total := 0, classes := [],
           idleTimer := stopTimer, ctxWaiting := false, carried := none }

/-- A close that completes, less the carried posting (R128): the session is IDLE and out of the closing-wait list, a paused
context is told, and a change of state makes a TALLY due, at a port that has given up INTAKE too (log entry 44). -/
def finishClose (p : Port) (x : Session) (s : State) : State :=
  let s1 := withClosingWait (s.setSession p (some x.closed)) (s.tally.closingWait.filter (· != p))
  let s2 := if x.ctxWaiting then s1.post (.closeCompleted p) else s1
  if x.state = .idle then s2 else offerTally p s2

/-- The voucher request of a close (R128, step 4). -/
def voucherRequestOf (p c : Port) (x : Session) : VoucherRequest :=
  { counter := c, intake := p, subtotals := x.subtotals, total := x.total, containers := x.containers, kept := x.kept }

/-- A close attempt, less what follows a close that completes (R128): answers whether it completed. -/
def attemptClose (p : Port) (s : State) : Bool × State :=
  match s.session p with
  | none => (false, s)
  | some x =>
    if x.awaited.isSome then (false, enterClosingWait p s)
    else if x.total = 0 then (true, finishClose p x s)
    else
      match counterOf s p with
      | none => (false, enterClosingWait p s)
      | some c =>
        let r := createVoucher (voucherRequestOf p c x) s
        match r.1 with
        | .created _ => (true, finishClose p x r.2)
        | .queueFull => (false, enterClosingWait p r.2)

/-- The posting a session carries (R125). -/
def carriedOf (s : State) (p : Port) : Option Posting :=
  match s.session p with
  | none => none
  | some x => x.carried

/-- After a close that completed: a session whose port no longer holds INTAKE is removed (R134). -/
def removeClosed (p : Port) (s : State) : State := if s.role p = .intake then s else s.setSession p none

/-- A close attempt (R128): answers whether it completed. A carried posting is then taken by the IDLE session (R125). On a
port that has given up INTAKE the session is removed, after a close of what the carried posting opened (R134, log entry
8). -/
def closeAttempt (p : Port) (s : State) : Bool × State :=
  let g := carriedOf s p
  let r := attemptClose p s
  if r.1 then
    match g with
    | none => (true, removeClosed p r.2)
    | some g =>
      let s1 := takePosting p g r.2
      if s.role p = .intake then (true, s1)
      else
        let q := attemptClose p s1
        (true, if q.1 then removeClosed p q.2 else q.2)
  else r

/-- A session in CLOSING_WAIT tries its close again (R129). -/
def retryClose (s : State) (p : Port) : State :=
  match s.session p with
  | none => s
  | some x => if x.state = .closingWait then (closeAttempt p s).2 else s

/-! ### The session test (R127) -/

/-- The answer to a session test (R64, R127). -/
inductive TestAnswer where
  | fits | closed | waiting
  deriving DecidableEq, Repr

/-- The credit of the awaited posting, or 0 (R127). -/
def awaitedCredit (x : Session) : Nat :=
  match x.awaited with
  | none => 0
  | some a => a.credit

/-- The session answers "waiting": its context waiting mark is set (R127). -/
def markWaiting (p : Port) (s : State) : State :=
  match s.session p with
  | none => s
  | some x => s.setSession p (some { x with ctxWaiting := true })

/-- A close attempt made by the session test (R127). -/
def testByClose (p : Port) (s : State) : TestAnswer × State :=
  let r := closeAttempt p s
  if r.1 then (.closed, r.2) else (.waiting, markWaiting p r.2)

/-- The session test of a credit c against a limit L (R127). A port without a session has none to pass. -/
def sessionTest (p : Port) (c limit : Nat) (s : State) : TestAnswer × State :=
  match s.session p with
  | none => (.fits, s)
  | some x =>
    let s1 := s.setSession p (some { x with limit := limit })
    match x.state with
    | .closingWait => (.waiting, markWaiting p s1)
    | .closePending => testByClose p s1
    | .idle | .opened =>
      if x.total + awaitedCredit x + c ≤ limit then (.fits, s1)
      else if x.awaited.isSome then (.waiting, markWaiting p (enterClosingWait p s1))
      else testByClose p s1

/-! ### Drop notes (R126) -/

/-- A drop note (R126): it is matched with the last posting, or becomes the awaited posting. -/
def dropNote (p : Port) (t : Tag) (seq : Byte) (credit : Nat) (s : State) : State :=
  match s.session p with
  | none => s
  | some x =>
    if x.last = some ⟨t, seq⟩ then s.setSession p (some { x with last := none })
    else s.setSession p (some { x with awaited := some ⟨t, seq, credit⟩ })

/-- DROP_NOTE (R126). -/
def execDropNote (p : Port) (t : Tag) (seq : Byte) (credit : Nat) (s : State) : Host.Outcome State Fault Refusal :=
  .next (dropNote p t seq credit s)

/-- A drop note of port p still to be taken is taken now (log entry 2). -/
def takeNote (p : Port) (s : State) : Instr → State
  | .dropNote q t seq c => if q = p then dropNote p t seq c s else s
  | _ => s

/-- Whether a message is a drop note of port p. -/
def isNoteOf (p : Port) : Instr → Bool
  | .dropNote q _ _ _ => q == p
  | _ => false

/-- The drop notes a context has sent and the tally unit has not yet taken come before any later session test of the same
context (log entry 2). -/
def takeNotes (p : Port) (s : State) : State := takeWaiting (isNoteOf p) (takeNote p) s

/-! ### Meanings -/

/-- A posting in CLOSING_WAIT (R125): the awaited one is added and the close tried again, which makes one
TALLY when the close completes (log entry 43); any other is carried, in place of one carried before (log entry 58). -/
def postWaiting (p : Port) (x : Session) (g : Posting) (s : State) : State :=
  if matchesAwaited x g then
    let s1 := s.setSession p (some (addPosting x g))
    let r := closeAttempt p s1
    if r.1 then r.2 else offerTally p r.2
  else s.setSession p (some { x with carried := some g })

/-- The session carries a posting (R125), in place of one carried before (log entry 58). -/
def carry (p : Port) (g : Posting) (s : State) : State :=
  match s.session p with
  | none => s
  | some x => s.setSession p (some { x with carried := some g })

/-- A posting that would take the total past the session limit (R125): a close attempt, after which it is taken by the IDLE
session, or carried. -/
def postPast (p : Port) (g : Posting) (s : State) : State :=
  let r := closeAttempt p s
  if r.1 then takePosting p g r.2 else carry p g r.2

/-- POSTING (R123, R125). In CLOSING_WAIT the second case of R125 decides, whatever the session limit (log entry 52). A posting
for a port that has no session finds none to add to (log entry 7). -/
def takePostingEvent (g : Posting) (s : State) : State :=
  match s.session g.intake with
  | none => s
  | some x =>
    match x.state with
    | .closingWait => postWaiting g.intake x g s
    | .idle | .opened | .closePending =>
      if x.limit < x.total + g.credit.credit then postPast g.intake g s else takePosting g.intake g s

/-- POSTING (R123). -/
def execPosting (g : Posting) (s : State) : Host.Outcome State Fault Refusal := .next (takePostingEvent g s)

/-- The customer is still at the head: the idle timer of an OPEN session is restarted (R132). -/
def restartIdle (p : Port) (s : State) : State :=
  match s.session p with
  | none => s
  | some x => if x.state = .opened then s.setSession p (some { x with idleTimer := startIdleTimer s }) else s

/-- PRESENT (R26, R132). The report to the admission unit has no effect there (R56). -/
def execPresent (p : Port) (s : State) : Host.Outcome State Fault Refusal := .next (restartIdle p s)

/-- The session goes from OPEN to CLOSE_PENDING, with a TALLY (R122, R130). -/
def enterClosePending (p : Port) (x : Session) (s : State) : State :=
  offerTally p (s.setSession p (some { x with state := .closePending, idleTimer := stopTimer }))

/-- The FINISH table (R130) for a context state; `ask` allows the return request. -/
def applyFinish (p : Port) (x : Session) (ctx : CtxState) (ask : Bool) (s : State) : State :=
  match x.state with
  | .idle => s
  | .closePending => s
  | .opened =>
    match ctx with
    | .idle | .stopped | .locked | .returning => (closeAttempt p s).2
    | .gating | .releasing => enterClosePending p x s
    | .holding | .paused => if ask then s.post (.returnRequest p) else s
  | .closingWait =>
    match ctx with
    | .paused => if ask then s.post (.returnRequest p) else s
    | .idle | .stopped | .locked | .returning | .gating | .releasing | .holding => s

/-- FINISH (R130). -/
def execFinish (p : Port) (s : State) : Host.Outcome State Fault Refusal :=
  .next (match s.session p with
    | none => s
    | some x => applyFinish p x x.reported true s)

/-- RETURN_ANSWER (R130). -/
def returnAnswer (p : Port) (returned : Bool) (ctx : CtxState) (s : State) : State :=
  match s.session p with
  | none => s
  | some x =>
    if returned then (if x.state = .opened then (closeAttempt p s).2 else s)
    else applyFinish p x ctx false s

/-- RETURN_ANSWER (R130). -/
def execReturnAnswer (p : Port) (returned : Bool) (ctx : CtxState) (s : State) : Host.Outcome State Fault Refusal :=
  .next (returnAnswer p returned ctx s)

/-- The idle timer's expiry in OPEN (R133). -/
def idleExpiry (p : Port) (s : State) : State :=
  match s.session p with
  | none => s
  | some x =>
    if x.idleTimer.isSome then
      match x.state with
      | .opened =>
        match x.reported with
        | .idle | .stopped | .locked =>
          if x.awaited.isSome then s.setSession p (some { x with idleTimer := startIdleTimer s })
          else (closeAttempt p s).2
        | .holding | .paused | .gating | .releasing | .returning =>
          s.setSession p (some { x with idleTimer := startIdleTimer s })
      | .idle | .closePending | .closingWait => s.setSession p (some { x with idleTimer := stopTimer })
    else s

/-- IDLE_TIMER_EXPIRY (R133). A stopped timer does not expire (R177). -/
def execIdleTimerExpiry (p : Port) (s : State) : Host.Outcome State Fault Refusal := .next (idleExpiry p s)

/-- VOUCHER_PLACE_FREED: the waiting sessions whose counter port names the port are tried again, oldest first (R129). -/
def placeFreed (p : Port) (s : State) : State :=
  (s.tally.closingWait.filter fun q => (s.port q).entry.counterPort == some p).foldl retryClose s

/-- VOUCHER_PLACE_FREED (R129). -/
def execVoucherPlaceFreed (p : Port) (s : State) : Host.Outcome State Fault Refusal := .next (placeFreed p s)

/-- The tally unit's part of a state report (R56, R131): a session in CLOSE_PENDING makes its close attempt at a report of
any state but RELEASING. -/
def tallyReport (p : Port) (ctx : CtxState) (s : State) : State :=
  match s.session p with
  | none => s
  | some x =>
    let s1 := s.setSession p (some { x with reported := ctx })
    if x.state = .closePending ∧ ctx ≠ .releasing then (closeAttempt p s1).2 else s1

/-- A port takes the role INTAKE: a session in IDLE, unless one still waits to close (R121, R134). The context it takes is
STOPPED (R56). -/
def createSession (p : Port) (s : State) : State :=
  match s.session p with
  | none => s.setSession p (some .new)
  | some x => s.setSession p (some { x with reported := .stopped })

/-- A port gives up the role INTAKE (R134): a session in IDLE is removed, one in OPEN or CLOSE_PENDING makes a close attempt,
and one in CLOSING_WAIT stays until its close completes. -/
def removeSession (p : Port) (s : State) : State :=
  match s.session p with
  | none => s
  | some x =>
    match x.state with
    | .idle => s.setSession p none
    | .opened | .closePending => (closeAttempt p s).2
    | .closingWait => s

/-- The TALLY owed mark cleared at the intake port's departure from UP (R122, R134). -/
def clearOwed (p : Port) (s : State) : State :=
  match s.session p with
  | none => s
  | some x => s.setSession p (some { x with owed := false })

/-- A session at a soft reset (R135): the idle timer restarts in OPEN and the context is STOPPED. -/
def resetSession (s : State) (x : Session) : Session :=
  { x with idleTimer := if x.state = .opened then startIdleTimer s else stopTimer, reported := .stopped }

end Sys2Proof.Machine
end

