-- ==== Sys2Proof/Machine/Admission.lean ====
section
/-! DEFINITION. The admission unit (chapter 4): the contexts, the frames offered to an intake, the check run, the outcomes of
faults, and the meanings of the commands a context takes. -/

namespace Sys2Proof.Machine

/-! ### Contexts -/

/-- A context with every optional field absent, the timers stopped and nothing waiting, in a given state. -/
def Context.blank (state : CtxState) : Context :=
  { state := state, stopReason := none, seq := none, sighting := none, tareCopy := none, holdCopy := none, article := none,
    clampedCount := none, credit := none, keep := none, line := none, pitch := none, tag := none, pause := none,
    lockFault := none, holdTimer := none, handoverTimer := none, outbound := [] }

/-- A context as it is created (R56): STOPPED with stop reason START. -/
def Context.fresh : Context := { Context.blank .stopped with stopReason := some .start }

/-- A context with a container in process (R57). -/
def inProcess (x : CtxState) : Bool :=
  x == .holding || x == .paused || x == .gating || x == .releasing || x == .returning

/-- Whether a waiting frame is a HOLD. -/
def isHold : IntakeFrame → Bool
  | .hold _ _ => true
  | _ => false

/-- Whether a waiting frame is a RETURN. -/
def isReturn : IntakeFrame → Bool
  | .giveBack _ _ => true
  | _ => false

/-- Whether a waiting frame is an INTAKE_STOP or an INTAKE_GO. -/
def isStopGo : IntakeFrame → Bool
  | .stop _ => true
  | .go => true
  | _ => false

/-- Two frames of which the newer takes the older one's place in the outbound list (R58). -/
def sameKind (a b : IntakeFrame) : Bool :=
  (isHold a && isHold b) || (isReturn a && isReturn b) || (isStopGo a && isStopGo b)

/-- The outbound list after the context moves from one state to another (R58): a waiting HOLD is removed when it leaves
HOLDING or PAUSED, a waiting RETURN when it leaves RETURNING for IDLE. -/
def keptOutbound (old new : CtxState) (l : List IntakeFrame) : List IntakeFrame :=
  let l1 := if (old = .holding ∨ old = .paused) ∧ new ≠ old then l.filter (fun f => !isHold f) else l
  if old = .returning ∧ new = .idle then l1.filter (fun f => !isReturn f) else l1

/-- The context of port p moved to c, which keeps the outbound list. A change of state, or of the stop reason in STOPPED, is
reported to the tally, fault and condition units (R56). Where the same change offers a frame as well, it is offered after this
move, so to a list the waiting HOLD has already left (log entry 57). -/
def moveContext (p : Port) (c : Context) (s : State) : State :=
  match s.context p with
  | none => s
  | some old =>
    let s1 := s.setContext p (some { c with outbound := keptOutbound old.state c.state old.outbound })
    if old.state = c.state ∧ old.stopReason = c.stopReason then s1
    else s1.post (.stateReport p c.state c.stopReason c.seq)

/-- The fields of port p's context replaced with no change of state. -/
def editContext (p : Port) (f : Context → Context) (s : State) : State :=
  match s.context p with
  | none => s
  | some c => s.setContext p (some (f c))

/-! ### Frames to the intake (R58) -/

/-- A frame offered to the intake, or placed in the context's outbound list when it is refused QUEUE_FULL or frames wait
already; refused NOT_UP it is dropped (R58). -/
def offerIntake (p : Port) (f : IntakeFrame) (s : State) : State :=
  match s.context p with
  | none => s
  | some c =>
    if c.outbound.isEmpty then
      match offerAnswer s p with
      | .accepted => enqueue s p (.intake f)
      | .queueFull => s.setContext p (some { c with outbound := [f] })
      | .notUp => s
    else s.setContext p (some { c with outbound := c.outbound.filter (fun g => !sameKind f g) ++ [f] })

/-- The outbound list offered at a notice of a free place (R58). -/
def offerOutbound (p : Port) (s : State) : State :=
  match s.context p with
  | none => s
  | some c =>
    let r := offerList .intake p c.outbound s
    r.2.setContext p (some { c with outbound := r.1 })

/-- The reason an INTAKE_STOP carries for a stop reason (R58). -/
def stopFrameReason : StopReason → StopFrameReason
  | .start => .start
  | .mgmt => .mgmt
  | .shutdown => .shutdown

/-- INTAKE_STOP offered with a stop reason (R77, R78). -/
def offerStop (p : Port) (r : Option StopReason) (s : State) : State :=
  match r with
  | none => s
  | some x => offerIntake p (.stop (stopFrameReason x)) s

/-! ### Leaving a container (R71 to R73) -/

/-- What the context holds elsewhere is cancelled (R72, R73): the hold queue entry in HOLDING, the transit entry in GATING
and RELEASING. -/
def cancelHeld (p : Port) (c : Context) (s : State) : State :=
  match c.state with
  | .holding => s.post (.removalRequest p)
  | .gating | .releasing =>
    match c.tag with
    | none => s
    | some t => s.post (.cancelRequest t.tag t.gen)
  | .stopped | .idle | .paused | .returning | .locked => s

/-- RETURNING entered with the handover timer running, and RETURN offered with the context's chamber seq (R71). A HOLD that
waits leaves the outbound list first, so the RETURN may be offered at once instead of joining the list (R58; log entry 57). -/
def returnContainer (p : Port) (reason : ReturnReason) (s : State) : State :=
  match s.context p with
  | none => s
  | some c =>
    let s1 := moveContext p
      { Context.blank .returning with seq := c.seq, handoverTimer := startTimer s.mgmt.timers.handover } s
    match c.seq with
    | none => s1
    | some q => offerIntake p (.giveBack q reason) s1

/-- LOCKED entered (R73): the chamber seq, when there is one, is kept as the container held, the fault number is the lock fault
with a container or without one (R155; log entry 23), every other field is cleared (log entry 41), and INTAKE_STOP is offered
with reason LOCKED, after a waiting HOLD has left the list (log entry 57). -/
def lockContext (p : Port) (n : FaultNo) (s : State) : State :=
  match s.context p with
  | none => s
  | some c =>
    offerIntake p (.stop .locked)
      (moveContext p { Context.blank .locked with seq := c.seq, lockFault := some n } s)

/-- STOPPED entered with a reason and the container forgotten (R73, R77, R79). -/
def stopContext (p : Port) (r : StopReason) (s : State) : State :=
  moveContext p { Context.blank .stopped with stopReason := some r } s

/-- IDLE entered with every container field clear (R69, R71, R72, R76). -/
def clearContext (p : Port) (s : State) : State := moveContext p (.blank .idle) s

/-! ### Raising a fault (R60) -/

/-- A fault raised by the context with its own state and its chamber seq, when it holds one (R60, R153). For faults 20 and 21
the record takes the port's station code (R153). -/
def raiseFrom (p : Port) (n : FaultNo) (table : ErrorTable) (index : Nat) (tag : Option TagGen) (hops : Option HopSet)
    (seq : Option Byte) (s : State) : FaultResult × State :=
  match s.context p with
  | none => (.proceed, s)
  | some c =>
    raiseFault p { number := n, ext := false, state := c.state, table := table, index := index, seq := seq, tag := tag,
                   hops := hops, station := if n = 20 ∨ n = 21 then some (s.port p).stationCode else none } s

/-- The chamber seq the context holds. -/
def seqOf (s : State) (p : Port) : Option Byte :=
  match s.context p with
  | none => none
  | some c => c.seq

/-! ### Checks 11 and 12 (R65) -/

/-- The container record the context of port p hands the transit table (R65, R102). -/
def recordOf (p : Port) (c : Context) : ContainerRecord :=
  { intake := p
    seq := c.seq.getD 0
    cargo :=
      { code := match c.article with
          | none => 0
          | some a => a.entry.code
        kept := c.keep.isSome
        credit := c.credit.getD ⟨0, [], []⟩ } }

/-- The material line selection is given: the entry's when the context holds an article copy, else the sighted one (R89). -/
def materialOf (c : Context) (x : Sighting) : Option Material :=
  match c.article with
  | none => x.material
  | some a => some a.entry.material

/-- The shape the pitch is looked up by: the entry's when the context holds an article copy (R34), else the sighted one (log
entry 30). -/
def shapeOf (c : Context) (x : Sighting) : Shape :=
  match c.article with
  | none => x.shape
  | some a => a.entry.shape

/-- The starting line: the keep line of a kept container, else the article's preferred line (R65). -/
def startLine (c : Context) : LineIx :=
  match c.keep with
  | some k => k.line
  | none =>
    match c.article with
    | some a => a.entry.line
    | none => 0

/-- A shape's place in the pitch table (R90). -/
def shapeIndex : Shape → Fin 5
  | .can => 0
  | .bottleS => 1
  | .bottleL => 2
  | .crate => 3
  | .other => 4

/-- The capacity request of a context (R65, R93). -/
def capacityOf (p : Port) (c : Context) (x : Sighting) (s : State) : CapacityRequest :=
  { intake := p, seq := x.seq, start := startLine c, kept := c.keep.isSome, material := materialOf c x
    pitch := cell s.lines.pitches (shapeIndex (shapeOf c x)), mayQueue := c.holdCopy != some 0 }

/-- A grant taken (R65, R66): line, pitch and tag are recorded, the container record is handed over, and the context goes to
GATING. -/
def enterGating (p : Port) (c : Context) (l : LineIx) (pitch : Nat) (t : TagGen) (s : State) : State :=
  moveContext p { c with state := .gating, line := some l, pitch := some pitch, tag := some t, pause := none,
                         holdTimer := stopTimer }
    (s.post (.containerRecord t.tag t.gen (recordOf p c)))

/-- A place in the hold queue (R65): HOLD with reason LINE_BUSY, the hold timer, HOLDING. The HOLD of a pause leaves the list
before the new one is offered (log entry 57). -/
def enterHolding (p : Port) (c : Context) (l : LineIx) (pitch : Nat) (seq : Byte) (s : State) : State :=
  offerIntake p (.hold seq .lineBusy)
    (moveContext p { c with state := .holding, line := some l, pitch := some pitch, tag := none, pause := none,
                            holdTimer := startTimer (c.holdCopy.getD 0) } s)

/-- What a run does with the outcome of a fault: given the port, the fault number and the outcome. -/
abbrev OutcomeTaker := Port → FaultNo → FaultResult → State → State

/-- Checks 11 and 12 made as one request to the line unit, with the answer taken (R65). Removals the context has asked for
come first (R96). -/
def checkCapacity (take : OutcomeTaker) (p : Port) (s : State) : State :=
  match s.context p with
  | none => s
  | some c =>
    match c.sighting with
    | none => s
    | some x =>
      let s0 := takeRemovals p s
      let r := capacityRequest (capacityOf p c x s0) s0
      match r.1 with
      | .granted l pitch t g => enterGating p c l pitch ⟨t, g⟩ r.2
      | .queued l pitch => enterHolding p c l pitch x.seq r.2
      | .denied =>
        let q := raiseFrom p 11 .line (startLine c).val none none c.seq r.2
        take p 11 q.1 q.2
      | .noLine =>
        match c.keep with
        | some k => returnContainer p (.fault k.fault) r.2
        | none =>
          let q := raiseFrom p 10 .line (startLine c).val none none c.seq r.2
          take p 10 q.1 q.2

/-! ### Check 10 (R64) -/

/-- PAUSED with reason COUNTER_BUSY, with HOLD offered (R64), after a HOLD of HOLDING has left the list (log entry 57). -/
def pauseForCounter (p : Port) (s : State) : State :=
  match s.context p with
  | none => s
  | some c =>
    let s1 := moveContext p { c with state := .paused, pause := some .counterBusy, line := none, pitch := none, tag := none,
                                     holdTimer := stopTimer } s
    match c.seq with
    | none => s1
    | some q => offerIntake p (.hold q .counterBusy) s1

/-- Check 10 with a credit and a limit, then checks 11 and 12 (R64). Drop notes the context has sent come first (log entry
2). -/
def checkSession (take : OutcomeTaker) (p : Port) (credit limit : Nat) (s : State) : State :=
  let r := sessionTest p credit limit (takeNotes p s)
  match r.1 with
  | .fits => checkCapacity take p r.2
  | .closed => checkCapacity take p r.2
  | .waiting => pauseForCounter p r.2

/-! ### Outcomes for a container in the chamber with nothing reserved (R73, first column; R74) -/

/-- The outcome of a fault for a container that carries a keep mark: KEEP is applied as RETURN (R74). -/
def takeKept (p : Port) (n : FaultNo) (o : FaultResult) (s : State) : State :=
  match o with
  | .proceed => s
  | .giveBack => returnContainer p (.fault n) s
  | .keep _ => returnContainer p (.fault n) s
  | .lock => lockContext p n s
  | .shutdown => stopContext p .shutdown s

/-- A container routed to its keep line (R74): the keep mark, credit 0 with empty split and class counts, and a check run
from check 10 with the credit limit as it stands (log entry 10). -/
def routeKeep (p : Port) (l : LineIx) (n : FaultNo) (s : State) : State :=
  let s1 := editContext p (fun c => { c with
    keep := some ⟨l, n⟩, credit := some ⟨0, [], []⟩, line := none, pitch := none, tag := none, holdTimer := stopTimer }) s
  checkSession takeKept p 0 (s.port p).entry.creditLimit s1

/-- The outcome of a fault for a container in the chamber with nothing reserved (R73). -/
def takeChamber (p : Port) (n : FaultNo) (o : FaultResult) (s : State) : State :=
  match o with
  | .keep l =>
    match s.context p with
    | none => s
    | some c => if c.keep.isSome then takeKept p n o s else routeKeep p l n s
  | .proceed => s
  | .giveBack => takeKept p n o s
  | .lock => takeKept p n o s
  | .shutdown => takeKept p n o s

/-- A REJECT fault of a check run: raised, and its outcome applied within the run (R60, R73). -/
def reject (p : Port) (n : FaultNo) (table : ErrorTable) (index : Nat) (s : State) : State :=
  let r := raiseFrom p n table index none none (seqOf s p) s
  takeChamber p n r.1 r.2

/-- A NOTE fault of a check run: raised, and the run goes on unless the outcome is LOCK or SHUTDOWN (R60). -/
def noteThen (p : Port) (n : FaultNo) (index : Nat) (next : State → State) (s : State) : State :=
  let r := raiseFrom p n .article index none none (seqOf s p) s
  match r.1 with
  | .lock => takeChamber p n .lock r.2
  | .shutdown => takeChamber p n .shutdown r.2
  | .proceed => next r.2
  | .giveBack => next r.2
  | .keep _ => next r.2

/-! ### Checks 1 to 9 (R61 to R63) -/

/-- The fault of checks 3 to 6, the first that fails (R61). -/
def entryFault (x : Sighting) (e : ArticleEntry) : Option FaultNo :=
  if e.active = false then some 2
  else if x.shape ≠ e.shape then some 3
  else if x.material.isSome ∧ x.material ≠ some e.material then some 4
  else if e.markRequired = true ∧ x.mark = .absent then some 5
  else if e.markRequired = true ∧ x.mark = .unread then some 6
  else none

/-- The reported bottle count, 0 when it is absent (R62). -/
def reportedCount (x : Sighting) : Nat :=
  match x.count with
  | none => 0
  | some n => n.val

/-- The clamped count n′ of a crate (R62); none for any other container. -/
def clampedCountOf (x : Sighting) (e : ArticleEntry) : Option Nat :=
  e.crate.map fun k => min (reportedCount x) k.capacity

/-- Whether a crate's count exceeds its capacity (R62). -/
def overcount (x : Sighting) (e : ArticleEntry) : Bool :=
  match e.crate with
  | none => false
  | some k => decide (k.capacity < reportedCount x)

/-- The corrected weight: measured less tare, not below 0 (R62). -/
def correctedWeight (measured : Nat) (tare : Int) : Nat := ((measured : Int) - tare).toNat

/-- The low bound of the weight window (R62). -/
def lowBound (e : ArticleEntry) (n : Nat) : Nat :=
  match e.crate with
  | none => e.weightMin
  | some k => e.weightMin + n * k.bottleMin

/-- The high bound of the weight window (R62). -/
def highBound (e : ArticleEntry) (n : Nat) : Nat :=
  match e.crate with
  | none => e.weightMax
  | some k => e.weightMax + n * k.bottleMax

/-- The verdict of check 8 (R62). -/
inductive WeightVerdict where
  | underweight | pass | damp | residue
  deriving DecidableEq, Repr

/-- Check 8: scale overload, or the corrected weight judged against the window and the allowance (R62). -/
def weightVerdict (measured : Nat) (tare : Int) (low high allowance : Nat) : WeightVerdict :=
  if measured = Config.scaleOverload then .residue
  else
    let w := correctedWeight measured tare
    if w < low then .underweight
    else if w ≤ high then .pass
    else if w ≤ high + allowance then .damp
    else .residue

/-- The credit, split and class counts of a container (R63). -/
def creditOf (a : ArticleCopy) (n : Nat) : ContainerCredit :=
  match a.entry.crate, a.content with
  | some k, some t =>
    { credit := a.tariff.deposit + n * t.deposit
      split := if a.tariff.scheme = t.scheme then [(a.tariff.scheme, a.tariff.deposit + n * t.deposit)]
               else [(a.tariff.scheme, a.tariff.deposit), (t.scheme, n * t.deposit)]
      classes := if a.entry.depositClass = k.contentClass then [(a.entry.depositClass, 1 + n)]
                 else [(a.entry.depositClass, 1), (k.contentClass, n)] }
  | _, _ =>
    { credit := a.tariff.deposit, split := [(a.tariff.scheme, a.tariff.deposit)], classes := [(a.entry.depositClass, 1)] }

/-- Check 9 and on (R63): the credit is tested against the port's credit limit as it stands. -/
def checkCredit (p : Port) (a : ArticleCopy) (n : Nat) (s : State) : State :=
  let k := creditOf a n
  let limit := (s.port p).entry.creditLimit
  if limit < k.credit then reject p 9 .cls a.entry.depositClass.val s
  else checkSession takeChamber p k.credit limit (editContext p (fun c => { c with credit := some k }) s)

/-- Check 8 and on (R62). -/
def checkWeight (p : Port) (x : Sighting) (tare : Int) (a : ArticleCopy) (n : Nat) (s : State) : State :=
  match weightVerdict x.weight.val tare (lowBound a.entry n) (highBound a.entry n) a.allowance with
  | .residue => reject p 8 .article a.position s
  | .underweight => reject p 7 .article a.position s
  | .damp => noteThen p 17 a.position (checkCredit p a n) s
  | .pass => checkCredit p a n s

/-- Check 7 and on (R62): the clamped count of a crate. -/
def checkCount (p : Port) (x : Sighting) (tare : Int) (a : ArticleCopy) (s : State) : State :=
  let m := clampedCountOf x a.entry
  let s1 := editContext p (fun c => { c with clampedCount := m }) s
  if overcount x a.entry then noteThen p 16 a.position (checkWeight p x tare a (m.getD 0)) s1
  else checkWeight p x tare a (m.getD 0) s1

/-- Check 2 and on (R61): the lookup, its copy, and checks 3 to 6. A crate that fails one of these has not come to check 7 and holds
no clamped count (log entry 49). -/
def checkLookup (p : Port) (x : Sighting) (tare : Int) (s : State) : State :=
  match lookup s.catalogue x.code with
  | .notFound _ => reject p 1 .none 0 s
  | .found a =>
    let s1 := editContext p (fun c => { c with article := some a }) s
    match entryFault x a.entry with
    | some n => reject p n .article a.position s1
    | none => checkCount p x tare a s1

/-- A check run from check 1 (R60, R61). -/
def runChecks (p : Port) (s : State) : State :=
  match s.context p with
  | none => s
  | some c =>
    match c.sighting with
    | none => s
    | some x =>
      if x.code = 0 then reject p 0 .none 0 s else checkLookup p x (c.tareCopy.getD 0) s

/-! ### Outcomes by the context's state (R73) -/

/-- The cancel of R73, the container staying in the chamber with nothing reserved. -/
def unreserve' (p : Port) (c : Context) (s : State) : State :=
  editContext p (fun d => { d with line := none, pitch := none, tag := none, holdTimer := stopTimer }) (cancelHeld p c s)

/-- A SHUTDOWN outcome in STOPPED (R73): the reason becomes SHUTDOWN, and a transit tag still held is freed without
credit. -/
def shutdownStopped (p : Port) (c : Context) (s : State) : State :=
  stopContext p .shutdown (match c.tag with
    | none => s
    | some t => s.post (.freeRequest t.tag t.gen))

/-- An outcome given outside a check run, applied by the context's state (R73). -/
def applyOutcome (p : Port) (n : FaultNo) (o : FaultResult) (s : State) : State :=
  match s.context p with
  | none => s
  | some c =>
    match c.state with
    | .holding | .paused | .gating =>
      match o with
      | .proceed => s
      | .giveBack => takeChamber p n o (unreserve' p c s)
      | .keep _ => takeChamber p n o (unreserve' p c s)
      | .lock => takeChamber p n o (unreserve' p c s)
      | .shutdown => takeChamber p n o (unreserve' p c s)
    | .releasing | .returning =>
      match o with
      | .lock => lockContext p n (cancelHeld p c s)
      | .shutdown => stopContext p .shutdown (cancelHeld p c s)
      | .proceed => s
      | .giveBack => s
      | .keep _ => s
    | .idle =>
      match o with
      | .lock => lockContext p n s
      | .shutdown => stopContext p .shutdown s
      | .proceed => s
      | .giveBack => s
      | .keep _ => s
    | .locked =>
      match o with
      | .shutdown => stopContext p .shutdown s
      | .lock => s
      | .proceed => s
      | .giveBack => s
      | .keep _ => s
    | .stopped =>
      match o with
      | .shutdown => shutdownStopped p c s
      | .lock => s
      | .proceed => s
      | .giveBack => s
      | .keep _ => s

/-! ### Meanings: frames from the intake -/

/-- A SIGHTING taken in IDLE (R59): its copies are recorded, and it is paused while a ROOM_STOP latch is set, or starts a
check run. -/
def sightingIdle (p : Port) (x : Sighting) (s : State) : State :=
  let e := (s.port p).entry
  let s1 := editContext p (fun c => { c with
    seq := some x.seq, sighting := some x, tareCopy := some e.tare, holdCopy := some e.holdLimit }) s
  if s.admission.roomStop then
    match s1.context p with
    | none => s1
    | some c =>
      offerIntake p (.hold x.seq .roomStop) (moveContext p { c with state := .paused, pause := some .roomStop } s1)
  else runChecks p s1

/-- A SIGHTING taken by the context's state (R59). -/
def sightingBy (p : Port) (x : Sighting) (s : State) : State :=
  match s.context p with
  | none => s
  | some c =>
    match c.state with
    | .stopped => offerIntake p (.giveBack x.seq .stopped) s
    | .locked => offerIntake p (.stop .locked) s
    | .idle => sightingIdle p x s
    | .holding | .paused | .gating | .releasing | .returning =>
      if c.seq = some x.seq then s
      else
        let r := raiseFrom p 15 .none 0 none none c.seq s
        applyOutcome p 15 r.1 r.2

/-- SIGHTING (R59); in every state it restarts the idle timer of an OPEN session (R56, R132). -/
def sighting (p : Port) (x : Sighting) (s : State) : State :=
  match s.context p with
  | none => s
  | some _ => sightingBy p x (restartIdle p s)

/-- SIGHTING (R59). -/
def execSighting (p : Port) (x : Sighting) (s : State) : Host.Outcome State Fault Refusal := .next (sighting p x s)

/-- FAULT_OUTCOME: an outcome given outside a check run (R73). -/
def execFaultOutcome (p : Port) (n : FaultNo) (o : FaultResult) (s : State) : Host.Outcome State Fault Refusal :=
  .next (applyOutcome p n o s)

/-- WITHDRAWN (R72): with the context's seq in HOLDING, PAUSED, GATING or RELEASING it cancels and goes to IDLE; any other is
discarded as stale. -/
def withdrawn (p : Port) (seq : Byte) (s : State) : State :=
  match s.context p with
  | none => s
  | some c =>
    match c.state with
    | .holding | .paused | .gating | .releasing =>
      if c.seq = some seq then clearContext p (cancelHeld p c s) else s
    | .idle | .stopped | .returning | .locked => s

/-- WITHDRAWN (R72). -/
def execWithdrawn (p : Port) (seq : Byte) (s : State) : Host.Outcome State Fault Refusal := .next (withdrawn p seq s)

/-- RETURNED (R71). -/
def returned (p : Port) (seq : Byte) (s : State) : State :=
  match s.context p with
  | none => s
  | some c => if c.state = .returning ∧ c.seq = some seq then clearContext p s else s

/-- RETURNED (R71). -/
def execReturned (p : Port) (seq : Byte) (s : State) : Host.Outcome State Fault Refusal := .next (returned p seq s)

/-! ### Meanings: timers -/

/-- The line a fault 11 or 10 names for a context in HOLDING: the line held (R60). -/
def heldLine (c : Context) : Nat :=
  match c.line with
  | none => 0
  | some l => l.val

/-- The hold timer's expiry in HOLDING (R66): the removal is asked for, and fault 11 is raised and its outcome applied. -/
def holdExpiry (p : Port) (s : State) : State :=
  match s.context p with
  | none => s
  | some c =>
    if c.holdTimer.isSome = true ∧ c.state = .holding then
      let r := raiseFrom p 11 .line (heldLine c) none none c.seq (unreserve' p c s)
      takeChamber p 11 r.1 r.2
    else s

/-- HOLD_TIMER_EXPIRY (R66). A stopped timer does not expire (R177). -/
def execHoldTimerExpiry (p : Port) (s : State) : Host.Outcome State Fault Refusal := .next (holdExpiry p s)

/-- The free request of a context that holds a tag (R70). -/
def askFree (c : Context) (s : State) : State :=
  match c.tag with
  | none => s
  | some t => s.post (.freeRequest t.tag t.gen)

/-- The table and index a fault 14 names: TRANSIT and the tag in RELEASING, NONE in RETURNING (R60). -/
def handoverIndex (c : Context) : Nat :=
  match c.tag with
  | none => 0
  | some t => t.tag.val

/-- The handover timer's expiry by state (R70). -/
def handoverExpiry (p : Port) (s : State) : State :=
  match s.context p with
  | none => s
  | some c =>
    if c.handoverTimer.isSome then
      match c.state with
      | .releasing =>
        let s1 := editContext p (fun d => { d with tag := none, handoverTimer := stopTimer }) (askFree c s)
        let r := raiseFrom p 14 .transit (handoverIndex c) c.tag none c.seq s1
        applyOutcome p 14 r.1 r.2
      | .returning =>
        let s1 := editContext p (fun d => { d with handoverTimer := stopTimer }) s
        let r := raiseFrom p 14 .none 0 none none c.seq s1
        applyOutcome p 14 r.1 r.2
      | .stopped =>
        editContext p (fun d => { d with tag := none, seq := none, credit := none, handoverTimer := stopTimer })
          (askFree c s)
      | .idle | .holding | .paused | .gating | .locked => editContext p (fun d => { d with handoverTimer := stopTimer }) s
    else s

/-- HANDOVER_TIMER_EXPIRY (R70). A stopped timer does not expire (R177). -/
def execHandoverTimerExpiry (p : Port) (s : State) : Host.Outcome State Fault Refusal := .next (handoverExpiry p s)

/-! ### Meanings: notices from the line unit -/

/-- GRANT_NOTICE (R66): taken in HOLDING with its chamber seq; in any other case the context has the entry cancelled. -/
def grantNotice (p : Port) (seq : Byte) (t : Tag) (g : Gen) (l : LineIx) (pitch : Nat) (s : State) : State :=
  match s.context p with
  | none => s.post (.cancelRequest t g)
  | some c =>
    if c.state = .holding ∧ c.seq = some seq then enterGating p c l pitch ⟨t, g⟩ s else s.post (.cancelRequest t g)

/-- GRANT_NOTICE (R66). -/
def execGrantNotice (p : Port) (seq : Byte) (t : Tag) (g : Gen) (l : LineIx) (pitch : Nat) (s : State) :
    Host.Outcome State Fault Refusal :=
  .next (grantNotice p seq t g l pitch s)

/-- RESELECTION_NOTICE (R67): the new line is recorded, or LINE_CLOSED is raised and its outcome applied in the same event (log
entry 51), or a kept container is returned. -/
def reselectionNotice (p : Port) (seq : Byte) (l : Option LineIx) (tried : LineIx) (s : State) : State :=
  match s.context p with
  | none => s
  | some c =>
    if c.state = .holding ∧ c.seq = some seq then
      match l with
      | some m => s.setContext p (some { c with line := some m })
      | none =>
        let s1 := editContext p (fun d => { d with line := none, pitch := none, holdTimer := stopTimer }) s
        match c.keep with
        | some k => returnContainer p (.fault k.fault) s1
        | none =>
          let r := raiseFrom p 10 .line tried.val none none c.seq s1
          takeChamber p 10 r.1 r.2
    else s

/-- RESELECTION_NOTICE (R67). -/
def execReselectionNotice (p : Port) (seq : Byte) (l : Option LineIx) (tried : LineIx) (s : State) :
    Host.Outcome State Fault Refusal :=
  .next (reselectionNotice p seq l tried s)

/-! ### Meanings: reports from the transit table (R69) -/

/-- GATES_SET_REPORT: a GATING context with that tag goes to RELEASING and starts its handover timer (R69). -/
def gatesSet (p : Port) (t : Tag) (g : Gen) (s : State) : State :=
  match s.context p with
  | none => s
  | some c =>
    if c.state = .gating ∧ c.tag = some ⟨t, g⟩ then
      moveContext p { c with state := .releasing, handoverTimer := startTimer s.mgmt.timers.handover } s
    else s

/-- GATES_SET_REPORT (R69). -/
def execGatesSetReport (p : Port) (t : Tag) (g : Gen) (s : State) : Host.Outcome State Fault Refusal :=
  .next (gatesSet p t g s)

/-- The number of a gate fault (R109). -/
def gateFaultNumber : GateFaultKind → FaultNo
  | .refused => 12
  | .timeout => 13

/-- An outcome of a gate fault that finds its container gone: RETURN and KEEP change nothing (R69). -/
def lockOnly : FaultResult → FaultResult
  | .lock => .lock
  | .shutdown => .shutdown
  | .proceed => .proceed
  | .giveBack => .proceed
  | .keep _ => .proceed

/-- GATE_FAULT (R69): the context drops its tag, line and pitch and raises the fault; one that names a tag it does not hold
is raised with no container. -/
def gateFault (p : Port) (kind : GateFaultKind) (t : Tag) (g : Gen) (hops : HopSet) (s : State) : State :=
  let n := gateFaultNumber kind
  match s.context p with
  | none => s
  | some c =>
    if c.state = .gating ∧ c.tag = some ⟨t, g⟩ then
      let s1 := editContext p (fun d => { d with tag := none, line := none, pitch := none }) s
      let r := raiseFrom p n .transit t.val (some ⟨t, g⟩) (some hops) c.seq s1
      takeChamber p n r.1 r.2
    else
      let r := raiseFrom p n .transit t.val (some ⟨t, g⟩) (some hops) none s
      applyOutcome p n (lockOnly r.1) r.2

/-- GATE_FAULT (R69, R109). -/
def execGateFault (p : Port) (kind : GateFaultKind) (t : Tag) (g : Gen) (hops : HopSet) (s : State) :
    Host.Outcome State Fault Refusal :=
  .next (gateFault p kind t g hops s)

/-- The drop note of a context, sent before the state report of the same change (R126). -/
def sendDropNote (p : Port) (c : Context) (t : Tag) (s : State) : State :=
  match c.seq with
  | none => s
  | some q => s.post (.dropNote p t q (c.credit.getD ⟨0, [], []⟩).credit)

/-- DROP_REPORT (R69, R79): in RELEASING the context clears its container and goes to IDLE; in STOPPED with the tag it drops
the tag and stays. -/
def dropReport (p : Port) (t : Tag) (g : Gen) (s : State) : State :=
  match s.context p with
  | none => s
  | some c =>
    if c.tag = some ⟨t, g⟩ then
      match c.state with
      | .releasing => clearContext p (sendDropNote p c t s)
      | .stopped =>
        editContext p (fun d => { d with tag := none, seq := none, credit := none, handoverTimer := stopTimer })
          (sendDropNote p c t s)
      | .idle | .holding | .paused | .gating | .returning | .locked => s
    else s

/-- DROP_REPORT (R69). -/
def execDropReport (p : Port) (t : Tag) (g : Gen) (s : State) : Host.Outcome State Fault Refusal :=
  .next (dropReport p t g s)

/-! ### Meanings: requests from the tally and condition units -/

/-- RETURN_REQUEST (R75). -/
def returnRequest (p : Port) (s : State) : State :=
  match s.context p with
  | none => s
  | some c =>
    if c.state = .holding ∨ c.state = .paused then
      (returnContainer p .finished (unreserve' p c s)).post (.returnAnswer p true .returning)
    else s.post (.returnAnswer p false c.state)

/-- RETURN_REQUEST (R75). -/
def execReturnRequest (p : Port) (s : State) : Host.Outcome State Fault Refusal := .next (returnRequest p s)

/-- CLOSE_COMPLETED: a context PAUSED for COUNTER_BUSY starts a check run at check 11 (R68). -/
def closeCompleted (p : Port) (s : State) : State :=
  match s.context p with
  | none => s
  | some c =>
    if c.state = .paused ∧ c.pause = some .counterBusy then
      checkCapacity (if c.keep.isSome then takeKept else takeChamber) p s
    else s

/-- CLOSE_COMPLETED (R68). -/
def execCloseCompleted (p : Port) (s : State) : Host.Outcome State Fault Refusal := .next (closeCompleted p s)

/-- A context PAUSED for ROOM_STOP starts a check run at check 1 when the last latch clears (R68). -/
def resumeFromRoomStop (s : State) (p : Port) : State :=
  match s.context p with
  | none => s
  | some c => if c.state = .paused ∧ c.pause = some .roomStop then runChecks p s else s

/-- ROOM_STOP_REPORT: the first latch set, or the last one cleared (R68), when the contexts PAUSED for it start their check runs
in this one event, the lowest port first (log entry 48). -/
def roomStopReport (first : Bool) (s : State) : State :=
  let s1 := { s with admission := { s.admission with roomStop := first } }
  if first then s1 else (indices 12).foldl resumeFromRoomStop s1

/-- ROOM_STOP_REPORT (R68). -/
def execRoomStopReport (first : Bool) (s : State) : Host.Outcome State Fault Refusal := .next (roomStopReport first s)

/-! ### Meanings: the intake's link (R78, R79) -/

/-- INTAKE_STOP or INTAKE_GO offered from a context by its state, as a head that has come up learns it (R78). -/
def tellHead (p : Port) (c : Context) (s : State) : State :=
  match c.state with
  | .stopped => offerStop p c.stopReason s
  | .locked => offerIntake p (.stop .locked) s
  | .idle => offerIntake p .go s
  | .holding | .paused | .gating | .releasing | .returning => s

/-- INTAKE_ARRIVAL: the port's arrival in UP, or a station restart (R78), whose fault 21 has its outcome applied in the same event
(log entry 51). -/
def intakeArrival (p : Port) (restart : Bool) (s : State) : State :=
  match s.context p with
  | none => s
  | some c =>
    if restart = true ∧ (inProcess c.state = true ∨ c.state = .locked) then
      let r := raiseFrom p 21 .none 0 none none c.seq s
      applyOutcome p 21 r.1 r.2
    else tellHead p c s

/-- INTAKE_ARRIVAL (R78). -/
def execIntakeArrival (p : Port) (restart : Bool) (s : State) : Host.Outcome State Fault Refusal :=
  .next (intakeArrival p restart s)

/-- The stop reason a departure leaves: SHUTDOWN after a SHUTDOWN outcome, else START (R79). -/
def departureReason : FaultResult → StopReason
  | .shutdown => .shutdown
  | .lock => .start
  | .proceed => .start
  | .giveBack => .start
  | .keep _ => .start

/-- The context in STOPPED after a departure in RELEASING: tag, seq and credit kept, the handover timer running (R79), the copies
of the sighting dropped (log entry 41). -/
def stoppedWithTag (c : Context) (r : StopReason) : Context :=
  { Context.blank .stopped with
    stopReason := some r, seq := c.seq, credit := c.credit, tag := c.tag, handoverTimer := c.handoverTimer }

/-- INTAKE_DEPARTURE: the port has left UP (R79). -/
def intakeDeparture (p : Port) (s : State) : State :=
  let s0 := editContext p (fun d => { d with outbound := [] }) s
  match s0.context p with
  | none => s0
  | some c =>
    match c.state with
    | .stopped => s0
    | .idle => stopContext p .start s0
    | .releasing =>
      let r := raiseFrom p 20 .none 0 none none c.seq s0
      moveContext p (stoppedWithTag c (departureReason r.1)) r.2
    | .holding | .paused | .gating =>
      let r := raiseFrom p 20 .none 0 none none c.seq (cancelHeld p c s0)
      stopContext p (departureReason r.1) r.2
    | .returning | .locked =>
      let r := raiseFrom p 20 .none 0 none none c.seq s0
      stopContext p (departureReason r.1) r.2

/-- INTAKE_DEPARTURE (R79). -/
def execIntakeDeparture (p : Port) (s : State) : Host.Outcome State Fault Refusal := .next (intakeDeparture p s)

/-! ### Meanings: INTAKE_CONTROL (R76, R77) -/

/-- INTAKE_CONTROL judged: a port above 11 is BAD_INDEX, one whose role is not INTAKE is NOT_ALLOWED (R76, R174). -/
def intakeControl (port : Nat) (act : Port → Context → State → Answer) (s : State) : Answer :=
  match index? 12 port with
  | none => answer .badIndex s
  | some p =>
    match s.context p with
    | none => answer .notAllowed s
    | some c => if s.role p = .intake then act p c s else answer .notAllowed s

/-- RESUME by the context's state (R76). -/
def resumeContext (p : Port) (c : Context) (s : State) : Answer :=
  match c.state with
  | .stopped =>
    if s.up p = false then answer .notAllowed s
    else if c.tag.isSome then answer .busy s
    else answer .done (offerIntake p .go (clearContext p s))
  | .locked =>
    match c.seq with
    | none => answer .done (offerIntake p .go (clearContext p s))
    | some _ => answer .done (returnContainer p (.fault (c.lockFault.getD 0)) (offerIntake p .go s))
  | .idle | .holding | .paused | .gating | .releasing | .returning => answer .done s

/-- INTAKE_RESUME (R76). -/
def execIntakeResume (r : Requester) (port : Nat) (s : State) : Host.Outcome State Fault Refusal :=
  .next (manage r (intakeControl port resumeContext) s)

/-- STOP by the context's state (R77): what it holds is cancelled, it goes to STOPPED with reason MGMT unless it is STOPPED
already, and INTAKE_STOP is offered with the stop reason. -/
def stopControl (p : Port) (c : Context) (s : State) : Answer :=
  match c.state with
  | .stopped => answer .done (offerStop p c.stopReason s)
  | .idle | .holding | .paused | .gating | .releasing | .returning | .locked =>
    answer .done (offerStop p (some .mgmt) (stopContext p .mgmt (cancelHeld p c s)))

/-- INTAKE_STOP_CONTROL (R77). -/
def execIntakeStopControl (r : Requester) (port : Nat) (s : State) : Host.Outcome State Fault Refusal :=
  .next (manage r (intakeControl port stopControl) s)

/-- CLEAR_FAULT (R76, R158): the fault unit clears the contributory flag. -/
def execClearFault (r : Requester) (port : Nat) (s : State) : Host.Outcome State Fault Refusal :=
  .next (manage r (intakeControl port fun p _ t => answer .done (clearFlag p t)) s)

/-! ### Roles and resets (R56, R80) -/

/-- A context created for a port that takes the role INTAKE (R56). -/
def createContext (p : Port) (s : State) : State := s.setContext p (some .fresh)

/-- Whether a message is a report of port p's link to the admission unit (R78, R79). -/
def isLinkReport (p : Port) : Instr → Bool
  | .intakeArrival q _ => q == p
  | .intakeDeparture q => q == p
  | _ => false

/-- A report of port p's link still to be taken is taken now. -/
def takeLinkReport (p : Port) (s : State) : Instr → State
  | .intakeArrival q restart => if q = p then intakeArrival p restart s else s
  | .intakeDeparture q => if q = p then intakeDeparture p s else s
  | _ => s

/-- The reports of port p's link that still wait come before the report that the port has given up its role (R3, R16, log entry
2): a context that is removed is in STOPPED (R56). -/
def takeLinkReports (p : Port) (s : State) : State := takeWaiting (isLinkReport p) (takeLinkReport p) s

/-- A context removed when its port gives up the role INTAKE: a transit tag still held is freed without credit (R56). -/
def removeContext (p : Port) (s : State) : State :=
  match s.context p with
  | none => s
  | some c => (askFree c s).setContext p none

/-- A context at a soft reset (R80): STOPPED with reason START from every state, reported when that is a change, and
INTAKE_STOP START offered to a port that is UP. -/
def resetContext (s : State) (p : Port) : State :=
  match s.context p with
  | none => s
  | some _ =>
    offerIntake p (.stop .start)
      (editContext p (fun d => { d with outbound := [] }) (moveContext p .fresh s))

end Sys2Proof.Machine
end

