-- ==== Sys2Proof/Machine/Conditions.lean ====
section
/-! DEFINITION. The condition unit's commands (chapter 10): the sense pins and their debounce, condition requests, line state
reports, and the management requests on the conditions, the latches and the sense, output and mask tables. -/

namespace Sys2Proof.Machine

/-! ### Sense pins (R164, R165) -/

/-- SENSE_ASSERT: the level is recorded, and an IDLE input with a function starts its debounce (R164). -/
def senseAssert (i : SenseIx) (s : State) : State :=
  let e := cell s.cond.sense i
  let x : SenseInput := { cell s.cond.inputs i with level := true }
  setInput s i (if x.state = .idle ∧ e.function ≠ .none then
    { x with state := .debouncing, timer := startTimer e.debounce } else x)

/-- SENSE_ASSERT (R164). -/
def execSenseAssert (i : SenseIx) (s : State) : Host.Outcome State Fault Refusal := .next (senseAssert i s)

/-- SENSE_RELEASE: the level is recorded, and a DEBOUNCING input goes to IDLE without a latch (R164). -/
def senseRelease (i : SenseIx) (s : State) : State :=
  let x : SenseInput := { cell s.cond.inputs i with level := false }
  setInput s i (if x.state = .debouncing then { x with state := .idle, timer := stopTimer } else x)

/-- SENSE_RELEASE (R164). -/
def execSenseRelease (i : SenseIx) (s : State) : Host.Outcome State Fault Refusal := .next (senseRelease i s)

/-- DEBOUNCE_TIMER_EXPIRY: a DEBOUNCING input latches (R165). A stopped timer does not expire (R177). -/
def debounceExpiry (i : SenseIx) (s : State) : State :=
  let x := cell s.cond.inputs i
  if x.state = .debouncing ∧ x.timer.isSome = true then latchInput i s else s

/-- DEBOUNCE_TIMER_EXPIRY (R165). -/
def execDebounceTimerExpiry (i : SenseIx) (s : State) : Host.Outcome State Fault Refusal := .next (debounceExpiry i s)

/-! ### Requests and reports from other blocks (R167, R168) -/

/-- CONDITION_REQUEST (R168). -/
def execConditionRequest (c : Condition) (s : State) : Host.Outcome State Fault Refusal := .next (setCondition c s)

/-- LINE_STATE_REPORT: the line's state is recorded, and the outputs are evaluated again (R167). -/
def lineStateReport (l : LineIx) (x : LineState) (s : State) : State :=
  evalOutputs { s with cond := { s.cond with lineStates := put s.cond.lineStates l x } }

/-- LINE_STATE_REPORT (R167). -/
def execLineStateReport (l : LineIx) (x : LineState) (s : State) : Host.Outcome State Fault Refusal :=
  .next (lineStateReport l x s)

/-! ### Management requests (R163, R165, R166, R168, R170) -/

/-- CLEAR_CONDITIONS: the named conditions are cleared, and the reply carries the set that remains (R170). -/
def clearConditions (bits : BitVec 24) (s : State) : Answer :=
  let s1 := clearNamed (conditionOperand bits) s
  ⟨.done, .conditions s1.cond.set, s1⟩

/-- CLEAR_CONDITIONS (R170). -/
def execClearConditions (r : Requester) (bits : BitVec 24) (s : State) : Host.Outcome State Fault Refusal :=
  .next (manage r (clearConditions bits) s)

/-- CLEAR_SENSE (R165). -/
def clearSense (inputs : BitVec 8) (s : State) : Answer := answer .done (releaseInputs inputs s)

/-- CLEAR_SENSE (R165). -/
def execClearSense (r : Requester) (inputs : BitVec 8) (s : State) : Host.Outcome State Fault Refusal :=
  .next (manage r (clearSense inputs) s)

/-- Replaces a sense entry. -/
def setSense (s : State) (i : SenseIx) (e : SenseEntry) : State :=
  { s with cond := { s.cond with sense := put s.cond.sense i e } }

/-- A sense entry written (R163): a change of function releases the latch and starts the input again under its new
function. -/
def applySense (i : SenseIx) (e : SenseEntry) (s : State) : State :=
  if (cell s.cond.sense i).function = e.function then setSense s i e
  else
    let s1 := setSense (releaseInput s i) i e
    evalOutputs (setInput s1 i (restartedInput e (cell s1.cond.inputs i)))

/-- A write of a sense entry decided by the tests of R163. -/
def senseWrite (index : Nat) (x : SenseFields) (s : State) : Answer :=
  match index? 8 index with
  | none => answer .badIndex s
  | some i =>
    match senseEntryOf x with
    | none => answer .badValue s
    | some e => answer (clampStatus (e.debounce != x.debounce)) (applySense i e s)

/-- SENSE_WRITE (R163). -/
def execSenseWrite (r : Requester) (index : Nat) (x : SenseFields) (s : State) : Host.Outcome State Fault Refusal :=
  .next (manage r (senseWrite index x) s)

/-- A write of an output entry, the index judged first, as R166 tells it (log entry 56); the line is evaluated in the same
event. -/
def outputWrite (index : Nat) (x : OutputFields) (s : State) : Answer :=
  match index? 8 index with
  | none => answer .badIndex s
  | some i =>
    match outputEntryOf x with
    | none => answer .badValue s
    | some e => answer .done (evalOutputs { s with cond := { s.cond with outputs := put s.cond.outputs i e } })

/-- OUTPUT_WRITE (R166). -/
def execOutputWrite (r : Requester) (index : Nat) (x : OutputFields) (s : State) : Host.Outcome State Fault Refusal :=
  .next (manage r (outputWrite index x) s)

/-- A write of the mask, which causes no NOTICE and is followed by an evaluation of the outputs (R168). -/
def maskWrite (index : Nat) (bits : BitVec 24) (s : State) : Answer :=
  if index ≠ 0 then answer .badIndex s
  else answer .done (evalOutputs { s with cond := { s.cond with mask := conditionOperand bits } })

/-- MASK_WRITE (R168). -/
def execMaskWrite (r : Requester) (index : Nat) (bits : BitVec 24) (s : State) : Host.Outcome State Fault Refusal :=
  .next (manage r (maskWrite index bits) s)

end Sys2Proof.Machine
end

