-- ==== Sys2Proof/Machine/Check.lean ====
section
/-! DEFINITION. The check value of R9, and a received frame read from its bytes (R9, R18). -/

namespace Sys2Proof.Machine

/-- The polynomial x^16 + x^12 + x^5 + 1, less its leading term (R9). -/
def checkPolynomial : BitVec 16 := 0x1021

/-- The check register moved on by one bit (R9). -/
def checkShift (r : BitVec 16) : BitVec 16 :=
  if r.getMsbD 0 then (r <<< 1) ^^^ checkPolynomial else r <<< 1

/-- The check register moved on by one byte, taken most significant bit first (R9). -/
def checkByte (r : BitVec 16) (b : Byte) : BitVec 16 :=
  checkShift (checkShift (checkShift (checkShift (checkShift (checkShift (checkShift (checkShift
    (r ^^^ (b.setWidth 16 <<< 8)))))))))

/-- The check value of a list of bytes: the register preset to all ones, no reflection and no final inversion (R9). -/
def checkValue (bytes : List Byte) : BitVec 16 := bytes.foldl checkByte 0xFFFF

/-- The two bytes of a 16-bit value, most significant first (R20). -/
def twoBytes (v : BitVec 16) : List Byte := [v.extractLsb' 8 8, v.extractLsb' 0 8]

/-- The greatest payload length of a frame (section 2.1). -/
def payloadMax : Nat := 48

/-- A received frame read from its bytes, when it passes the check (R9): at least 7 bytes, a length field of at most 48 that
agrees with the byte count, and the check value computed. -/
def checkFrame : List Byte → Option RxFrame
  | b0 :: kind :: tag :: b3 :: len :: rest =>
    let payload := rest.take len.toNat
    if len.toNat ≤ payloadMax ∧ rest.length = len.toNat + 2 ∧
        rest.drop len.toNat = twoBytes (checkValue (b0 :: kind :: tag :: b3 :: len :: payload)) then
      some { dst := (b0.extractLsb' 4 4).toFin, kind := kind, tag := tag, gen := (b3.extractLsb' 4 4).toFin,
             payload := payload }
    else none
  | _ => none

/-- The kind code of a MGMT_REQ (section 2.2). -/
def mgmtReqCode : Byte := 0x60

/-- Whether a failing frame is at least 2 bytes long and its byte 1 holds the MGMT_REQ kind code (R9). -/
def holdsMgmtReq (bytes : List Byte) : Bool := bytes[1]? == some mgmtReqCode

end Sys2Proof.Machine
end

