-- ==== Sys2Proof/Machine/Passing.lean ====
section
/-! DEFINITION. The head of a receive queue: the credit a frame taken from it gives back (R12), and the PASS or UNDELIVERABLE
the dispatcher holds there and offers again (R28, R29, R31). -/

namespace Sys2Proof.Machine

/-! ### Returning credit (R12) -/

/-- Whether a port returns credit now: 4 taken, or some taken and the queue empty (R12). -/
def creditDue (l : LinkPort) : Bool := Config.creditReturn ≤ l.taken || (0 < l.taken && l.rx.isEmpty)

/-- The credit returned, when it is due: a CREDIT with the taken count, which is granted again (R12). It is sent at once, before
any frame of the transmit queue (R15, log entry 38). -/
def returnCredit (p : Port) (s : State) : State :=
  let l := s.port p
  if creditDue l then
    s.setPort p { l with granted := l.granted + l.taken, taken := 0, sent := l.sent ++ [.credit l.taken] }
  else s

/-- The taken count gains 1, and credit is returned when it is due (R11, R12). -/
def takeCount (p : Port) (s : State) : State :=
  returnCredit p (s.setPort p { s.port p with taken := (s.port p).taken + 1 })

/-- The head of port p's receive queue leaves it, and nothing is held there any more (R12). -/
def dropHead (p : Port) (s : State) : State :=
  takeCount p (s.setPort p { s.port p with rx := (s.port p).rx.tail, held := none })

/-! ### Pass-through frames (R28 to R31) -/

/-- Port p's receive queue holds its head frame in a given way (R24). -/
def holdHead (p : Port) (h : Held) (s : State) : State := s.setPort p { s.port p with held := some h }

/-- The answer to an offer from source port p to an address: 12 to 15 have no port, and refuse NOT_UP; so does the source's
own port (R29). -/
def addressAnswer (s : State) (p : Port) (d : Fin 16) : Offer :=
  match index? 12 d.val with
  | none => .notUp
  | some q => if q = p then .notUp else offerAnswer s q

/-- A frame joins the transmit queue of the port an address names. -/
def enqueueAt (d : Fin 16) (f : TxFrame) (s : State) : State :=
  match index? 12 d.val with
  | none => s
  | some q => enqueue s q f

/-- The UNDELIVERABLE of a PASS offered to the controller port it came from: accepted it replaces the PASS at the head, and
QUEUE_FULL holds it there (R29). -/
def offerUndeliverable (p : Port) (f : RxFrame) (s : State) : State :=
  match offerAnswer s p with
  | .accepted => dropHead p (enqueue s p (.undeliverable f))
  | .queueFull => holdHead p (.undeliverable f) s
  | .notUp => dropHead p s

/-- A PASS refused NOT_UP: the condition, and the UNDELIVERABLE when the PASS came from a controller (R29, R31). -/
def undeliverable (p : Port) (f : RxFrame) (s : State) : State :=
  let s1 := s.request .undeliverable
  if s.role p = .controller then offerUndeliverable p f s1 else dropHead p s1

/-- The PASS at the head of port p's receive queue offered to its destination (R28). -/
def offerPass (p : Port) (f : RxFrame) (s : State) : State :=
  match addressAnswer s p f.dst with
  | .accepted => dropHead p (enqueueAt f.dst (.pass p f) s)
  | .queueFull => holdHead p .pass s
  | .notUp => undeliverable p f s

/-- The frame held at the head of port p's receive queue offered again (R28, R29). -/
def reoffer (p : Port) (s : State) : State :=
  match (s.port p).held, (s.port p).rx with
  | some .pass, f :: _ => offerPass p f s
  | some (.undeliverable f), _ :: _ => offerUndeliverable p f s
  | _, _ => s

/-- Whether the dispatcher holds, at source port q, a frame refused QUEUE_FULL for port p (R28, R29). -/
def waitsFor (s : State) (p q : Port) : Bool :=
  match (s.port q).held with
  | none => false
  | some (.undeliverable _) => q == p
  | some .pass =>
    match (s.port q).rx with
    | [] => false
    | f :: _ => f.dst.val == p.val

/-- A station's PASS held at source port q for port p, which has left UP: its hold ends with an offer, which is refused NOT_UP
(R31). A controller's PASS stays held, until its own port leaves UP or port p is UP again and frees a place (R28, section 2's
worked example, step 8). -/
def endHold (p : Port) (s : State) (q : Port) : State :=
  match (s.port q).held, (s.port q).rx with
  | some .pass, f :: _ => if f.dst.val = p.val ∧ s.role q ≠ .controller then offerPass q f s else s
  | _, _ => s

/-- The hold of every station's PASS for port p, which has left UP, ends (R31), the lowest source port first (log entry 36). -/
def endHolds (p : Port) (s : State) : State := (indices 12).foldl (endHold p) s

end Sys2Proof.Machine
end

