-- ==== Sys2Proof/Machine/Links.lean ====
section
/-! DEFINITION. The link ports (chapter 1): link states, the credit account, entering and leaving UP, port writes, and the
meanings of the carrier events, received frames, transmissions and port controls. -/

namespace Sys2Proof.Machine

/-! ### Link states (R4, R5) -/

/-- A port with its queues flushed and its credit counts and transmit credit at 0 (R16, steps 1 to 3; R33). -/
def flushed (l : LinkPort) : LinkPort :=
  { l with rx := [], tx := [], granted := 0, taken := 0, txCredit := 0, held := none }

/-- A port entering TRAINING: error score, good-frame count and all credits 0 (R5). -/
def enterTraining (l : LinkPort) : LinkPort := { flushed l with link := .training, errorScore := 0, goodFrames := 0 }

/-- A port entering DOWN: with a carrier present it goes on to TRAINING at once (R4). -/
def enterDown (l : LinkPort) : LinkPort :=
  if l.carrier then enterTraining { flushed l with link := .down } else { flushed l with link := .down }

/-- A port entering DISABLED. -/
def enterDisabled (l : LinkPort) : LinkPort := { flushed l with link := .disabled }

/-- A port entering FAULTED, its error score kept (R7). -/
def enterFaulted (l : LinkPort) : LinkPort := { flushed l with link := .faulted }

/-! ### Leaving UP (R16) -/

/-- The report list of port p emptied in the voucher unit and in the fault unit (R147, R160). -/
def emptyReports (p : Port) (s : State) : State :=
  { s with vouchers := { s.vouchers with reports := put s.vouchers.reports p [] }
           faults := { s.faults with reports := put s.faults.reports p [] } }

/-- A request being carried out for a port that leaves UP loses its reply (R172). -/
def orphan : Carried → Carried
  | .none => .none
  | .carrying => .orphaned
  | .orphaned => .orphaned

/-- A store save's reply is no longer owed to port p (R182). -/
def forgetRequester (p : Port) (v : Save) : Save :=
  match v.requester with
  | none => v
  | some r => if r.port = p then { v with requester := none } else v

/-- The management unit's part of a controller port's departure: the slot emptied, the owed reply dropped (R172, R182). -/
def dropReplies (p : Port) (s : State) : State :=
  let s1 := s.setSlot p { reply := none, carried := orphan (s.slot p).carried, owed := none }
  { s1 with mgmt := { s1.mgmt with save := s1.mgmt.save.map (forgetRequester p) } }

/-- A port's departure from UP reported to the owner blocks of its role (R16, step 4). The tally, condition, management,
voucher and fault units take theirs in the same event; the others are told by message (log entry 1). -/
def departureReports (p : Port) (s : State) : State :=
  match s.role p with
  | .unused => s
  | .intake => (evalOutputs (clearOwed p s)).post (.intakeDeparture p)
  | .sorter => (s.post (.sorterDownReport p)).post (.portEventReport p)
  | .bin => s.post (.portEventReport p)
  | .counter => s.post (.counterPortReport p false)
  | .controller => emptyReports p (dropReplies p (setQueued s p false))

/-- What follows when a port has left UP: its clear backlog is emptied, whatever its role (R110); a station's PASS held for it is
held no longer (R31, log entry 36); and the owner blocks of its role are told (R16, step 4). -/
def departure (p : Port) (s : State) : State := departureReports p (endHolds p (s.setBacklog p []))

/-- Port p moved to another link state; one that was UP leaves UP (R16). -/
def moveLink (p : Port) (enter : LinkPort → LinkPort) (s : State) : State :=
  let s1 := s.setPort p (enter (s.port p))
  if s.up p then departure p s1 else s1

/-! ### Error score and good frames (R10) -/

/-- 1 added to the error score; at 16 a port in UP or TRAINING goes to FAULTED, with LINK_FAULT (R10). -/
def addError (p : Port) (s : State) : State :=
  let l := s.port p
  let s1 := s.setPort p { l with errorScore := min (l.errorScore + 1) Config.scoreLimit }
  if Config.scoreLimit ≤ l.errorScore + 1 ∧ (l.link = .up ∨ l.link = .training) then
    moveLink p enterFaulted (s1.request .linkFault)
  else s1

/-- A good frame counted: the 64th takes 1 from the error score (R10). -/
def countGood (l : LinkPort) : LinkPort :=
  if Config.goodFrameSpan ≤ l.goodFrames + 1 then { l with goodFrames := 0, errorScore := l.errorScore - 1 }
  else { l with goodFrames := l.goodFrames + 1 }

/-- A good frame counted at port p (R10). -/
def goodFrame (p : Port) (s : State) : State := s.setPort p (countGood (s.port p))

/-! ### ANNOUNCE (R5, R6, R17) -/

/-- The fields of a valid ANNOUNCE (R5). -/
structure Announced where
  role    : Role
  credits : Nat
  station : Byte
  deriving DecidableEq, Repr

/-- The fields of an ANNOUNCE that has passed the check, when it is valid (R5): addressed to 15, 3 payload bytes, a role other
than UNUSED, credits 0 to 15. -/
def announceOf (f : RxFrame) : Option Announced :=
  if f.dst ≠ Config.switchAddress then none
  else
    match f.payload with
    | [r, c, station] =>
      match decodeName roles r.toNat with
      | none => none
      | some .unused => none
      | some role => if 15 < c.toNat then none else some ⟨role, c.toNat, station⟩
    | _ => none

/-- The arrival of a port in UP reported to the owner blocks of its role (R17). -/
def arrivalReports (p : Port) (s : State) : State :=
  match s.role p with
  | .unused => s
  | .intake => (evalOutputs s).post (.intakeArrival p false)
  | .sorter => s.post (.portEventReport p)
  | .bin => s.post (.portEventReport p)
  | .counter => s.post (.counterPortReport p true)
  | .controller => setQueued s p false

/-- A port after it has entered UP and sent its own ANNOUNCE (R17): its station's frames use the grant from here on (log entry
37). -/
def upPort (a : Announced) (l : LinkPort) : LinkPort :=
  { l with link := .up, rx := [], granted := Config.rxPlaces, taken := 0, txCredit := a.credits,
           sent := l.sent ++ [.announce l.entry.role Config.rxPlaces] }

/-- A port after a station restart: the announced credits, and a fresh grant of the places free in its receive queue, sent
in its own ANNOUNCE (R6, steps 2 and 3). -/
def restartedPort (a : Announced) (l : LinkPort) : LinkPort :=
  { l with txCredit := a.credits, granted := Config.rxPlaces - l.rx.length, taken := 0,
           sent := l.sent ++ [.announce l.entry.role (Config.rxPlaces - l.rx.length)] }

/-- A station restart reported to the owner blocks (R6, step 4). -/
def restartReports (p : Port) (s : State) : State :=
  match s.role p with
  | .intake => (s.post (.intakeArrival p true)).post (.portEventReport p)
  | .counter => (restartUnit p s).post (.portEventReport p)
  | .unused | .sorter | .bin | .controller => s.post (.portEventReport p)

/-- A valid ANNOUNCE of another role: FAULTED, with ROLE_MISMATCH (R5, R6). -/
def roleMismatch (p : Port) (s : State) : State := moveLink p enterFaulted (s.request .roleMismatch)

/-- A valid ANNOUNCE taken in TRAINING or UP (R5, R6). Its station code is set from each one taken (R1, log entry 11). -/
def takeAnnounced (p : Port) (a : Announced) (s : State) : State :=
  let s1 := goodFrame p s
  let s2 := s1.setPort p { s1.port p with stationCode := a.station }
  if a.role ≠ s.role p then roleMismatch p s2
  else if s.up p then restartReports p (s2.setPort p (restartedPort a (s2.port p)))
  else arrivalReports p (s2.setPort p (upPort a (s2.port p)))

/-- An ANNOUNCE that has passed the check, by the link state (R4 to R7). -/
def takeAnnounce (p : Port) (f : RxFrame) (s : State) : State :=
  match (s.port p).link with
  | .training | .up =>
    match announceOf f with
    | none => addError p s
    | some a => takeAnnounced p a s
  | .disabled | .down | .faulted => s

/-! ### CREDIT (R11, R13) -/

/-- The count of a CREDIT that is not malformed: one byte, 1 to 15 (R13). -/
def creditCount (f : RxFrame) : Option Nat :=
  match f.payload with
  | [n] => if n.toNat = 0 ∨ 15 < n.toNat then none else some n.toNat
  | _ => none

/-- The transmit credit after a grant, held at 255 (R13). -/
def addCredit (n : Nat) (l : LinkPort) : LinkPort := { l with txCredit := min (l.txCredit + n) Config.txCreditMax }

/-- A frame in UP without a grant: OVERRUN, and 1 to the error score (R11). -/
def overrun (p : Port) (s : State) : State := addError p (s.request .overrun)

/-- One grant used by an arriving frame (R11). -/
def useGrant (p : Port) (s : State) : State := s.setPort p { s.port p with granted := (s.port p).granted - 1 }

/-- The grant of a frame that does not enter the receive queue is taken at once, while the port is still UP (R11, R12). -/
def takeGrant (p : Port) (s : State) : State := if s.up p then takeCount p s else s

/-- A CREDIT that carries a grant in UP (R11, R13). -/
def takeCredit (p : Port) (f : RxFrame) (s : State) : State :=
  let s1 := useGrant p s
  match creditCount f with
  | none => takeGrant p (addError p s1)
  | some n =>
    let s2 := goodFrame p s1
    takeGrant p (s2.setPort p (addCredit n (s2.port p)))

/-- A CREDIT that has passed the check, by the link state (R4, R5, R11, R13). -/
def creditFrame (p : Port) (f : RxFrame) (s : State) : State :=
  match (s.port p).link with
  | .up => if (s.port p).granted = 0 then overrun p s else takeCredit p f s
  | .training => goodFrame p s
  | .disabled | .down | .faulted => s

/-! ### Frames received (R9, R11) -/

/-- MGMT_CHECK is asked for when a failing frame names MGMT_REQ (R9). -/
def checkFailed (p : Port) (bytes : List Byte) (s : State) : State :=
  addError p (if holdsMgmtReq bytes then s.request .mgmtCheck else s)

/-- A frame that is neither ANNOUNCE nor CREDIT joins the tail of the receive queue (R11). -/
def queueFrame (p : Port) (f : RxFrame) (s : State) : State :=
  let s1 := goodFrame p (useGrant p s)
  s1.setPort p { s1.port p with rx := (s1.port p).rx ++ [f] }

/-- The kind codes of the link control frames (section 2.2). -/
def announceCode : Byte := 0x01
/-- The kind code of a CREDIT (section 2.2). -/
def creditCode : Byte := 0x02

/-- A frame that passes the check, received in UP (R11, log entry 37). -/
def receiveUp (p : Port) (f : RxFrame) (s : State) : State :=
  if f.kind = announceCode then takeAnnounce p f s
  else if f.kind = creditCode then creditFrame p f s
  else if (s.port p).granted = 0 then overrun p s
  else queueFrame p f s

/-- A frame that fails the check, received in UP (R11): an overrun is not checked. -/
def failUp (p : Port) (bytes : List Byte) (s : State) : State :=
  if (s.port p).granted = 0 then overrun p s else takeGrant p (checkFailed p bytes (useGrant p s))

/-- A frame received on a link, by the link state (R4, R5, R11). -/
def frameArrival (p : Port) (bytes : List Byte) (s : State) : State :=
  match (s.port p).link with
  | .up =>
    match checkFrame bytes with
    | none => failUp p bytes s
    | some f => receiveUp p f s
  | .training =>
    match checkFrame bytes with
    | none => checkFailed p bytes s
    | some f => if f.kind = announceCode then takeAnnounce p f s else goodFrame p s
  | .disabled | .down | .faulted => s

/-! ### Meanings: the link -/

/-- SIGNAL_DETECT: the carrier appears; a port in DOWN goes to TRAINING (R4). -/
def signalDetect (p : Port) (s : State) : State :=
  let l := { s.port p with carrier := true }
  s.setPort p (if l.link = .down then enterTraining l else l)

/-- SIGNAL_DETECT (R4). -/
def execSignalDetect (p : Port) (s : State) : Host.Outcome State Fault Refusal := .next (signalDetect p s)

/-- SIGNAL_LOSS: the carrier is gone; a port in TRAINING, UP or FAULTED goes to DOWN (R4). -/
def signalLoss (p : Port) (s : State) : State :=
  let s1 := s.setPort p { s.port p with carrier := false }
  match (s.port p).link with
  | .training | .up | .faulted => moveLink p enterDown s1
  | .disabled | .down => s1

/-- SIGNAL_LOSS (R4). -/
def execSignalLoss (p : Port) (s : State) : Host.Outcome State Fault Refusal := .next (signalLoss p s)

/-- FRAME_ARRIVAL (R9, R11). -/
def execFrameArrival (p : Port) (bytes : List Byte) (s : State) : Host.Outcome State Fault Refusal :=
  .next (frameArrival p bytes s)

/-- ANNOUNCE (R5, R6). -/
def execAnnounce (p : Port) (f : RxFrame) (s : State) : Host.Outcome State Fault Refusal := .next (takeAnnounce p f s)

/-- CREDIT (R13). -/
def execCredit (p : Port) (f : RxFrame) (s : State) : Host.Outcome State Fault Refusal := .next (creditFrame p f s)

/-! ### Place-free notices (R14) and transmission (R15) -/

/-- Whether the transit table holds a RELEASE, or a clear backlog, for port p (R107, R110). -/
def transitWaits (s : State) (p : Port) : Bool :=
  !(cell s.transit.backlog p).isEmpty ||
    (indices 64).any fun t =>
      (s.entry t).heldRelease &&
        match (s.entry t).use with
        | none => false
        | some u => u.intake == p

/-- The owner blocks other than the dispatcher, in the order they are told (log entry 1). -/
def otherOwners : List Owner := [.management, .admission, .transit, .tally, .counter, .voucherReports, .faultReports]

/-- Whether an owner block holds a frame refused QUEUE_FULL for port p (R14). -/
def ownerWaits (s : State) (p : Port) : Owner → Bool
  | .dispatcher q => waitsFor s p q
  | .management => (s.slot p).reply.isSome
  | .admission =>
    match s.context p with
    | none => false
    | some c => !c.outbound.isEmpty
  | .transit => transitWaits s p
  | .tally =>
    match s.session p with
    | none => false
    | some x => x.owed
  | .counter =>
    match s.unit p with
    | none => false
    | some u => u.sendOwed
  | .voucherReports => !(cell s.vouchers.reports p).isEmpty
  | .faultReports => !(cell s.faults.reports p).isEmpty

/-- The owner blocks that wait for a place on port p (R14). -/
def waitingOwners (s : State) (p : Port) : List Owner :=
  ((indices 12).map Owner.dispatcher ++ otherOwners).filter (ownerWaits s p)

/-- Every owner block that waits for port p is told that a place is free (R14). -/
def notifyPlace (p : Port) (s : State) : State :=
  (waitingOwners s p).foldl (fun t o => t.post (.placeFree p o)) s

/-- Whether a frame is a NOTICE. -/
def isNotice : TxFrame → Bool
  | .notice _ => true
  | _ => false

/-- FRAME_TRANSMIT: the head of the transmit queue is sent against one transmit credit; a NOTICE sent empties its slot, and
the waiting owners are told of the free place (R14, R15, R169). -/
def frameTransmit (p : Port) (s : State) : State :=
  let l := s.port p
  match l.link, l.tx with
  | .up, f :: rest =>
    if l.txCredit = 0 then s
    else
      let s1 := s.setPort p { l with tx := rest, txCredit := l.txCredit - 1, sent := l.sent ++ [f] }
      notifyPlace p (if isNotice f then setQueued s1 p false else s1)
  | _, _ => s

/-- FRAME_TRANSMIT (R15). -/
def execFrameTransmit (p : Port) (s : State) : Host.Outcome State Fault Refusal := .next (frameTransmit p s)

/-! ### Writing a port entry (R2, R3) -/

/-- The number of ports that hold a role (R2, check 3). -/
def countRole (s : State) (r : Role) : Nat := ((indices 12).filter fun p => s.role p == r).length

/-- Checks 2 to 4 of R2: a role change while UP; more than 8 INTAKE or 4 COUNTER ports; the last CONTROLLER. -/
def writeAllowed (s : State) (p : Port) (e : PortEntry) : Bool :=
  let old := s.role p
  let others := (indices 12).filter fun q => q != p && s.role q == .controller
  !(e.role != old && s.up p)
    && !(e.role == .intake && old != .intake && decide (Config.maxIntakes ≤ countRole s .intake))
    && !(e.role == .counter && old != .counter && decide (Config.maxCounters ≤ countRole s .counter))
    && !(old == .controller && e.role != .controller && others.isEmpty)
    && !(old == .controller && !e.enabled && !(others.any fun q => (s.port q).entry.enabled))

/-- The link state a write of role or admin enable leaves, applied to the written port (R3). -/
def moveForWrite (p : Port) (old new : PortEntry) (s : State) : State :=
  if new.role = .unused ∨ new.enabled = false then moveLink p enterDisabled s
  else if (s.port p).link = .disabled ∨ new.role ≠ old.role then moveLink p enterDown s
  else s

/-- The fault context of a port that takes the role INTAKE (R152, R162). -/
def FaultContext.fresh : FaultContext := { flag := false, reported := .stopped, seq := none, last := none }

/-- The context state last reported for a port (R167). -/
def setReported (p : Port) (x : CtxState) (s : State) : State :=
  { s with cond := { s.cond with ctxStates := put s.cond.ctxStates p x } }

/-- The per-port state of a role given up is dropped by its owner blocks (R3). The admission unit first takes what the port's
link has reported to it, so that the context it removes is in STOPPED (R56). -/
def removeRole (p : Port) (r : Role) (s : State) : State :=
  match r with
  | .intake => (removeSession p (removeContext p (takeLinkReports p s))).setFaultContext p none
  | .counter => removeUnit p s
  | .controller => emptyReports p (dropReplies p (setQueued s p false))
  | .unused | .sorter | .bin => s

/-- The per-port state of a role taken is created by its owner blocks (R3). -/
def createRole (p : Port) (r : Role) (s : State) : State :=
  match r with
  | .intake =>
    setReported p .stopped ((createSession p (createContext p s)).setFaultContext p (some .fresh))
  | .counter => createUnit p s
  | .unused | .sorter | .bin | .controller => s

/-- A change of role reported to the owner blocks of the old and the new role, to the line unit and to the outputs (R3). -/
def changeRole (p : Port) (old new : Role) (s : State) : State :=
  if old = new then s
  else evalOutputs ((createRole p new (removeRole p old s)).post (.portEventReport p))

/-- A port entry written, with the moves of R3. A change of the counter port field is reported to the tally unit, which tries a
session in CLOSING_WAIT again (R129). -/
def applyEntry (p : Port) (e : PortEntry) (s : State) : State :=
  let old := (s.port p).entry
  let s1 := s.setPort p { s.port p with entry := e }
  let s2 := changeRole p old.role e.role (moveForWrite p old e s1)
  if e.counterPort = old.counterPort then s2 else retryClose s2 p

/-- A WRITE_ENTRY on the port table decided by the checks of R2. An index above 11 is judged before them, so it is BAD_INDEX
whatever the fields hold (log entry 56). -/
def portWrite (index : Nat) (x : PortFields) (s : State) : Answer :=
  match index? 12 index with
  | none => answer .badIndex s
  | some p =>
    match portEntryOf x with
    | none => answer .badValue s
    | some e =>
      if writeAllowed s p e = false then answer .notAllowed s
      else if s.catalogue.lock = .locked ∧ x.creditLimit ≠ (s.port p).entry.creditLimit then answer .locked s
      else answer (clampStatus (portClamped x e)) (applyEntry p e s)

/-- PORT_WRITE (R2, R3). -/
def execPortWrite (r : Requester) (index : Nat) (x : PortFields) (s : State) : Host.Outcome State Fault Refusal :=
  .next (manage r (portWrite index x) s)

/-- PORT_CONTROL ENABLE or DISABLE: a write of the one field admin enable (R3). -/
def adminWrite (port : Nat) (enabled : Bool) (s : State) : Answer :=
  match index? 12 port with
  | none => answer .badIndex s
  | some p => portWrite port (fieldsOf (s.port p).entry enabled) s

/-- PORT_ENABLE (R3). -/
def execPortEnable (r : Requester) (port : Nat) (s : State) : Host.Outcome State Fault Refusal :=
  .next (manage r (adminWrite port true) s)

/-- PORT_DISABLE (R3). -/
def execPortDisable (r : Requester) (port : Nat) (s : State) : Host.Outcome State Fault Refusal :=
  .next (manage r (adminWrite port false) s)

/-- The error score and the good-frame count at 0 (R8). -/
def clearScore (l : LinkPort) : LinkPort := { l with errorScore := 0, goodFrames := 0 }

/-- A port reset by the link state (R8), with the clear backlog emptied (R120). -/
def resetPort (p : Port) (s : State) : State :=
  let s1 := s.setBacklog p []
  match (s.port p).link with
  | .disabled => moveLink p (fun l => enterDisabled (clearScore l)) s1
  | .down | .training | .up | .faulted => moveLink p (fun l => enterDown (clearScore l)) s1

/-- PORT_CONTROL RESET (R8, R174). -/
def portReset (port : Nat) (s : State) : Answer :=
  match index? 12 port with
  | none => answer .badIndex s
  | some p => answer .done (resetPort p s)

/-- PORT_RESET (R8). -/
def execPortReset (r : Requester) (port : Nat) (s : State) : Host.Outcome State Fault Refusal :=
  .next (manage r (portReset port) s)

end Sys2Proof.Machine
end

