-- ==== Sys2Proof/Machine/Transit.lean ====
section
/-! DEFINITION. The transit table (chapter 6): gating, release, drop, passage, arrival, cancellation and loss, and the meanings
of its frames, timers and messages. -/

namespace Sys2Proof.Machine

/-! ### Hop sets -/

/-- The set of every hop of a route of n hops. -/
def allHops (n : Nat) : HopSet := BitVec.ofNat 6 (2 ^ n - 1)

/-- The set of the hops of a route at port p (R112). -/
def hopsAt (p : Port) (route : List Hop) : HopSet :=
  (route.zipIdx.filter fun h => h.1.port == p).foldl (fun b h => addBit b h.2) 0

/-! ### GATE_CLEAR and the clear backlog (R110) -/

/-- A waiting GATE_CLEAR for the same gate takes the new tag and generation (R110). -/
def renewClear (c d : ClearFrame) : ClearFrame := if d.gate = c.gate then c else d

/-- A GATE_CLEAR made by a cancellation (R110). -/
def sendClear (p : Port) (c : ClearFrame) (s : State) : State :=
  let b := cell s.transit.backlog p
  if b.isEmpty then
    match offerAnswer s p with
    | .accepted => enqueue s p (.gateClear c)
    | .queueFull => s.setBacklog p [c]
    | .notUp => s
  else if b.any (fun d => d.gate == c.gate) then s.setBacklog p (b.map (renewClear c))
  else s.setBacklog p (b ++ [c])

/-- One GATE_CLEAR for each hop of a route, in hop order (R108, step 2). -/
def clearGates (t : Tag) (g : Gen) (route : List Hop) (s : State) : State :=
  route.foldl (fun st h => sendClear h.port ⟨t, g, h.gate⟩ st) s

/-! ### Cancellation, release of space and loss (R108, R115, R117, R118) -/

/-- The release notice of an entry in use (R95, R108). -/
def releaseOf (t : Tag) (g : Gen) (u : EntryUse) : Instr := .releaseNotice t g u.line u.pitch u.segments

/-- An entry sends its release notice and goes to FREE, its generation kept and its timer stopped (R108, R115, R117,
R118). -/
def freeEntry (t : Tag) (g : Gen) (u : EntryUse) (s : State) : State :=
  (s.setEntry t (.free g)).post (releaseOf t g u)

/-- An entry cancelled with no report (R108, steps 1 to 4). -/
def cancelEntry (t : Tag) (g : Gen) (u : EntryUse) (s : State) : State :=
  freeEntry t g u (clearGates t g u.route s)

/-- An entry cancelled with a gate fault report to its intake's context (R108, R109). -/
def cancelWithFault (t : Tag) (g : Gen) (u : EntryUse) (kind : GateFaultKind) (hops : HopSet) (s : State) : State :=
  (cancelEntry t g u s).post (.gateFault u.intake kind t g hops)

/-- An entry lost (R118). -/
def loseEntry (t : Tag) (g : Gen) (u : EntryUse) (kind : TransitFaultKind) (s : State) : State :=
  (freeEntry t g u s).post (.transitFault kind t g u.intake u.seq)

/-! ### Setting the gates (R104) -/

/-- The GATE_SET frames of a route offered in hop order from hop i. Answers the hop refused at its offer, if any: by the
port, or because its clear backlog is not empty (R104, R110). -/
def offerGates (t : Tag) (g : Gen) : Nat → List Hop → State → Option Nat × State
  | _, [], s => (none, s)
  | i, h :: hs, s =>
    if (cell s.transit.backlog h.port).isEmpty then
      match offerAnswer s h.port with
      | .accepted => offerGates t g (i + 1) hs (enqueue s h.port (.gateSet t g i h.gate h.position))
      | .queueFull => (some i, s)
      | .notUp => (some i, s)
    else (some i, s)

/-- Whether a transit entry is in GATING past AWAITING_RECORD. -/
def Entry.setting (e : Entry) : Bool :=
  e.state == .gating && (e.step == some .setting || e.step == some .releaseWait)

/-! ### Release (R107) -/

/-- A RELEASE of an entry in RELEASE_WAIT offered to the intake port (R107). -/
def offerRelease (t : Tag) (e : Entry) (u : EntryUse) (s : State) : State :=
  match offerAnswer s u.intake with
  | .accepted =>
    ((enqueue s u.intake (.release t e.gen u.seq)).setEntry t
      { e with state := .releaseSent, step := none, heldRelease := false, timer := stopTimer }).post
      (.gatesSetReport u.intake t e.gen)
  | .queueFull => s.setEntry t { e with step := some .releaseWait, heldRelease := true }
  | .notUp => s.setEntry t { e with step := some .releaseWait, heldRelease := false }

/-! ### Meanings -/

/-- CLAIM (R103): the entry takes the generation and the copies, and goes to GATING, AWAITING_RECORD. A claim that finds its
entry in use clears it first, with no frame, notice, report or fault. -/
def takeClaim (c : Claim) (s : State) : State :=
  s.setEntry c.tag
    { state := .gating, gen := c.gen, step := some .awaitingRecord
      use := some { intake := c.intake, seq := c.seq, line := c.line, route := c.route, segments := c.segments,
                    pitch := c.pitch, limit := c.limit, ack := 0, refusal := 0 }
      record := none, hopIndex := none, heldRelease := false, timer := none }

/-- CLAIM (R103). -/
def execClaim (c : Claim) (s : State) : Host.Outcome State Fault Refusal := .next (takeClaim c s)

/-- CONTAINER_RECORD (R104): taken in AWAITING_RECORD with the same generation; any other record is ignored. A hop refused at
its offer cancels the entry with fault 12 in the same event. -/
def takeRecord (t : Tag) (g : Gen) (r : ContainerRecord) (s : State) : State :=
  let e := s.entry t
  match e.use with
  | none => s
  | some u =>
    if e.state = .gating ∧ e.step = some .awaitingRecord ∧ e.gen = g then
      let o := offerGates t g 0 u.route s
      match o.1 with
      | none => o.2.setEntry t { e with step := some .setting, record := some r.cargo, timer := startTimer s.mgmt.timers.gateAck }
      | some i => cancelWithFault t g u .refused (addBit u.refusal i) o.2
    else s

/-- CONTAINER_RECORD (R104). -/
def execContainerRecord (t : Tag) (g : Gen) (r : ContainerRecord) (s : State) : Host.Outcome State Fault Refusal :=
  .next (takeRecord t g r s)

/-- Whether a GATE_ACK from port p names a hop of the entry at that port (R105). -/
def ackNamesHop (u : EntryUse) (p : Port) (h : HopIx) : Bool :=
  match u.route[h.val]? with
  | none => false
  | some x => x.port == p

/-- A GATE_ACK that is not stale (R106). -/
def takeAck (t : Tag) (e : Entry) (u : EntryUse) (h : HopIx) (result : GateResult) (s : State) : State :=
  match result with
  | .normal =>
    if hasBit u.ack h.val then s
    else
      let u1 := { u with ack := addBit u.ack h.val }
      let e1 := { e with use := some u1 }
      if u1.ack = allHops u.route.length then offerRelease t e1 u1 s else s.setEntry t e1
  | .jammed | .conflict | .busy => cancelWithFault t e.gen u .refused (addBit u.refusal h.val) s

/-- GATE_ACK (R105, R106). -/
def gateAck (p : Port) (t : Tag) (g : Gen) (h : HopIx) (result : GateResult) (s : State) : State :=
  let e := s.entry t
  match e.use with
  | none => s.request .staleFrame
  | some u =>
    if e.gen = g ∧ e.setting = true ∧ ackNamesHop u p h = true then takeAck t e u h result s else s.request .staleFrame

/-- GATE_ACK (R105, R106). -/
def execGateAck (p : Port) (t : Tag) (g : Gen) (h : HopIx) (result : GateResult) (s : State) :
    Host.Outcome State Fault Refusal :=
  .next (gateAck p t g h result s)

/-- The gate acknowledgement timer's expiry (R109): the entry is cancelled with fault 13 and the hops not in the ack set. -/
def gateAckExpiry (t : Tag) (s : State) : State :=
  let e := s.entry t
  match e.use with
  | none => s
  | some u =>
    if e.setting = true ∧ e.timer.isSome = true then
      cancelWithFault t e.gen u .timeout (allHops u.route.length &&& ~~~u.ack) s
    else s

/-- GATE_ACK_TIMER_EXPIRY (R109). A stopped timer does not expire (R177). -/
def execGateAckTimerExpiry (t : Tag) (s : State) : Host.Outcome State Fault Refusal := .next (gateAckExpiry t s)

/-- CANCEL_REQUEST (R111): an entry in GATING or RELEASE_SENT of that generation is cancelled with no report. -/
def cancelRequest (t : Tag) (g : Gen) (s : State) : State :=
  let e := s.entry t
  match e.use with
  | none => s
  | some u => if (e.state = .gating ∨ e.state = .releaseSent) ∧ e.gen = g then cancelEntry t g u s else s

/-- CANCEL_REQUEST (R111). -/
def execCancelRequest (t : Tag) (g : Gen) (s : State) : Host.Outcome State Fault Refusal := .next (cancelRequest t g s)

/-- FREE_REQUEST (R115): an entry in RELEASE_SENT of that generation is freed without credit and without GATE_CLEAR. -/
def freeRequest (t : Tag) (g : Gen) (s : State) : State :=
  let e := s.entry t
  match e.use with
  | none => s
  | some u => if e.state = .releaseSent ∧ e.gen = g then freeEntry t g u s else s

/-- FREE_REQUEST (R115). -/
def execFreeRequest (t : Tag) (g : Gen) (s : State) : Host.Outcome State Fault Refusal := .next (freeRequest t g s)

/-- One entry at a sorter port's departure from UP (R112). -/
def sorterDownEntry (p : Port) (s : State) (t : Tag) : State :=
  let e := s.entry t
  match e.use with
  | none => s
  | some u =>
    if e.setting = true ∧ u.route.any (fun h => h.port == p) = true then
      cancelWithFault t e.gen u .refused (u.refusal ||| hopsAt p u.route) s
    else s

/-- SORTER_DOWN_REPORT (R112): every entry with a hop at the port takes it, the lowest tag first (log entry 42). -/
def execSorterDownReport (p : Port) (s : State) : Host.Outcome State Fault Refusal :=
  .next ((indices 64).foldl (sorterDownEntry p) s)

/-- Whether an entry is in RELEASE_SENT for a container of an intake (R113). -/
def releasedBy (s : State) (p : Port) (seq : Byte) (t : Tag) : Bool :=
  (s.entry t).state == .releaseSent &&
    match (s.entry t).use with
    | none => false
    | some u => u.intake == p && u.seq == seq

/-- A drop taken by an entry in RELEASE_SENT (R114): MOVING, the posting, the flag clear, the drop report, the timer. -/
def takeDrop (t : Tag) (e : Entry) (u : EntryUse) (r : Cargo) (s : State) : State :=
  let s1 := s.setEntry t { e with state := .moving, hopIndex := some 0, timer := startTimer u.limit }
  let s2 := s1.post (.posting { intake := u.intake, seq := u.seq, tag := t, credit := r.credit, kept := r.kept })
  (s2.post (.flagClear u.intake)).post (.dropReport u.intake t e.gen)

/-- The record of an entry; an entry past AWAITING_RECORD always holds one (R102). -/
def Entry.container (e : Entry) : Cargo := e.record.getD ⟨0, false, ⟨0, [], []⟩⟩

/-- DROPPED (R113): matched to the intake's entry in RELEASE_SENT with the same chamber seq, or stale. -/
def dropped (p : Port) (seq : Byte) (s : State) : State :=
  match (indices 64).find? (releasedBy s p seq) with
  | none => s.request .staleFrame
  | some t =>
    match (s.entry t).use with
    | none => s.request .staleFrame
    | some u => takeDrop t (s.entry t) u (s.entry t).container s

/-- DROPPED (R113, R114). -/
def execDropped (p : Port) (seq : Byte) (s : State) : Host.Outcome State Fault Refusal := .next (dropped p seq s)

/-- The first remaining hop, from index i on, at a sorter port and gate (R116). -/
def matchHop (p : Port) (gate : Gate) : Nat → List Hop → Option Nat
  | _, [] => none
  | i, h :: hs => if h.port = p ∧ h.gate = gate then some i else matchHop p gate (i + 1) hs

/-- PASSAGE (R105, R116). -/
def passage (p : Port) (t : Tag) (g : Gen) (gate : Gate) (s : State) : State :=
  let e := s.entry t
  match e.use with
  | none => s.request .staleFrame
  | some u =>
    if e.state = .moving ∧ e.gen = g then
      let i := e.hopIndex.getD 0
      match matchHop p gate i (u.route.drop i) with
      | some k => s.setEntry t { e with hopIndex := some (k + 1) }
      | none => loseEntry t g u .misroute s
    else s.request .staleFrame

/-- PASSAGE (R116). -/
def execPassage (p : Port) (t : Tag) (g : Gen) (gate : Gate) (s : State) : Host.Outcome State Fault Refusal :=
  .next (passage p t g gate s)

/-- ARRIVAL (R105, R117): from the bin port of the entry's line it delivers the container, from another it loses it. -/
def arrival (p : Port) (t : Tag) (g : Gen) (s : State) : State :=
  let e := s.entry t
  match e.use with
  | none => s.request .staleFrame
  | some u =>
    if e.state = .moving ∧ e.gen = g then
      if (s.line u.line).record.binPort = p then freeEntry t g u s else loseEntry t g u .misroute s
    else s.request .staleFrame

/-- ARRIVAL (R117). -/
def execArrival (p : Port) (t : Tag) (g : Gen) (s : State) : Host.Outcome State Fault Refusal := .next (arrival p t g s)

/-- The transit timer's expiry in MOVING loses the entry (R119). -/
def transitExpiry (t : Tag) (s : State) : State :=
  let e := s.entry t
  match e.use with
  | none => s
  | some u => if e.state = .moving ∧ e.timer.isSome = true then loseEntry t e.gen u .lost s else s

/-- TRANSIT_TIMER_EXPIRY (R119). A stopped timer does not expire (R177). -/
def execTransitTimerExpiry (t : Tag) (s : State) : Host.Outcome State Fault Refusal := .next (transitExpiry t s)

/-- The RELEASE an entry holds, offered again at a notice of a free place on the intake port (R107). -/
def reofferRelease (p : Port) (s : State) (t : Tag) : State :=
  let e := s.entry t
  match e.use with
  | none => s
  | some u => if e.heldRelease = true ∧ u.intake = p then offerRelease t e u s else s

/-- The clear backlog of a port offered at a notice of a free place (R110). -/
def offerBacklog (p : Port) (s : State) : State :=
  let r := offerList .gateClear p (cell s.transit.backlog p) s
  r.2.setBacklog p r.1

end Sys2Proof.Machine
end

