-- ==== Sys2Proof/Machine/Dispatcher.lean ====
section
/-! DEFINITION. The frame dispatcher (chapter 2) and the owners' waiting frames: the meanings of FRAME_DISPATCH, PASS and
PLACE_FREE. -/

namespace Sys2Proof.Machine

/-! ### Pass-through frames (R29, R31) -/

/-- A frame discarded with a condition (R25). -/
def refuse (p : Port) (c : Condition) (s : State) : State := dropHead p (s.request c)

/-- Whether an address names a port whose role is CONTROLLER (R31). -/
def namesController (s : State) (d : Fin 16) : Bool :=
  match index? 12 d.val with
  | none => false
  | some q => s.role q == .controller

/-- A PASS decided by its source and its destination (R29, R31). -/
def decidePass (p : Port) (f : RxFrame) (s : State) : State :=
  if s.role p = .controller then
    if f.dst = Config.switchAddress then refuse p .kindRefused s else offerPass p f s
  else if namesController s f.dst then offerPass p f s
  else refuse p .kindRefused s

/-! ### Management requests (R172, R175) -/

/-- A MGMT_REQ with a payload: held at the head while the management unit does not take it; taken, it leaves the queue and is
judged for its form, and then goes to its owner block (R172, R175). A malformed article operation is answered with the count
(R36). -/
def takeRequest (p : Port) (f : RxFrame) (s : State) : State :=
  if takesRequest s p then
    let s1 := dropHead p s
    let s2 := s1.setSlot p { s1.slot p with carried := .carrying }
    match requestOf ⟨p, f.tag⟩ f.payload with
    | .refused st => placeReply ⟨p, f.tag⟩ st (refusalData f.payload s2) s2
    | .command i => s2.post i
  else s

/-! ### FRAME_DISPATCH (R25) -/

/-- A frame addressed to the switch that its source role may send (R25, tests 6 and 7). -/
def handOver (p : Port) (k : Kind) (f : RxFrame) (s : State) : State :=
  if k = .mgmtReq then
    if f.payload.isEmpty then refuse p .kindRefused s else takeRequest p f s
  else
    match stationCommand p k f with
    | none => refuse p .kindRefused s
    | some i => (dropHead p s).post i

/-- The tests of R25 on the head frame, in order. -/
def decideFrame (p : Port) (f : RxFrame) (s : State) : State :=
  match kindOf f.kind with
  | none => refuse p .kindRefused s
  | some k =>
    if k = .mgmtReq ∧ s.role p ≠ .controller then refuse p .mgmtForeign s
    else if k = .pass then decidePass p f s
    else if f.dst ≠ Config.switchAddress then refuse p .kindRefused s
    else if k ∈ acceptedKinds (s.role p) then handOver p k f s
    else refuse p .kindRefused s

/-- FRAME_DISPATCH: the head of port p's receive queue is decided, unless the dispatcher holds it (R24, R25). -/
def dispatchFrame (p : Port) (s : State) : State :=
  match (s.port p).rx, (s.port p).held with
  | f :: _, none => decideFrame p f s
  | _, _ => s

/-- FRAME_DISPATCH (R25). -/
def execFrameDispatch (p : Port) (s : State) : Host.Outcome State Fault Refusal := .next (dispatchFrame p s)

/-- PASS: the PASS at the head of port p's receive queue is decided, or, when it is held, offered again (R28). -/
def passFrame (p : Port) (s : State) : State :=
  match (s.port p).rx, (s.port p).held with
  | f :: _, none => if kindOf f.kind = some .pass then decidePass p f s else s
  | _, _ => reoffer p s

/-- PASS (R28). -/
def execPass (p : Port) (s : State) : Host.Outcome State Fault Refusal := .next (passFrame p s)

/-! ### PLACE_FREE (R14) -/

/-- The TALLY owed is built and offered (R122). -/
def offerOwedTally (p : Port) (s : State) : State :=
  match s.session p with
  | none => s
  | some x => if x.owed then offerTally p s else s

/-- A send owed is made (R141). -/
def sendOwed (p : Port) (s : State) : State :=
  match s.unit p with
  | none => s
  | some u => if u.sendOwed then sendHead p s else s

/-- The voucher reports of a controller port offered in order (R147). -/
def offerVoucherReports (p : Port) (s : State) : State :=
  let r := offerList .voucherReport p (cell s.vouchers.reports p) s
  { r.2 with vouchers := { r.2.vouchers with reports := put r.2.vouchers.reports p r.1 } }

/-- The fault reports of a controller port offered in order (R160). -/
def offerFaultReports (p : Port) (s : State) : State :=
  let r := offerList .faultReport p (cell s.faults.reports p) s
  { r.2 with faults := { r.2.faults with reports := put r.2.faults.reports p r.1 } }

/-- The held RELEASE and the clear backlog for port p offered (R107, R110), the RELEASE first where there are both (log entry
50). -/
def offerTransit (p : Port) (s : State) : State := offerBacklog p ((indices 64).foldl (reofferRelease p) s)

/-- PLACE_FREE: an owner takes the notice that a place is free on port p and offers again (R14). -/
def placeFree (p : Port) (o : Owner) (s : State) : State :=
  match o with
  | .dispatcher q => if waitsFor s p q then reoffer q s else s
  | .management => offerReplies p s
  | .admission => offerOutbound p s
  | .transit => offerTransit p s
  | .tally => offerOwedTally p s
  | .counter => sendOwed p s
  | .voucherReports => offerVoucherReports p s
  | .faultReports => offerFaultReports p s

/-- PLACE_FREE (R14). -/
def execPlaceFree (p : Port) (o : Owner) (s : State) : Host.Outcome State Fault Refusal := .next (placeFree p o s)

end Sys2Proof.Machine
end

