-- ==== Sys2Proof/Machine/Management.lean ====
section
/-! DEFINITION. The management requests on the timer, pitch, line, segment and disposition tables, line and counter control,
and the reads of tables and of working state (chapters 5, 8, 9 and 11). -/

namespace Sys2Proof.Machine

/-! ### READ_ENTRY (R174) -/

/-- A read of one entry of a table of n entries: an index outside it is BAD_INDEX (R175). -/
def readAt (n index : Nat) (data : Fin n → ReplyData) (s : State) : Answer :=
  match index? n index with
  | none => answer .badIndex s
  | some i => ⟨.done, data i, s⟩

/-- READ_ENTRY by the table's code (R174); a code above 12 names no table. -/
def readEntry (table index : Nat) (s : State) : Answer :=
  match table with
  | 0 => readAt 12 index (fun p =>
      let l := s.port p
      .port l.entry l.stationCode l.link l.errorScore) s
  | 1 => readAt 4 index (fun i => .timer (timerValue s.mgmt.timers i)) s
  | 2 => readAt 6 index (fun i => .material (cell s.catalogue.allowances i)) s
  | 3 => readAt 5 index (fun i => .pitch (cell s.lines.pitches i)) s
  | 4 => readAt 32 index (fun i => .cls (cell s.catalogue.classes i)) s
  | 5 => readAt 4 index (fun i => .rate (cell s.catalogue.rates i)) s
  | 6 => readAt 8 index (fun i => .line (s.line i)) s
  | 7 => readAt 12 index (fun i => .segment (cell s.lines.segments i)) s
  | 8 => readAt 32 index (fun i => .disposition (cell s.faults.dispositions i)) s
  | 9 => readAt 8 index (fun i => .sense (cell s.cond.sense i)) s
  | 10 => readAt 8 index (fun i => .output (cell s.cond.outputs i) (cell s.cond.high i)) s
  | 11 => readAt 1 index (fun _ => .conditions s.cond.mask) s
  | 12 => lockRead index s
  | _ => answer .badTable s

/-- READ_ENTRY (R174). -/
def execReadEntry (r : Requester) (table index : Nat) (s : State) : Host.Outcome State Fault Refusal :=
  .next (manage r (readEntry table index) s)

/-! ### Table writes -/

/-- A write of a timer value, clamped to its range (R176). -/
def timerWrite (index value : Nat) (s : State) : Answer :=
  match index? 4 index with
  | none => answer .badIndex s
  | some i =>
    let v := clampTimer i value
    answer (clampStatus (v != value)) { s with mgmt := { s.mgmt with timers := setTimerValue s.mgmt.timers i v } }

/-- TIMER_WRITE (R176). -/
def execTimerWrite (r : Requester) (index value : Nat) (s : State) : Host.Outcome State Fault Refusal :=
  .next (manage r (timerWrite index value) s)

/-- A write of a pitch of 1 to 15, the index judged first, as R90 tells it (log entry 56). -/
def pitchWrite (index value : Nat) (s : State) : Answer :=
  match index? 5 index with
  | none => answer .badIndex s
  | some i =>
    if value = 0 ∨ 15 < value then answer .badValue s
    else answer .done { s with lines := { s.lines with pitches := put s.lines.pitches i value } }

/-- PITCH_WRITE (R90). -/
def execPitchWrite (r : Requester) (index value : Nat) (s : State) : Host.Outcome State Fault Refusal :=
  .next (manage r (pitchWrite index value) s)

/-- A write of a segment capacity, clamped to 255 and followed by a walk of the hold queue (R91). -/
def segmentWrite (index capacity : Nat) (s : State) : Answer :=
  match index? 12 index with
  | none => answer .badIndex s
  | some i =>
    let g := { cell s.lines.segments i with capacity := clamp 0 255 capacity }
    answer (clampStatus (255 < capacity)) (walk { s with lines := { s.lines with segments := put s.lines.segments i g } })

/-- SEGMENT_WRITE (R91). -/
def execSegmentWrite (r : Requester) (index capacity : Nat) (s : State) : Host.Outcome State Fault Refusal :=
  .next (manage r (segmentWrite index capacity) s)

/-- A disposition as written at an index: at 18 and 19 the report flag alone is written (R150). -/
def writtenDisposition (i : FaultNo) (old new : Disposition) : Disposition :=
  if i = 18 ∨ i = 19 then { old with report := new.report } else new

/-- A write of a disposition entry decided by the tests of R150. -/
def dispositionWrite (index : Nat) (x : DispositionFields) (s : State) : Answer :=
  match index? 32 index with
  | none => answer .badIndex s
  | some i =>
    match dispositionOf x with
    | none => answer .badValue s
    | some d =>
      answer .done { s with faults := { s.faults with
        dispositions := put s.faults.dispositions i (writtenDisposition i (cell s.faults.dispositions i) d) } }

/-- DISPOSITION_WRITE (R150). -/
def execDispositionWrite (r : Requester) (index : Nat) (x : DispositionFields) (s : State) :
    Host.Outcome State Fault Refusal :=
  .next (manage r (dispositionWrite index x) s)

/-! ### Line records (R82, R83) and LINE_CONTROL (R88) -/

/-- The last fill and FILL_FULL after a record write (R83, step 1). -/
def refill (l : Line) (r : LineRecord) : Line :=
  if l.record.binPort ≠ r.binPort then { l with lastFill := 0, causes := { l.causes with fillFull := false } }
  else if l.record.nearFull ≠ r.nearFull ∨ l.record.full ≠ r.full then
    { l with causes := { l.causes with fillFull := fillFullAfter r l.lastFill l.causes.fillFull } }
  else l

/-- Every hold queue entry of line l takes the line's segment list (R83, step 3). -/
def renewSegments (l : LineIx) (s : State) : State :=
  withQueue s (s.lines.holdQueue.map fun e => if e.line = l then { e with segments := (s.line l).record.segments } else e)

/-- An accepted line record write, with the five steps of R83. -/
def applyLine (l : LineIx) (r : LineRecord) (s : State) : State :=
  let x := { refill (s.line l) r with record := r }
  let s1 := s.setLine l x
  let s2 := renewSegments l (withCauses l (judgedCauses s1 x) s1)
  walk (reselect l (fun e => !usable (s2.line l) || !accepts (s2.line l) e.material) s2)

/-- A write of a line record decided by the tests of R82. -/
def lineWrite (index : Nat) (x : LineFields) (s : State) : Answer :=
  match index? 8 index with
  | none => answer .badIndex s
  | some l =>
    match lineRecordOf l x with
    | none => answer .badValue s
    | some r =>
      if 0 < (s.line l).live then answer .notAllowed s
      else answer (clampStatus (r.transitLimit != x.transitLimit)) (applyLine l r s)

/-- LINE_WRITE (R82, R83). -/
def execLineWrite (r : Requester) (index : Nat) (x : LineFields) (s : State) : Host.Outcome State Fault Refusal :=
  .next (manage r (lineWrite index x) s)

/-- LINE_CONTROL: the enable field, MGMT_DISABLED to match, and the state derived again (R88). -/
def lineControl (line : Nat) (enabled : Bool) (s : State) : Answer :=
  match index? 8 line with
  | none => answer .badIndex s
  | some l =>
    let x := s.line l
    answer .done (rederive l (s.setLine l { x with
      enabled := enabled, causes := { x.causes with mgmtDisabled := !enabled } }))

/-- LINE_ENABLE (R88). -/
def execLineEnable (r : Requester) (line : Nat) (s : State) : Host.Outcome State Fault Refusal :=
  .next (manage r (lineControl line true) s)

/-- LINE_DISABLE (R88). -/
def execLineDisable (r : Requester) (line : Nat) (s : State) : Host.Outcome State Fault Refusal :=
  .next (manage r (lineControl line false) s)

/-! ### COUNTER_RESUME (R144) -/

/-- COUNTER_RESUME decided by the port, its role and its unit (R144). -/
def counterResume (port : Nat) (s : State) : Answer :=
  match index? 12 port with
  | none => answer .badIndex s
  | some p =>
    if s.role p ≠ .counter then answer .notAllowed s
    else
      match s.unit p with
      | none => answer .notAllowed s
      | some u => if u.state = .offline then answer .notAllowed s else answer .done (resumeUnit p s)

/-- COUNTER_RESUME (R144). -/
def execCounterResume (r : Requester) (port : Nat) (s : State) : Host.Outcome State Fault Refusal :=
  .next (manage r (counterResume port) s)

/-! ### READ_STATE (R178) -/

/-- The parts of a session (R178): the record, and its class count list in two halves. -/
def sessionPart (x : Session) : Nat → Option ReplyData
  | 0 => some (.session x)
  | 1 => some (.classCounts (x.classes.take 16) x.classes.length)
  | 2 => some (.classCounts (x.classes.drop 16) x.classes.length)
  | _ => none

/-- The parts of a transit entry (R178): a FREE entry gives FREE and its generation whichever part is asked for. -/
def entryPart (e : Entry) : Nat → Option ReplyData
  | 0 => some (.entryState e)
  | 1 => some (if e.state = .free then .entryState e else .entryRoute e)
  | 2 => some (if e.state = .free then .entryState e else .entryCredit e)
  | _ => none

/-- READ_STATE of a session (R121, R178). -/
def readSession (index part : Nat) (s : State) : Answer :=
  match index? 12 index with
  | none => answer .badIndex s
  | some p =>
    if 2 < part then answer .badIndex s
    else if s.role p ≠ .intake then answer .notAllowed s
    else
      match s.session p with
      | none => answer .notAllowed s
      | some x =>
        match sessionPart x part with
        | none => answer .badIndex s
        | some d => ⟨.done, d, s⟩

/-- READ_STATE of an admission context (R57, R178). -/
def readContext (index part : Nat) (s : State) : Answer :=
  match index? 12 index with
  | none => answer .badIndex s
  | some p =>
    if part ≠ 0 then answer .badIndex s
    else if s.role p ≠ .intake then answer .notAllowed s
    else
      match s.context p with
      | none => answer .notAllowed s
      | some c => ⟨.done, .context c, s⟩

/-- READ_STATE of a last error record (R161, R178). -/
def readErrorRecord (index part : Nat) (s : State) : Answer :=
  match index? 12 index with
  | none => answer .badIndex s
  | some p =>
    if part ≠ 0 then answer .badIndex s
    else if s.role p ≠ .intake then answer .notAllowed s
    else
      match s.faultContext p with
      | none => answer .notAllowed s
      | some c =>
        match c.last with
        | none => answer .notFound s
        | some e => ⟨.done, .errorRecord e, s⟩

/-- READ_STATE of a transit entry (R102, R178). -/
def readTransit (index part : Nat) (s : State) : Answer :=
  match index? 64 index with
  | none => answer .badIndex s
  | some t =>
    match entryPart (s.entry t) part with
    | none => answer .badIndex s
    | some d => ⟨.done, d, s⟩

/-- READ_STATE of the hold queue: a position at or beyond the length gives BAD_INDEX with the length (R96, R178). -/
def readHoldQueue (index part : Nat) (s : State) : Answer :=
  if index ≠ 0 then answer .badIndex s
  else
    match s.lines.holdQueue[part]? with
    | none => ⟨.badIndex, .length s.lines.holdQueue.length, s⟩
    | some e => ⟨.done, .holdEntry s.lines.holdQueue.length e, s⟩

/-- READ_STATE of a voucher queue (R136, R178): a position up to the length gives the counter unit state and the length, with
the record that stands there; the position at the length has none (log entry 59), so an empty queue shows its unit. One beyond
the length, or above 7, gives BAD_INDEX with the length. -/
def readVoucherQueue (index part : Nat) (s : State) : Answer :=
  match index? 12 index with
  | none => answer .badIndex s
  | some p =>
    if s.role p ≠ .counter then answer .notAllowed s
    else
      match s.unit p with
      | none => answer .notAllowed s
      | some u =>
        if u.queue.length < part ∨ Config.voucherPlaces ≤ part then ⟨.badIndex, .length u.queue.length, s⟩
        else ⟨.done, .voucher u.state u.queue.length u.queue[part]?, s⟩

/-- READ_STATE of a segment (R91, R178). -/
def readSegment (index part : Nat) (s : State) : Answer :=
  if part ≠ 0 then answer .badIndex s else readAt 12 index (fun g => .segment (cell s.lines.segments g)) s

/-- READ_STATE by the target's code (R178); a code above 6 names no target. -/
def readState (target index part : Nat) (s : State) : Answer :=
  match target with
  | 0 => readSession index part s
  | 1 => readContext index part s
  | 2 => readErrorRecord index part s
  | 3 => readTransit index part s
  | 4 => readHoldQueue index part s
  | 5 => readVoucherQueue index part s
  | 6 => readSegment index part s
  | _ => answer .badTable s

/-- READ_STATE (R178). -/
def execReadState (r : Requester) (target index part : Nat) (s : State) : Host.Outcome State Fault Refusal :=
  .next (manage r (readState target index part) s)

end Sys2Proof.Machine
end

