-- ==== Sys2Proof/Machine/Reports.lean ====
section
/-! DEFINITION. The state reports of the admission contexts (R56), as the tally, fault and condition units take them: the
meaning of STATE_REPORT, with the lockout and shutdown of the fault unit. -/

namespace Sys2Proof.Machine

/-- INTAKE_LOCKED is asked for at a report of LOCKED from another reported state (R155). -/
def lockReport (before now : CtxState) (s : State) : State :=
  if now = .locked ∧ before ≠ .locked then s.request .intakeLocked else s

/-- A report of STOPPED with reason SHUTDOWN: admin enable disabled is written to the port entry, and INTAKE_SHUTDOWN is
asked for (R156). -/
def shutdownReport (p : Port) (now : CtxState) (reason : Option StopReason) (s : State) : State :=
  if now = .stopped ∧ reason = some .shutdown then
    (applyEntry p { (s.port p).entry with enabled := false } s).request .intakeShutdown
  else s

/-- The fault unit's part of a state report (R152, R155, R156). -/
def faultReportState (p : Port) (x : CtxState) (reason : Option StopReason) (seq : Option Byte) (s : State) : State :=
  match s.faultContext p with
  | none => s
  | some c =>
    let s1 := s.setFaultContext p (some { c with reported := x, seq := seq })
    shutdownReport p x reason (lockReport c.reported x s1)

/-- STATE_REPORT: the tally unit, the fault unit and the condition unit each take the report (R56, R131, R152, R167). -/
def stateReport (p : Port) (x : CtxState) (reason : Option StopReason) (seq : Option Byte) (s : State) : State :=
  evalOutputs (setReported p x (faultReportState p x reason seq (tallyReport p x s)))

/-- STATE_REPORT (R56). -/
def execStateReport (p : Port) (x : CtxState) (reason : Option StopReason) (seq : Option Byte) (s : State) :
    Host.Outcome State Fault Refusal :=
  .next (stateReport p x reason seq s)

end Sys2Proof.Machine
end

