-- ==== Sys2Proof/Machine/Encode.lean ====
section
/-! DEFINITION. The bytes of the frames the switch sends: the header of R19, the payloads of sections 2.2 and 2.3, and the
fields of a MGMT_REPLY coded by R173. -/

namespace Sys2Proof.Machine

/-! ### Numbers, codes and optional parts (R20, R173) -/

/-- A 1-byte number. -/
def put1 (n : Nat) : List Byte := [BitVec.ofNat 8 n]
/-- A 2-byte number, most significant byte first. -/
def put2 (n : Nat) : List Byte := [BitVec.ofNat 8 (n / 256), BitVec.ofNat 8 n]
/-- A 3-byte number, most significant byte first. -/
def put3 (n : Nat) : List Byte := [BitVec.ofNat 8 (n / 65536), BitVec.ofNat 8 (n / 256), BitVec.ofNat 8 n]
/-- A signed 2-byte number in two's complement (R173). -/
def putTare (n : Int) : List Byte := twoBytes (BitVec.ofInt 16 n)
/-- An article code, 6 bytes (R173). -/
def putCode (c : ArticleCode) : List Byte := put3 (c.toNat / 16777216) ++ put3 (c.toNat % 16777216)
/-- A 128-bit code, 16 bytes (R173). -/
def putKey (k : Key) : List Byte := (List.range 16).map fun i => k.extractLsb' (8 * (15 - i)) 8
/-- A flag: 1 set, 0 clear (R173). -/
def putFlag (b : Bool) : List Byte := [if b then 1 else 0]
/-- The position of a value in its list (R20). -/
def putName {α : Type} [DecidableEq α] (names : List α) (x : α) : List Byte := put1 (codeOf names x)
/-- A field that may be NONE, coded 255 (R173). -/
def putOptional {n : Nat} : Option (Fin n) → List Byte
  | none => [255]
  | some i => put1 i.val
/-- An optional part: its presence flag, then the part (R173). -/
def putPart {α : Type} (part : α → List Byte) : Option α → List Byte
  | none => [0]
  | some x => 1 :: part x
/-- A list: its count, then its items (R173). -/
def putList {α : Type} (item : α → List Byte) (xs : List α) : List Byte := put1 xs.length ++ xs.flatMap item
/-- The four values of a per-scheme table, 3 bytes each. -/
def putSchemes (v : Vector Nat 4) : List Byte := put3 (cell v 0) ++ put3 (cell v 1) ++ put3 (cell v 2) ++ put3 (cell v 3)

/-! ### The lists whose positions are codes (R20) -/

/-- The reasons of a HOLD in order (section 2.2). -/
def holdReasons : List HoldReason := [.lineBusy, .roomStop, .counterBusy]
/-- The reasons of an INTAKE_STOP in order (section 2.2). -/
def stopFrameReasons : List StopFrameReason := [.start, .mgmt, .locked, .shutdown]
/-- The stop reasons in order (R57). -/
def stopReasons : List StopReason := [.start, .mgmt, .shutdown]
/-- The pause reasons in order (R57). -/
def pauseReasons : List PauseReason := [.roomStop, .counterBusy]
/-- The context states in order (R57). -/
def ctxStates : List CtxState := [.stopped, .idle, .holding, .paused, .gating, .releasing, .returning, .locked]
/-- The session states in order (section 2.2). -/
def sessionStates : List SessionState := [.idle, .opened, .closePending, .closingWait]
/-- The entry states in order (R102). -/
def entryStates : List EntryState := [.free, .gating, .releaseSent, .moving]
/-- The gating steps in order (R102). -/
def gatingSteps : List GatingStep := [.awaitingRecord, .setting, .releaseWait]
/-- The counter unit states in order (section 8.4). -/
def unitStates : List UnitState := [.offline, .ready, .busy, .paused, .stalled]
/-- The record states in order (R136). -/
def recordStates : List RecordState := [.queued, .sent]
/-- The line states in order (R81). -/
def lineStates : List LineState := [.opened, .nearFull, .closed, .disabled]
/-- The link states in order (section 1.2). -/
def linkStates : List LinkState := [.disabled, .down, .training, .up, .faulted]
/-- The lock states in order (R49). -/
def lockStates : List LockState := [.locked, .opened]
/-- The fault kinds in order (section 2.3). -/
def faultKinds : List FaultKind := [.reject, .note, .abort, .transit]
/-- The tables of an error record in order (section 2.3). -/
def errorTables : List ErrorTable := [.none, .article, .cls, .line, .segment, .transit, .disposition]
/-- The reply statuses in order (R175). -/
def statuses : List Status :=
  [.done, .doneClamped, .badTable, .badIndex, .badValue, .locked, .refused, .tableFull, .duplicate, .notFound, .notAllowed,
   .busy]

/-! ### Records -/

/-- The code of a sense function, 255 for NONE (R173), and its line byte (R163, log entry 9). -/
def putSense (f : SenseFunction) : List Byte :=
  match f with
  | .none => [255, 0]
  | .binFull l => 1 :: put1 l.val
  | .roomStop => [2, 0]

/-- The code of an output function and its line or port byte (R166, log entry 9). -/
def putOutput (f : OutputFunction) : List Byte :=
  match f with
  | .manual => [0, 0]
  | .lineOpen l => 1 :: put1 l.val
  | .intakeReady p => 2 :: put1 p.val
  | .anyCondition => [3, 0]

/-- The written fields of a port entry (R1). -/
def putPortEntry (e : PortEntry) : List Byte :=
  putName roles e.role ++ putName enables e.enabled ++ putOptional e.counterPort ++ put3 e.creditLimit ++ putTare e.tare ++
    put2 e.holdLimit

/-- A hop: sorter port, gate, position (R173). -/
def putHop (h : Hop) : List Byte := put1 h.port.val ++ put1 h.gate.val ++ putName positions h.position

/-- The fields of a line record after its two lists (R81). -/
def putLineTail (r : LineRecord) : List Byte :=
  put1 r.binPort.val ++ putOptional r.overflow ++ [r.materials.setWidth 8] ++ put1 r.nearFull ++ put1 r.full ++
    put2 r.transitLimit

/-- A cause set, MGMT_DISABLED at bit 0 and the others in the order of R84 (R173). -/
def putCauses (c : Causes) : List Byte :=
  put1 (c.mgmtDisabled.toNat + 2 * c.binFullSense.toNat + 4 * c.fillFull.toNat + 8 * c.binDown.toNat +
    16 * c.routeDown.toNat)

/-- A line as READ_ENTRY returns it: the record, the enable field and the kept fields (R81). -/
def putLine (l : Line) : List Byte :=
  putList putHop l.record.route ++ putList (fun g => put1 g.val) l.record.segments ++ putLineTail l.record ++
    putName enables l.enabled ++ putCauses l.causes ++ put1 l.lastFill ++ putName lineStates l.state ++ put1 l.live

/-- An article entry: its fields in the order of R34, the three flags in one byte, and the crate part of a CRATE. -/
def putArticle (e : ArticleEntry) : List Byte :=
  putCode e.code ++ put1 e.depositClass.val ++ putName materials e.material ++ putName shapes e.shape ++ put2 e.weightMin ++
    put2 e.weightMax ++ put1 e.line.val ++
    put1 (e.active.toNat + 2 * e.markRequired.toNat + 4 * e.refillable.toNat) ++
    match e.crate with
    | none => []
    | some k => put1 k.contentClass.val ++ put1 k.capacity ++ put2 k.bottleMin ++ put2 k.bottleMax

/-- A disposition (R150). -/
def putDisposition (d : Disposition) : List Byte :=
  putName actions d.action ++ put1 d.keepLine.val ++ putName faultClasses d.cls ++ putFlag d.report

/-- A tariff class: deposit and scheme (R45). -/
def putClass (c : TariffClass) : List Byte := put2 c.deposit ++ put1 c.scheme.val

/-- A voucher record without its state (section 2.3, R22). -/
def putVoucher (r : VoucherRecord) : List Byte :=
  put2 r.number.val ++ put1 r.intake.val ++ putSchemes r.subtotals ++ putSchemes r.bonuses ++ put3 r.total ++
    put2 r.containers ++ put2 r.kept

/-- A container's credit, split and class counts, each pair in order (R63, R173). -/
def putCredit (c : ContainerCredit) : List Byte :=
  put3 c.credit ++ putList (fun x => put1 x.1.val ++ put3 x.2) c.split ++ putList (fun x => put1 x.1.val ++ put1 x.2) c.classes

/-- A tag with its generation. -/
def putTagGen (t : TagGen) : List Byte := put1 t.tag.val ++ put1 t.gen.val

/-- Byte 1 of an error record: kind, EXT, DOUBLE and the four presence flags (section 2.3). -/
def errorFlags (e : ErrorRecord) : List Byte :=
  put1 (64 * codeOf faultKinds e.kind + 32 * e.ext.toNat + 16 * e.double.toNat + 8 * e.seq.isSome.toNat +
    4 * e.tag.isSome.toNat + 2 * e.hops.isSome.toNat + e.station.isSome.toNat)

/-- An error record, 11 bytes; a field whose presence flag is clear is sent as 0 (section 2.3, R23). -/
def putError (e : ErrorRecord) : List Byte :=
  put1 e.number.val ++ errorFlags e ++ putName errorTables e.table ++ put2 e.index ++ put1 e.intake.val ++
    [e.seq.getD 0] ++
    (match e.tag with
      | none => [0, 0]
      | some t => put1 t.tag.val ++ put1 (16 * t.gen.val)) ++
    [(e.hops.getD 0).setWidth 8] ++ [e.station.getD 0]

/-- A posting (R114). -/
def putPosting (g : Posting) : List Byte :=
  put1 g.intake.val ++ [g.seq] ++ put1 g.tag.val ++ putCredit g.credit ++ putFlag g.kept

/-- A timer's state: 0 stopped, 1 running (R178). -/
def putTimer (t : Timer) : List Byte := putFlag t.isSome

/-- A session's record: every field of R121 but the class count list, in its order, its two flags as a set in one byte: TALLY
owed at bit 0, context waiting at bit 1 (R173, R178, log entry 35). -/
def putSession (x : Session) : List Byte :=
  putName sessionStates x.state ++ put2 x.containers ++ put2 x.kept ++ putSchemes x.subtotals ++ put3 x.total ++
    put3 x.limit ++ putPart (fun a => put1 a.tag.val ++ [a.seq] ++ put3 a.credit) x.awaited ++
    putPart (fun a => put1 a.tag.val ++ [a.seq]) x.last ++ putPart putPosting x.carried ++ putTimer x.idleTimer ++
    put1 (x.owed.toNat + 2 * x.ctxWaiting.toNat)

/-- A SIGHTING copy (section 2.3). -/
def putSighting (x : Sighting) : List Byte :=
  [x.seq] ++ putCode x.code ++ putName shapes x.shape ++
    (match x.material with
      | none => put1 6
      | some m => putName materials m) ++
    putName marks x.mark ++ put2 x.weight.val ++ putPart (fun n => put1 n.val) x.count

/-- An article copy (R42). -/
def putCopy (a : ArticleCopy) : List Byte :=
  putArticle a.entry ++ put2 a.position ++ put2 a.allowance ++ putClass a.tariff ++
    match a.content with
    | none => []
    | some c => putClass c

/-- The reason byte of a RETURN: a fault number, 32 for STOPPED, 33 for FINISHED (section 2.2). -/
def returnCode : ReturnReason → Nat
  | .fault n => n.val
  | .stopped => 32
  | .finished => 33

/-- The kind of a frame of the admission unit. -/
def intakeKind : IntakeFrame → Kind
  | .giveBack _ _ => .giveBack
  | .hold _ _ => .hold
  | .stop _ => .intakeStop
  | .go => .intakeGo

/-- The payload of a frame of the admission unit (section 2.2). -/
def intakePayload : IntakeFrame → List Byte
  | .giveBack q r => q :: put1 (returnCode r)
  | .hold q r => q :: putName holdReasons r
  | .stop r => putName stopFrameReasons r
  | .go => []

/-- An admission context: its state and every field of R57, the optional ones with presence flags (R173, R178). -/
def putContext (c : Context) : List Byte :=
  putName ctxStates c.state ++ putPart (putName stopReasons) c.stopReason ++ putPart (fun q => [q]) c.seq ++
    putPart putSighting c.sighting ++ putPart putTare c.tareCopy ++ putPart put2 c.holdCopy ++ putPart putCopy c.article ++
    putPart put1 c.clampedCount ++ putPart putCredit c.credit ++
    putPart (fun k => put1 k.line.val ++ put1 k.fault.val) c.keep ++ putPart (fun l => put1 l.val) c.line ++
    putPart put1 c.pitch ++ putPart putTagGen c.tag ++ putPart (putName pauseReasons) c.pause ++
    putPart (fun n => put1 n.val) c.lockFault ++ putTimer c.holdTimer ++ putTimer c.handoverTimer ++
    putList (fun f => kindCode (intakeKind f) :: intakePayload f) c.outbound

/-- Part 0 of a transit entry (R178): a FREE entry gives its state and generation. Of the bracketed fields of R102, the gating
step and the hop index carry a presence flag, for an entry in use may lack them; the others are present in every entry in use
and carry none (log entry 55). -/
def putEntryState (e : Entry) : List Byte :=
  putName entryStates e.state ++ put1 e.gen.val ++
    match e.use with
    | none => []
    | some u =>
      putPart (putName gatingSteps) e.step ++ put1 u.intake.val ++ [u.seq] ++ put1 u.line.val ++ put1 u.pitch ++
        putTimer e.timer ++ [u.ack.setWidth 8, u.refusal.setWidth 8] ++ putPart put1 e.hopIndex

/-- Part 1 of a transit entry (R178). -/
def putEntryRoute (e : Entry) : List Byte :=
  match e.use with
  | none => []
  | some u => putList putHop u.route ++ putList (fun g => put1 g.val) u.segments ++ put2 u.limit

/-- Part 2 of a transit entry (R178): one presence flag for the five fields of the container record, which are present together
from SETTING on (R102, log entry 55). -/
def putEntryCredit (e : Entry) : List Byte :=
  putPart (fun r => putCode r.code ++ putFlag r.kept ++ putCredit r.credit) e.record

/-- A hold queue entry (R96). -/
def putHoldEntry (e : HoldEntry) : List Byte :=
  put1 e.intake.val ++ [e.seq] ++ put1 e.start.val ++ putFlag e.kept ++
    (match e.material with
      | none => put1 6
      | some m => putName materials m) ++
    put1 e.line.val ++ put1 e.pitch ++ putList (fun g => put1 g.val) e.segments

/-! ### MGMT_REPLY data (R173, R174, R178) -/

/-- An item that a reply carries only when its operation gives it (R37 to R41), or when there is one (log entry 59). -/
def putGiven {α : Type} (item : α → List Byte) : Option α → List Byte
  | none => []
  | some x => item x

/-- A voucher record with its state (R136, R178). -/
def putRecord (r : VoucherRecord) : List Byte := putVoucher r ++ putName recordStates r.state

/-- The data of a reply, field by field (R173). The level an output line drives is one flag byte, 1 for high (log entry 45). -/
def replyData : ReplyData → List Byte
  | .none => []
  | .port e station link score => putPortEntry e ++ [station] ++ putName linkStates link ++ put1 score
  | .timer v => put2 v
  | .material v => put2 v
  | .pitch v => put1 v
  | .cls c => putClass c
  | .rate v => put1 v
  | .line l => putLine l
  | .segment g => put1 g.capacity ++ put1 g.reserved
  | .disposition d => putDisposition d
  | .sense e => putSense e.function ++ put2 e.debounce
  | .output e high =>
    putOutput e.function ++ putName polarities e.polarity ++ putName manualValues e.manual ++ putFlag high
  | .conditions c => put3 c.toNat
  | .lock state code => putName lockStates state ++ putKey code
  | .article position entry count => putGiven put2 position ++ putGiven putArticle entry ++ put2 count
  | .cleared removed count => put2 removed ++ put2 count
  | .session x => putSession x
  | .classCounts pairs length => putList (fun x => put1 x.1.val ++ put2 x.2) pairs ++ put1 length
  | .context c => putContext c
  | .errorRecord e => putError e
  | .entryState e => putEntryState e
  | .entryRoute e => putEntryRoute e
  | .entryCredit e => putEntryCredit e
  | .holdEntry length e => put1 length ++ putHoldEntry e
  | .voucher state length r => putName unitStates state ++ put1 length ++ putGiven putRecord r
  | .length n => put1 n

/-- The data bytes a reply is sent with: at most 47 (section 2.2); the bytes of a record that needs more are a free value
(log entry 12). -/
def sentData (d : ReplyData) : List Byte :=
  if (replyData d).length ≤ Config.replyDataMax then replyData d else (Config.overlongReply (replyData d)).toList

/-! ### Frames (R19, sections 2.1 to 2.3) -/

/-- A frame before its check value: addresses, kind, tag, generation and payload (section 2.1). -/
structure Frame where
  dst     : BitVec 4
  src     : BitVec 4
  kind    : Byte
  tag     : Byte
  gen     : Gen
  payload : List Byte
  deriving DecidableEq, Repr

/-- The header and payload of a frame; the low nibble of byte 3 is 0 (R19). -/
def Frame.body (f : Frame) : List Byte :=
  [f.dst ++ f.src, f.kind, f.tag, BitVec.ofFin f.gen ++ 0#4, BitVec.ofNat 8 f.payload.length] ++ f.payload

/-- The bytes of a frame, with the check value over the finished header and payload (R9, R19). -/
def Frame.bytes (f : Frame) : List Byte := f.body ++ twoBytes (checkValue f.body)

/-- A frame the switch originates: addressed to the port's own number, from 15 (R19). -/
def ownFrame (p : Port) (k : Kind) (tag : Byte) (gen : Gen) (payload : List Byte) : Frame :=
  { dst := BitVec.ofNat 4 p.val, src := 15, kind := kindCode k, tag := tag, gen := gen, payload := payload }

/-- A frame of the admission unit to an intake (section 2.2). -/
def intakeFrame (p : Port) (f : IntakeFrame) : Frame := ownFrame p (intakeKind f) 0 0 (intakePayload f)

/-- A tag as a header byte. -/
def tagByte (t : Tag) : Byte := BitVec.ofNat 8 t.val

/-- The frame port p sends for each frame the part makes (R19, sections 2.2 and 2.3). -/
def frameOf (p : Port) : TxFrame → Frame
  | .announce role credits => ownFrame p .announce 0 0 (putName roles role ++ put1 credits ++ [15])
  | .credit n => ownFrame p .credit 0 0 (put1 n)
  | .intake f => intakeFrame p f
  | .release t g q => ownFrame p .release (tagByte t) g [q]
  | .tally st n total => ownFrame p .tally 0 0 (putName sessionStates st ++ put2 n ++ put3 total)
  | .gateSet t g h gate q => ownFrame p .gateSet (tagByte t) g (put1 h ++ put1 gate.val ++ putName positions q)
  | .gateClear c => ownFrame p .gateClear (tagByte c.tag) c.gen (put1 c.gate.val)
  | .voucher r => ownFrame p .voucher 0 0 (putVoucher r)
  | .mgmtReply r => ownFrame p .mgmtReply r.tag 0 (putName statuses r.status ++ sentData r.data)
  | .notice c => ownFrame p .notice 0 0 (put3 c.toNat)
  | .faultReport e => ownFrame p .faultReport 0 0 (putError e)
  | .voucherReport r => ownFrame p .voucherReport 0 0 (putVoucher r.record ++ putName voucherResults r.outcome)
  | .pass source f =>
    { dst := BitVec.ofFin f.dst, src := BitVec.ofNat 4 source.val, kind := f.kind, tag := f.tag, gen := f.gen,
      payload := f.payload }
  | .undeliverable f => ownFrame p .undeliverable f.tag f.gen ((put1 f.dst.val ++ f.payload).take 48)

/-- The bytes port p puts on its link for a frame the part makes (R9, R19). -/
def frameBytes (p : Port) (f : TxFrame) : List Byte := (frameOf p f).bytes

end Sys2Proof.Machine
end

