-- ==== Sys2Proof/Machine/Image.lean ====
section
/-! DEFINITION. The image body of the configuration store (R180): the stored tables as bytes, and the tables loaded from
bytes with the corrections of R181. -/

namespace Sys2Proof.Machine

/-- The stored tables (section 11.6); a line entry is its record with its enable field. -/
structure Image where
  ports        : Vector PortEntry 12
  timers       : TimerTable
  allowances   : Vector Nat 6
  pitches      : Vector Nat 5
  classes      : Vector TariffClass 32
  rates        : Vector Nat 4
  lines        : Vector (LineRecord × Bool) 8
  capacities   : Vector Nat 12
  dispositions : Vector Disposition 32
  sense        : Vector SenseEntry 8
  outputs      : Vector OutputEntry 8
  mask         : ConditionSet
  code         : Key
  deriving DecidableEq, Repr

/-- The table of n cells given by a function of the index. -/
def tabulate {α : Type} (n : Nat) (f : Fin n → α) : Vector α n := ⟨((indices n).map f).toArray, by simp [indices]⟩

/-! ### The stored tables of the part (R180) -/

/-- The stored tables as the blocks hold them (R182, step 1). -/
def imageOf (s : State) : Image :=
  { ports := mapCells (·.entry) s.ports, timers := s.mgmt.timers, allowances := s.catalogue.allowances,
    pitches := s.lines.pitches, classes := s.catalogue.classes, rates := s.catalogue.rates,
    lines := mapCells (fun l => (l.record, l.enabled)) s.lines.lines, capacities := mapCells (·.capacity) s.lines.segments,
    dispositions := s.faults.dispositions, sense := s.cond.sense, outputs := s.cond.outputs, mask := s.cond.mask,
    code := s.catalogue.code }

/-- The defaults of every stored table, with the unlock code all ones (R1, R44, R48, R90, R101, R150, R163, R166, R168,
R176, R181). -/
def Image.default : Image :=
  { ports := perPort PortEntry.default, timers := .default, allowances := Catalogue.reset.allowances,
    pitches := LineUnit.reset.pitches, classes := Catalogue.reset.classes, rates := Catalogue.reset.rates,
    lines := tabulate 8 fun l => (LineRecord.default l, false), capacities := Vector.replicate 12 0,
    dispositions := defaultDispositions, sense := ConditionUnit.reset.sense, outputs := ConditionUnit.reset.outputs,
    mask := 0, code := BitVec.allOnes 128 }

/-! ### The body (R180) -/

/-- A list stored at its full capacity: its count, its items, and zeros in the places past the count (R180). -/
def putStored {α : Type} (capacity width : Nat) (item : α → List Byte) (xs : List α) : List Byte :=
  put1 xs.length ++ xs.flatMap item ++ List.replicate ((capacity - xs.length) * width) 0

/-- A line entry: its written fields, then its enable field (R180). -/
def putStoredLine (l : LineRecord × Bool) : List Byte :=
  putStored 6 3 putHop l.1.route ++ putStored 4 1 (fun g => put1 g.val) l.1.segments ++ putLineTail l.1 ++
    putName enables l.2

/-- A table as its entries in index order (R180). -/
def putTable {α : Type} {n : Nat} (entry : α → List Byte) (v : Vector α n) : List Byte := v.toList.flatMap entry

/-- The image body: the tables in table-code order, then the unlock code (R180). -/
def imageBody (i : Image) : List Byte :=
  putTable putPortEntry i.ports ++
  (put2 i.timers.gateAck ++ put2 i.timers.handover ++ put2 i.timers.reply ++ put2 i.timers.idle) ++
  putTable put2 i.allowances ++ putTable put1 i.pitches ++ putTable putClass i.classes ++ putTable put1 i.rates ++
  putTable putStoredLine i.lines ++ putTable put1 i.capacities ++ putTable putDisposition i.dispositions ++
  putTable (fun e => putSense e.function ++ put2 e.debounce) i.sense ++
  putTable (fun e => putOutput e.function ++ putName polarities e.polarity ++ putName manualValues e.manual) i.outputs ++
  put3 i.mask.toNat ++ putKey i.code

/-- The body length this part expects (R180): the entries of each table times the entry length, plus 16. -/
def imageLength : Nat :=
  12 * 10 + 4 * 2 + 6 * 2 + 5 * 1 + 32 * 3 + 4 * 1 + 8 * 32 + 12 * 1 + 32 * 4 + 8 * 4 + 8 * 4 + 1 * 3 + 16

/-! ### Loading (R181) -/

/-- Byte i of a body. -/
def byteAt (body : List Byte) (i : Nat) : Nat := (body.getD i 0).toNat

/-- The number in n bytes of a body from byte i. -/
def numberAt (body : List Byte) (i n : Nat) : Nat := number ((List.range n).map fun k => body.getD (i + k) 0)

/-- A stored enumeration: outside its set it is the field's default (R181). -/
def storedName {α : Type} (names : List α) (default : α) (n : Nat) : α := (decodeName names n).getD default

/-- A stored index of a table of n + 1 cells: above it, the nearest value in range (R181). -/
def storedIndex (n i : Nat) : Fin (n + 1) := ⟨min i n, by omega⟩

/-- A stored field that may be NONE: outside its set it is NONE, its default (R181). -/
def storedOptional (n i : Nat) : Option (Fin n) := index? n i

/-- A port entry of 10 bytes at byte i (R1, R181). -/
def loadPort (body : List Byte) (i : Nat) (d : PortEntry) : PortEntry :=
  { role := storedName roles d.role (byteAt body i)
    enabled := storedName enables d.enabled (byteAt body (i + 1))
    counterPort := storedOptional 12 (byteAt body (i + 2))
    creditLimit := clamp 1 999999 (numberAt body (i + 3) 3)
    tare := clampInt (-500) 500 (BitVec.ofNat 16 (numberAt body (i + 6) 2)).toInt
    holdLimit := clamp 0 60000 (numberAt body (i + 8) 2) }

/-- A hop of 3 bytes at byte i (R81, R181). -/
def loadHop (body : List Byte) (i : Nat) : Hop :=
  ⟨storedIndex 11 (byteAt body i), storedIndex 3 (byteAt body (i + 1)), storedName positions .pass (byteAt body (i + 2))⟩

/-- An overflow line: NONE when it is outside its set or names the line itself (R81, R181). -/
def loadOverflow (l : LineIx) (n : Nat) : Option LineIx :=
  match storedOptional 8 n with
  | none => none
  | some o => if o = l then none else some o

/-- A line entry of 32 bytes at byte i (R81, R180, R181, log entry 13). -/
def loadLine (body : List Byte) (i : Nat) (l : LineIx) : LineRecord × Bool :=
  let hops := clamp 1 6 (byteAt body i)
  let segs := clamp 1 4 (byteAt body (i + 19))
  let near := clamp 0 99 (byteAt body (i + 27))
  ({ route := (List.range hops).map fun k => loadHop body (i + 1 + 3 * k)
     segments := ((List.range segs).map fun k => storedIndex 11 (byteAt body (i + 20 + k))).dedup
     binPort := storedIndex 11 (byteAt body (i + 24))
     overflow := loadOverflow l (byteAt body (i + 25))
     materials := BitVec.ofNat 6 (byteAt body (i + 26))
     nearFull := near
     full := clamp (near + 1) 100 (byteAt body (i + 28))
     transitLimit := clamp 500 60000 (numberAt body (i + 29) 2) },
   storedName enables false (byteAt body (i + 31)))

/-- A disposition of 4 bytes at byte i (R150, R181). A report flag byte above 1 is loaded as the entry's default flag (log entry
54). -/
def loadDisposition (body : List Byte) (i : Nat) (d : Disposition) : Disposition :=
  { action := storedName actions d.action (byteAt body i)
    keepLine := storedIndex 7 (byteAt body (i + 1))
    cls := storedName faultClasses d.cls (byteAt body (i + 2))
    report := (decodeFlag (byteAt body (i + 3))).getD d.report }

/-- A sense function (R163, R181): 255 and a code outside the set are NONE, a line above 7 is 7. -/
def loadSenseFunction (function line : Nat) : SenseFunction :=
  match function with
  | 1 => .binFull (storedIndex 7 line)
  | 2 => .roomStop
  | _ => .none

/-- A sense entry of 4 bytes at byte i (R163, R181). -/
def loadSense (body : List Byte) (i : Nat) : SenseEntry :=
  ⟨loadSenseFunction (byteAt body i) (byteAt body (i + 1)), clamp 20 2000 (numberAt body (i + 2) 2)⟩

/-- An output function (R166, R181): a code outside the set is MANUAL, a line above 7 is 7, a port above 11 is 11. -/
def loadOutputFunction (function operand : Nat) : OutputFunction :=
  match function with
  | 1 => .lineOpen (storedIndex 7 operand)
  | 2 => .intakeReady (storedIndex 11 operand)
  | 3 => .anyCondition
  | _ => .manual

/-- An output entry of 4 bytes at byte i (R166, R181). -/
def loadOutput (body : List Byte) (i : Nat) : OutputEntry :=
  { function := loadOutputFunction (byteAt body i) (byteAt body (i + 1))
    polarity := storedName polarities .activeHigh (byteAt body (i + 2))
    manual := storedName manualValues false (byteAt body (i + 3)) }

/-- The tables loaded from a valid image body, each at its place in it (R180, R181). -/
def loadImage (body : List Byte) : Image :=
  { ports := tabulate 12 fun p => loadPort body (10 * p.val) (.default p)
    timers :=
      { gateAck := clampTimer 0 (numberAt body 120 2), handover := clampTimer 1 (numberAt body 122 2)
        reply := clampTimer 2 (numberAt body 124 2), idle := clampTimer 3 (numberAt body 126 2) }
    allowances := tabulate 6 fun i => min (numberAt body (128 + 2 * i.val) 2) 2000
    pitches := tabulate 5 fun i => clamp 1 15 (byteAt body (140 + i.val))
    classes := tabulate 32 fun i =>
      ⟨numberAt body (145 + 3 * i.val) 2, storedIndex 3 (byteAt body (147 + 3 * i.val))⟩
    rates := tabulate 4 fun i => min (byteAt body (241 + i.val)) 250
    lines := tabulate 8 fun l => loadLine body (245 + 32 * l.val) l
    capacities := tabulate 12 fun g => byteAt body (501 + g.val)
    dispositions := tabulate 32 fun n => loadDisposition body (513 + 4 * n.val) (.default n.val)
    sense := tabulate 8 fun i => loadSense body (641 + 4 * i.val)
    outputs := tabulate 8 fun i => loadOutput body (673 + 4 * i.val)
    mask := BitVec.ofNat 22 (numberAt body 705 3)
    code := BitVec.ofNat 128 (numberAt body 708 16) }

/-! ### Role limits (R181) -/

/-- The number of ports below p that a table gives a role. -/
def rolesBelow (v : Vector PortEntry 12) (r : Role) (p : Port) : Nat :=
  ((indices 12).filter fun q => decide (q < p) && (cell v q).role == r).length

/-- A port that would hold INTAKE beyond the eighth, or COUNTER beyond the fourth, is loaded as UNUSED (R181). -/
def limitRole (v : Vector PortEntry 12) (p : Port) : PortEntry :=
  let e := cell v p
  if (e.role = .intake ∧ Config.maxIntakes ≤ rolesBelow v .intake p) ∨
      (e.role = .counter ∧ Config.maxCounters ≤ rolesBelow v .counter p) then { e with role := .unused }
  else e

/-- Whether an enabled port holds CONTROLLER in a table. -/
def hasController (v : Vector PortEntry 12) : Bool :=
  (indices 12).any fun p => (cell v p).role == .controller && (cell v p).enabled

/-- The role limits of R2 applied to a loaded port table; with no enabled CONTROLLER, port 0 becomes one (R181). -/
def limitRoles (v : Vector PortEntry 12) : Vector PortEntry 12 :=
  let w := tabulate 12 (limitRole v)
  if hasController w then w else put w 0 { cell w 0 with role := .controller, enabled := true }

/-- Whether the store holds a valid image (R181). -/
def validImage (m : ConfigStore) : Bool :=
  m.answers && m.format == Config.formatWord && m.length == imageLength &&
    m.check == checkValue (m.body.take imageLength)

/-- The tables a power-on read loads: those of a valid image with the role limits applied, else the defaults (R181). -/
def tablesRead (m : ConfigStore) : Image :=
  if validImage m then
    let i := loadImage (m.body.take imageLength)
    { i with ports := limitRoles i.ports }
  else .default

end Sys2Proof.Machine
end

