-- ==== Sys2Proof/Machine/Resets.lean ====
section
/-! DEFINITION. The resets and the configuration store (section 00 "Resets", R179 to R183): the meanings of POWER_ON_RESET,
STORE_READ_DONE, SOFT_RESET, STORE_SAVE and STORE_SAVE_DONE. -/

namespace Sys2Proof.Machine

/-! ### POWER_ON_RESET -/

/-- A link port at a power-on reset: every field at its reset value (section 1.7). The carrier is the line receiver's, and
the record of frames sent is the model's own: both stay. -/
def powerOnPort (s : State) (p : Port) : LinkPort :=
  { LinkPort.reset p with carrier := (s.port p).carrier, sent := (s.port p).sent }

/-- The condition unit at a power-on reset (R171); the pins keep their levels. -/
def powerOnConditions (u : ConditionUnit) : ConditionUnit :=
  { ConditionUnit.reset with inputs := mapCells (fun x => { level := x.level, state := .idle, timer := none }) u.inputs }

/-- POWER_ON_RESET: every block at its power-on values, the store read begun (R33, R54, R80, R101, R120, R135, R148, R162,
R171, R181, R183). The configuration store stays as it stands, a save in progress ends (R182), and what the blocks had sent
one another is gone. -/
def powerOnReset (s : State) : State :=
  { State.reset with
    ports := perPort (powerOnPort s), cond := powerOnConditions s.cond, store := s.store, pending := s.pending }

/-- POWER_ON_RESET. -/
def execPowerOnReset (s : State) : Host.Outcome State Fault Refusal := .next (powerOnReset s)

/-! ### STORE_READ_DONE (R181) -/

/-- A line loaded from the store: no port is UP, so BIN_DOWN and ROUTE_DOWN are present (R101). -/
def loadedLine (x : LineRecord × Bool) : Line :=
  { record := x.1, enabled := x.2, causes := ⟨!x.2, false, false, true, true⟩, lastFill := 0,
    state := if x.2 then .closed else .disabled, live := 0 }

/-- The stored tables given to their blocks (R181). -/
def loadTables (i : Image) (s : State) : State :=
  { s with
    ports := tabulate 12 fun p => { s.port p with entry := cell i.ports p }
    catalogue := { s.catalogue with allowances := i.allowances, classes := i.classes, rates := i.rates, code := i.code }
    lines := { s.lines with
      lines := mapCells loadedLine i.lines, pitches := i.pitches
      segments := mapCells (fun c => { capacity := c, reserved := 0 }) i.capacities }
    faults := { s.faults with dispositions := i.dispositions }
    cond := { s.cond with sense := i.sense, outputs := i.outputs, mask := i.mask }
    mgmt := { s.mgmt with timers := i.timers } }

/-- What a port that holds a role has in a per-port table, when the role is r. -/
def whenRole {α : Type} (s : State) (r : Role) (x : α) (p : Port) : Option α := if s.role p = r then some x else none

/-- The per-port state the blocks create from the roles loaded (R56, R121, R140, R152, R181). -/
def createAll (s : State) : State :=
  { s with
    admission := { s.admission with contexts := perPort (whenRole s .intake Context.fresh) }
    tally := { s.tally with sessions := perPort (whenRole s .intake Session.new) }
    faults := { s.faults with contexts := perPort (whenRole s .intake FaultContext.fresh) }
    vouchers := { s.vouchers with
      units := perPort (whenRole s .counter
        { state := .offline, queue := [], replyTimer := none, sendOwed := false }) } }

/-- A port that is enabled with a role other than UNUSED goes to DOWN, and on by its carrier (R4, R181). -/
def startPort (l : LinkPort) : LinkPort := if l.entry.enabled ∧ l.entry.role ≠ .unused then enterDown l else l

/-- The inputs of the sense table started under their functions (R171), each debounce timer afresh (log entry 47). -/
def startInputs (s : State) : State :=
  { s with cond := { s.cond with
    inputs := tabulate 8 fun i => restartedInput (cell s.cond.sense i) (cell s.cond.inputs i) } }

/-- The state of every line reported to the condition unit (R101). -/
def reportLines (s : State) : State :=
  (indices 8).foldl (fun t l => t.post (.lineStateReport l (t.line l).state)) s

/-- The store read completes with what the store holds (R181). -/
def completeRead (s : State) : State :=
  let s1 := createAll (loadTables (tablesRead s.store) s)
  let s2 := reportLines (startInputs { s1 with
    ports := mapCells startPort s1.ports, mgmt := { s1.mgmt with loading := false } })
  evalOutputs (if validImage s.store then s2 else s2.request .configDefault)

/-- STORE_READ_DONE: the power-on read completes (R181). A store fitted since the last read is the one read (log entry 5). No
read is in progress once it has completed. -/
def storeReadDone (fitted : Option ConfigStore) (s : State) : State :=
  if s.mgmt.loading then
    match fitted with
    | none => completeRead s
    | some m => completeRead { s with store := m }
  else s

/-- STORE_READ_DONE (R181). -/
def execStoreReadDone (fitted : Option ConfigStore) (s : State) : Host.Outcome State Fault Refusal :=
  .next (storeReadDone fitted s)

/-! ### SOFT_RESET (R179) -/

/-- The catalogue's part: the lock is LOCKED (R54). -/
def softCatalogue (s : State) : State := withLock s .locked

/-- The admission unit's part: every context STOPPED, and no ROOM_STOP latch recorded (R80). -/
def softAdmission (s : State) : State :=
  (indices 12).foldl resetContext { s with admission := { s.admission with roomStop := false } }

/-- A line at a soft reset: BIN_FULL_SENSE removed, the other causes judged again, the live count 0, and the state derived,
which sets no condition and causes no re-selection (R101). -/
def softLine (s : State) (l : Line) : Line :=
  let x := { l with causes := { judgedCauses s l with binFullSense := false }, live := 0 }
  { x with state := derivedState x }

/-- The line unit's part: the reserved and live counts 0, every tag free with its generation, the hold queue emptied, and
every line's state reported (R101). -/
def softLines (s : State) : State :=
  reportLines { s with lines := { s.lines with
    lines := mapCells (softLine s) s.lines.lines
    segments := mapCells (fun g => { g with reserved := 0 }) s.lines.segments
    tags := mapCells (fun r => { r with free := true }) s.lines.tags
    holdQueue := [] } }

/-- The transit table's part: every entry FREE with its generation, every clear backlog emptied (R120). -/
def softTransit (s : State) : State :=
  { s with transit := { entries := mapCells (fun e => Entry.free e.gen) s.transit.entries
                        backlog := Vector.replicate 12 [] } }

/-- The tally unit's part (R135). -/
def softTally (s : State) : State :=
  { s with tally := { s.tally with sessions := mapCells (fun x => x.map (resetSession s)) s.tally.sessions } }

/-- A fault context at a soft reset: the flag clear, the reported state STOPPED, the last error record kept (R162). -/
def softFaultContext (c : FaultContext) : FaultContext := { c with flag := false, reported := .stopped, seq := none }

/-- The fault unit's part (R162). -/
def softFaults (s : State) : State :=
  { s with faults := { s.faults with contexts := mapCells (fun c => c.map softFaultContext) s.faults.contexts } }

/-- Whether a message is a report of a latch that a soft reset clears (R171). -/
def isLatchReport : Instr → Bool
  | .binFullReport _ _ => true
  | .roomStopReport _ => true
  | _ => false

/-- The condition unit's part: latches, counts and the condition set clear, the inputs started again, a queued NOTICE
rewritten, and the outputs evaluated (R171). A latch report not yet taken goes with its latch. -/
def softConditions (s : State) : State :=
  let s1 := { s with
    mail := s.mail.filter (fun m => !isLatchReport m)
    cond := { s.cond with
      latchCount := Vector.replicate 8 0, roomStops := 0, ctxStates := Vector.replicate 12 .stopped } }
  evalOutputs (withConditions (startInputs s1) 0)

/-- Every block at its soft reset values, the links as they stand (R179). -/
def softReset (s : State) : State :=
  softConditions (softFaults (softTally (softTransit (softLines (softAdmission (softCatalogue s))))))

/-- SOFT_RESET: BUSY during a save, and nothing is reset (R179). -/
def softResetRequest (s : State) : Answer :=
  if s.mgmt.save.isSome then answer .busy s else answer .done (softReset s)

/-- SOFT_RESET (R179). -/
def execSoftReset (r : Requester) (s : State) : Host.Outcome State Fault Refusal := .next (manage r softResetRequest s)

/-! ### STORE_SAVE and STORE_SAVE_DONE (R182) -/

/-- Replaces what the configuration store holds. -/
def withStore (s : State) (m : ConfigStore) : State := { s with store := m }

/-- Replaces the save in progress. -/
def withSave (s : State) (v : Option Save) : State := { s with mgmt := { s.mgmt with save := v } }

/-- A save begun: the copy gathered and the format word written as 0 (R182, steps 1 and 2). The request is then ended, and
its reply will be owed, unless its port has left UP since it was taken. -/
def beginSave (r : Requester) (s : State) : State :=
  let x := s.slot r.port
  let v : Save := { requester := if x.carried = .orphaned then none else some r, copy := imageBody (imageOf s) }
  (withSave (withStore s { s.store with format := 0 }) (some v)).setSlot r.port { x with carried := .none }

/-- STORE_SAVE: BUSY while a save is in progress; REFUSED with STORE_FAILED when the store is absent (R182). -/
def storeSave (r : Requester) (s : State) : State :=
  if mayTake s r.port = false then s
  else if s.mgmt.save.isSome then placeReply r .busy .none s
  else if s.store.answers = false then placeReply r .refused .none (s.request .storeFailed)
  else beginSave r s

/-- STORE_SAVE (R182). -/
def execStoreSave (r : Requester) (s : State) : Host.Outcome State Fault Refusal := .next (storeSave r s)

/-- A save's reply owed to its requester's port; it goes into the slot as soon as the slot is EMPTY (R182). -/
def oweReply (v : Save) (status : Status) (s : State) : State :=
  match v.requester with
  | none => s
  | some r => settleOwed r.port (s.setSlot r.port { s.slot r.port with owed := some ⟨r.tag, status, .none⟩ })

/-- The end of a save: DONE, or REFUSED with STORE_FAILED (R182). -/
def endSave (v : Save) (completes : Bool) (s : State) : State :=
  if completes then oweReply v .done (withSave s none)
  else oweReply v .refused ((withSave s none).request .storeFailed)

/-- The store with a body written, and its length and check (R182, step 3). -/
def writtenStore (m : ConfigStore) (copy body : List Byte) : ConfigStore :=
  { m with length := copy.length, check := checkValue copy, body := body }

/-- STORE_SAVE_DONE: how the save in progress ends (R182): no answer from the store, a body that reads back differently from
the copy, or the format word read back. A body that reads back as the copy does not end the save. -/
def storeSaveDone (how : SaveEnd) (s : State) : State :=
  match s.mgmt.save with
  | none => s
  | some v =>
    match how with
    | .noAnswer => endSave v false s
    | .bodyReadBack b =>
      let s1 := withStore s (writtenStore s.store v.copy b)
      if b = v.copy then s1 else endSave v false s1
    | .formatReadBack w =>
      endSave v (w == Config.formatWord) (withStore s { writtenStore s.store v.copy v.copy with format := w })

/-- STORE_SAVE_DONE (R182). -/
def execStoreSaveDone (how : SaveEnd) (s : State) : Host.Outcome State Fault Refusal := .next (storeSaveDone how s)

end Sys2Proof.Machine
end

