-- ==== Sys2Proof/Machine/Dispatch.lean ====
section
/-! DEFINITION. The meaning of every command: one arm for each constructor of `Instr`, each one call of its meaning. -/

namespace Sys2Proof.Machine

/-- The effect of a command on everything but the queue of waiting commands. -/
def exec (i : Instr) (s : State) : Host.Outcome State Fault Refusal :=
  match i with
  | .powerOnReset => Sys2Proof.Machine.execPowerOnReset s
  | .storeReadDone fitted => Sys2Proof.Machine.execStoreReadDone fitted s
  | .signalDetect p => Sys2Proof.Machine.execSignalDetect p s
  | .signalLoss p => Sys2Proof.Machine.execSignalLoss p s
  | .frameArrival p bytes => Sys2Proof.Machine.execFrameArrival p bytes s
  | .announce p f => Sys2Proof.Machine.execAnnounce p f s
  | .credit p f => Sys2Proof.Machine.execCredit p f s
  | .frameTransmit p => Sys2Proof.Machine.execFrameTransmit p s
  | .placeFree p o => Sys2Proof.Machine.execPlaceFree p o s
  | .frameDispatch p => Sys2Proof.Machine.execFrameDispatch p s
  | .pass p => Sys2Proof.Machine.execPass p s
  | .sighting p x => Sys2Proof.Machine.execSighting p x s
  | .faultOutcome p n o => Sys2Proof.Machine.execFaultOutcome p n o s
  | .withdrawn p seq => Sys2Proof.Machine.execWithdrawn p seq s
  | .returned p seq => Sys2Proof.Machine.execReturned p seq s
  | .dropped p seq => Sys2Proof.Machine.execDropped p seq s
  | .present p => Sys2Proof.Machine.execPresent p s
  | .finish p => Sys2Proof.Machine.execFinish p s
  | .headFault p n code => Sys2Proof.Machine.execHeadFault p n code s
  | .gateAck p tag gen hop result => Sys2Proof.Machine.execGateAck p tag gen hop result s
  | .passage p tag gen gate => Sys2Proof.Machine.execPassage p tag gen gate s
  | .arrival p tag gen => Sys2Proof.Machine.execArrival p tag gen s
  | .fill p percent => Sys2Proof.Machine.execFill p percent s
  | .voucherDone p number result => Sys2Proof.Machine.execVoucherDone p number result s
  | .holdTimerExpiry p => Sys2Proof.Machine.execHoldTimerExpiry p s
  | .handoverTimerExpiry p => Sys2Proof.Machine.execHandoverTimerExpiry p s
  | .gateAckTimerExpiry tag => Sys2Proof.Machine.execGateAckTimerExpiry tag s
  | .transitTimerExpiry tag => Sys2Proof.Machine.execTransitTimerExpiry tag s
  | .idleTimerExpiry p => Sys2Proof.Machine.execIdleTimerExpiry p s
  | .replyTimerExpiry p => Sys2Proof.Machine.execReplyTimerExpiry p s
  | .senseAssert n => Sys2Proof.Machine.execSenseAssert n s
  | .senseRelease n => Sys2Proof.Machine.execSenseRelease n s
  | .debounceTimerExpiry n => Sys2Proof.Machine.execDebounceTimerExpiry n s
  | .claim c => Sys2Proof.Machine.execClaim c s
  | .containerRecord tag gen r => Sys2Proof.Machine.execContainerRecord tag gen r s
  | .grantNotice p seq tag gen line pitch => Sys2Proof.Machine.execGrantNotice p seq tag gen line pitch s
  | .reselectionNotice p seq line tried => Sys2Proof.Machine.execReselectionNotice p seq line tried s
  | .removalRequest p => Sys2Proof.Machine.execRemovalRequest p s
  | .releaseNotice tag gen line pitch segments => Sys2Proof.Machine.execReleaseNotice tag gen line pitch segments s
  | .cancelRequest tag gen => Sys2Proof.Machine.execCancelRequest tag gen s
  | .freeRequest tag gen => Sys2Proof.Machine.execFreeRequest tag gen s
  | .gatesSetReport p tag gen => Sys2Proof.Machine.execGatesSetReport p tag gen s
  | .gateFault p kind tag gen hops => Sys2Proof.Machine.execGateFault p kind tag gen hops s
  | .dropReport p tag gen => Sys2Proof.Machine.execDropReport p tag gen s
  | .posting x => Sys2Proof.Machine.execPosting x s
  | .dropNote p tag seq credit => Sys2Proof.Machine.execDropNote p tag seq credit s
  | .stateReport p state reason seq => Sys2Proof.Machine.execStateReport p state reason seq s
  | .returnRequest p => Sys2Proof.Machine.execReturnRequest p s
  | .returnAnswer p returned state => Sys2Proof.Machine.execReturnAnswer p returned state s
  | .closeCompleted p => Sys2Proof.Machine.execCloseCompleted p s
  | .roomStopReport first => Sys2Proof.Machine.execRoomStopReport first s
  | .binFullReport line first => Sys2Proof.Machine.execBinFullReport line first s
  | .flagClear p => Sys2Proof.Machine.execFlagClear p s
  | .transitFault kind tag gen intake seq => Sys2Proof.Machine.execTransitFault kind tag gen intake seq s
  | .voucherRequest x => Sys2Proof.Machine.execVoucherRequest x s
  | .voucherPlaceFreed p => Sys2Proof.Machine.execVoucherPlaceFreed p s
  | .intakeDeparture p => Sys2Proof.Machine.execIntakeDeparture p s
  | .intakeArrival p restart => Sys2Proof.Machine.execIntakeArrival p restart s
  | .portEventReport p => Sys2Proof.Machine.execPortEventReport p s
  | .sorterDownReport p => Sys2Proof.Machine.execSorterDownReport p s
  | .counterPortReport p up => Sys2Proof.Machine.execCounterPortReport p up s
  | .conditionRequest c => Sys2Proof.Machine.execConditionRequest c s
  | .lineStateReport line state => Sys2Proof.Machine.execLineStateReport line state s
  | .readEntry r table index => Sys2Proof.Machine.execReadEntry r table index s
  | .lockRecordRead r index => Sys2Proof.Machine.execLockRecordRead r index s
  | .portWrite r index x => Sys2Proof.Machine.execPortWrite r index x s
  | .timerWrite r index value => Sys2Proof.Machine.execTimerWrite r index value s
  | .materialWrite r index value => Sys2Proof.Machine.execMaterialWrite r index value s
  | .pitchWrite r index value => Sys2Proof.Machine.execPitchWrite r index value s
  | .classWrite r index deposit scheme => Sys2Proof.Machine.execClassWrite r index deposit scheme s
  | .schemeWrite r index rate => Sys2Proof.Machine.execSchemeWrite r index rate s
  | .lineWrite r index x => Sys2Proof.Machine.execLineWrite r index x s
  | .segmentWrite r index capacity => Sys2Proof.Machine.execSegmentWrite r index capacity s
  | .dispositionWrite r index x => Sys2Proof.Machine.execDispositionWrite r index x s
  | .senseWrite r index x => Sys2Proof.Machine.execSenseWrite r index x s
  | .outputWrite r index x => Sys2Proof.Machine.execOutputWrite r index x s
  | .maskWrite r index bits => Sys2Proof.Machine.execMaskWrite r index bits s
  | .lockRecordWrite r index code => Sys2Proof.Machine.execLockRecordWrite r index code s
  | .articleInsert r x => Sys2Proof.Machine.execArticleInsert r x s
  | .articleReplace r x => Sys2Proof.Machine.execArticleReplace r x s
  | .articleDelete r code => Sys2Proof.Machine.execArticleDelete r code s
  | .articleFind r code => Sys2Proof.Machine.execArticleFind r code s
  | .articleRead r position => Sys2Proof.Machine.execArticleRead r position s
  | .articleClear r => Sys2Proof.Machine.execArticleClear r s
  | .unlock r key => Sys2Proof.Machine.execUnlock r key s
  | .relock r => Sys2Proof.Machine.execRelock r s
  | .clearConditions r bits => Sys2Proof.Machine.execClearConditions r bits s
  | .clearSense r inputs => Sys2Proof.Machine.execClearSense r inputs s
  | .intakeResume r port => Sys2Proof.Machine.execIntakeResume r port s
  | .intakeStopControl r port => Sys2Proof.Machine.execIntakeStopControl r port s
  | .clearFault r port => Sys2Proof.Machine.execClearFault r port s
  | .portEnable r port => Sys2Proof.Machine.execPortEnable r port s
  | .portDisable r port => Sys2Proof.Machine.execPortDisable r port s
  | .portReset r port => Sys2Proof.Machine.execPortReset r port s
  | .lineEnable r line => Sys2Proof.Machine.execLineEnable r line s
  | .lineDisable r line => Sys2Proof.Machine.execLineDisable r line s
  | .counterResume r port => Sys2Proof.Machine.execCounterResume r port s
  | .readState r target index part => Sys2Proof.Machine.execReadState r target index part s
  | .softReset r => Sys2Proof.Machine.execSoftReset r s
  | .storeSave r => Sys2Proof.Machine.execStoreSave r s
  | .storeSaveDone how => Sys2Proof.Machine.execStoreSaveDone how s

end Sys2Proof.Machine
end

