-- ==== Sys2Proof/Machine/Idle.lean ====
section
/-! DEFINITION. What the part does when no command waits (log entry 3): frames are sent and dispatched, due timers expire, and
the 1 ms time base goes on. -/

namespace Sys2Proof.Machine

/-! ### Links (R15, R24) -/

/-- Whether port p has a frame to send and the credit to send it (R15). -/
def canTransmit (s : State) (p : Port) : Bool :=
  s.up p && decide (0 < (s.port p).txCredit) && !(s.port p).tx.isEmpty

/-- Whether a frame is a management request the management unit does not take now (R24, R172). -/
def requestWaits (s : State) (p : Port) (f : RxFrame) : Bool :=
  kindOf f.kind == some .mgmtReq && s.role p == .controller && f.dst == Config.switchAddress && !f.payload.isEmpty
    && !takesRequest s p

/-- Whether the dispatcher can take the head frame of port p (R24). -/
def canDispatch (s : State) (p : Port) : Bool :=
  match (s.port p).rx, (s.port p).held with
  | f :: _, none => !requestWaits s p f
  | _, _ => false

/-! ### Timers (R177) -/

/-- A timer moved on by one tick of the time base: a running one comes 1 nearer to its expiry. -/
def tickTimer : Timer → Timer
  | none => none
  | some 0 => some 0
  | some (k + 1) => some k

/-- Whether a timer is due. -/
def due (t : Timer) : Bool := t == some 0

/-- The expiry due at the context of port p. -/
def dueContext (s : State) (p : Port) : Option Instr :=
  match s.context p with
  | none => none
  | some c =>
    if due c.holdTimer && c.state == .holding then some (.holdTimerExpiry p)
    else if due c.handoverTimer then some (.handoverTimerExpiry p)
    else none

/-- The expiry due at a transit entry. -/
def dueEntry (s : State) (t : Tag) : Option Instr :=
  let e := s.entry t
  if e.use.isSome && due e.timer then
    if e.setting then some (.gateAckTimerExpiry t)
    else if e.state == .moving then some (.transitTimerExpiry t)
    else none
  else none

/-- The expiry due at the session of port p. -/
def dueSession (s : State) (p : Port) : Option Instr :=
  match s.session p with
  | none => none
  | some x => if due x.idleTimer then some (.idleTimerExpiry p) else none

/-- The expiry due at the counter unit of port p. -/
def dueUnit (s : State) (p : Port) : Option Instr :=
  match s.unit p with
  | none => none
  | some u => if due u.replyTimer then some (.replyTimerExpiry p) else none

/-- The expiry due at sense input i. -/
def dueInput (s : State) (i : SenseIx) : Option Instr :=
  let x := cell s.cond.inputs i
  if due x.timer && x.state == .debouncing then some (.debounceTimerExpiry i) else none

/-- The first expiry that is due, if any. -/
def dueCommand (s : State) : Option Instr :=
  ((indices 12).findSome? (dueContext s)).or <| ((indices 64).findSome? (dueEntry s)).or <|
    ((indices 12).findSome? (dueSession s)).or <| ((indices 12).findSome? (dueUnit s)).or
      ((indices 8).findSome? (dueInput s))

/-- What the part does of itself, when it has something to do: a transmission, a dispatch, or an expiry that is due. -/
def ownCommand (s : State) : Option Instr :=
  match (indices 12).find? (canTransmit s) with
  | some p => some (.frameTransmit p)
  | none =>
    match (indices 12).find? (canDispatch s) with
    | some p => some (.frameDispatch p)
    | none => dueCommand s

/-- The two timers of a context moved on by one tick. -/
def tickContext (c : Context) : Context :=
  { c with holdTimer := tickTimer c.holdTimer, handoverTimer := tickTimer c.handoverTimer }

/-- A tick of the 1 ms time base: every running timer comes 1 nearer to its expiry (R177). -/
def tick (s : State) : State :=
  { s with
    admission := { s.admission with contexts := mapCells (fun c => c.map tickContext) s.admission.contexts }
    transit := { s.transit with entries := mapCells (fun e => { e with timer := tickTimer e.timer }) s.transit.entries }
    tally := { s.tally with
      sessions := mapCells (fun x => x.map fun y => { y with idleTimer := tickTimer y.idleTimer }) s.tally.sessions }
    vouchers := { s.vouchers with
      units := mapCells (fun u => u.map fun v => { v with replyTimer := tickTimer v.replyTimer }) s.vouchers.units }
    cond := { s.cond with inputs := mapCells (fun x => { x with timer := tickTimer x.timer }) s.cond.inputs } }

end Sys2Proof.Machine
end

