-- ==== Sys2Proof/Machine/Step.lean ====
section
/-! DEFINITION. One step of the part. -/

namespace Sys2Proof.Machine

/-- One step: the command at the front of the queue is taken and executed. With no command waiting, the oldest message
between blocks is taken by its owner; with none of those, the part transmits, dispatches or lets a due timer expire; and with
nothing to do, 1 ms passes (log entries 1 and 3). -/
def step (s : State) : Host.Outcome State Fault Refusal :=
  match s.pending with
  | c :: rest => exec c { s with pending := rest }
  | [] =>
    match s.mail with
    | m :: rest => exec m { s with mail := rest }
    | [] =>
      match ownCommand s with
      | some c => exec c s
      | none => .next (tick s)

/-- The state with the command a table word spells put at the front of its queue. No table word spells a command, since no row
gives bits: the state is unchanged. -/
def State.withFetchWord (s : State) (nbits w : Nat) : State :=
  match Sys2Proof.decodeTableWord nbits w with
  | none => s
  | some c => { s with pending := c :: s.pending }

end Sys2Proof.Machine
end

