-- ==== Sys2Proof/Safety.lean ====
section
/-! DEFINITION. What counts as a sound state of the part: the laws the manual states of its tables, links, vouchers and transit
entries. Each is a predicate on any state, and a run is safe when every state of it keeps them. -/

namespace Sys2Proof.Machine

/-- R36: the article table holds at most 16,384 entries in strictly ascending order of code, none with code 0. -/
def ArticleLaw (s : State) : Prop :=
  s.catalogue.articles.Pairwise (fun a b => a.code < b.code) ∧ (∀ e ∈ s.catalogue.articles, e.code ≠ 0) ∧
    s.catalogue.articles.length ≤ Config.maxArticles

/-- R10 to R16 for one port. In UP the granted, queued and taken counts add up to 8, fewer than 4 are taken, none once the
queue is empty, and at most 16 frames wait to be sent. In every other state both queues are empty and the counts 0. The error
score is at most 16, and below 16 where it still counts; the good-frame count is at most 63, the transmit credit at most
255. -/
def PortLaw (l : LinkPort) : Prop :=
  (l.link = .up → l.granted + l.rx.length + l.taken = 8 ∧ l.taken < 4 ∧ (l.rx = [] → l.taken = 0) ∧ l.tx.length ≤ 16) ∧
  (l.link ≠ .up → l.rx = [] ∧ l.tx = [] ∧ l.granted = 0 ∧ l.taken = 0 ∧ l.txCredit = 0 ∧ l.held = none) ∧
  l.errorScore ≤ 16 ∧ (l.link = .up ∨ l.link = .training → l.errorScore < 16) ∧ l.goodFrames ≤ 63 ∧ l.txCredit ≤ 255

/-- R10 to R16: every port keeps its account. -/
def LinkLaw (s : State) : Prop := ∀ p, PortLaw (s.port p)

/-- R139: a voucher's total is the sum over the schemes of subtotal and bonus. -/
def RecordLaw (r : VoucherRecord) : Prop :=
  r.total = cell r.subtotals 0 + cell r.subtotals 1 + cell r.subtotals 2 + cell r.subtotals 3 +
    (cell r.bonuses 0 + cell r.bonuses 1 + cell r.bonuses 2 + cell r.bonuses 3)

/-- R139 and R140 for one counter unit: at most 8 records, none behind the head in state SENT, each total its sum. -/
def UnitLaw (u : CounterUnit) : Prop :=
  u.queue.length ≤ 8 ∧ (∀ r ∈ u.queue.tail, r.state = .queued) ∧ ∀ r ∈ u.queue, RecordLaw r

/-- R139 and R140: every voucher queue keeps its law. -/
def VoucherLaw (s : State) : Prop := ∀ p u, s.unit p = some u → UnitLaw u

/-- R102 and R106 for one transit entry: a FREE entry holds no fields of a use; in use, the ack set is a set of the route's
hops, the refusal set is empty (the first refusal frees the entry), and a RELEASE is held, or has been sent, only when every
hop has acknowledged. -/
def EntryLaw (e : Entry) : Prop :=
  (e.state = .free ↔ e.use = none) ∧
  ∀ u, e.use = some u →
    u.ack &&& ~~~(allHops u.route.length) = 0 ∧ u.refusal = 0 ∧
      (e.state = .releaseSent ∨ e.state = .moving ∨ e.heldRelease = true → u.ack = allHops u.route.length)

/-- R102 and R106: every transit entry keeps its law. -/
def TransitLaw (s : State) : Prop := ∀ t, EntryLaw (s.entry t)

/-- R63: a container's split adds up to its credit. -/
def CreditLaw (c : ContainerCredit) : Prop := (c.split.map (·.2)).sum = c.credit

/-- R121: a session's total is the sum of its four subtotals; the posting it carries has its split. -/
def SessionLaw (x : Session) : Prop := x.total = sumSchemes x.subtotals ∧ ∀ g, x.carried = some g → CreditLaw g.credit

/-- R63: a message that carries a credit carries its split. -/
def MessageLaw : Instr → Prop
  | .posting g => CreditLaw g.credit
  | .containerRecord _ _ r => CreditLaw r.cargo.credit
  | _ => True

/-- R63 and R121: every session's total is the sum of its subtotals, and every credit on its way to a session, in a context, a
transit entry or a message, has its split. -/
def MoneyLaw (s : State) : Prop :=
  (∀ p x, s.session p = some x → SessionLaw x) ∧
  (∀ p c k, s.context p = some c → c.credit = some k → CreditLaw k) ∧
  (∀ t r, (s.entry t).record = some r → CreditLaw r.credit) ∧
  (∀ m ∈ s.mail, MessageLaw m) ∧ ∀ m ∈ s.pending, MessageLaw m

/-- R81, R83 and R98: every line names distinct segments, and every entry of the hold queue names a usable line and carries
its segment list. -/
def HoldLaw (s : State) : Prop :=
  (∀ l, (s.line l).record.segments.Nodup) ∧
  ∀ e ∈ s.lines.holdQueue, usable (s.line e.line) = true ∧ e.segments = (s.line e.line).record.segments

/-- Space held on a line's segments under one tag, from its grant (R94) to its release (R95). -/
structure Reservation where
  tag      : Tag
  gen      : Gen
  line     : LineIx
  pitch    : Nat
  segments : List SegIx
  deriving DecidableEq, Repr

/-- The reservation of a transit entry in use. -/
def entryReservation (s : State) (t : Tag) : Option Reservation :=
  (s.entry t).use.map fun u => ⟨t, (s.entry t).gen, u.line, u.pitch, u.segments⟩

/-- The reservation of a message: of a claim the transit table has not taken, or of a release notice the line unit has not
taken. -/
def messageReservation : Instr → Option Reservation
  | .claim c => some ⟨c.tag, c.gen, c.line, c.pitch, c.segments⟩
  | .releaseNotice t g l n segments => some ⟨t, g, l, n, segments⟩
  | _ => none

/-- Every reservation that stands: of the transit entries in use, and on its way to or from them. -/
def reservations (s : State) : List Reservation :=
  (indices 64).filterMap (entryReservation s) ++ s.mail.filterMap messageReservation

/-- R91 and R92: each reservation is the only one of its tag, which the free-entry record holds as not free, in the same
generation; the reserved count of a segment is the sum of the pitches of the reservations on it, and the live count of a line
the number of its reservations. -/
def SpaceLaw (s : State) : Prop :=
  ((reservations s).map (·.tag)).Nodup ∧
  (∀ r ∈ reservations s, cell s.lines.tags r.tag = ⟨false, r.gen⟩ ∧ r.segments.Nodup) ∧
  (∀ g, (cell s.lines.segments g).reserved = (((reservations s).filter fun r => decide (g ∈ r.segments)).map (·.pitch)).sum) ∧
  ∀ l, (s.line l).live = ((reservations s).filter fun r => decide (r.line = l)).length

/-- The laws together. -/
def Sound (s : State) : Prop :=
  ArticleLaw s ∧ LinkLaw s ∧ VoucherLaw s ∧ TransitLaw s ∧ MoneyLaw s ∧ HoldLaw s ∧ SpaceLaw s

/-- The values the tariff lock protects, less the credit limits (R49). -/
def protectedValues (s : State) : Vector TariffClass 32 × Vector Nat 4 × Key :=
  (s.catalogue.classes, s.catalogue.rates, s.catalogue.code)

/-- Whether a message is a posting. -/
def isPosting : Instr → Bool
  | .posting _ => true
  | _ => false

/-- A controller port whose requests are taken at once, and whose replies join the transmit queue at once (R172): it is UP
with the role CONTROLLER, its transmit queue has a place, its reply slot is empty, no save reply is owed, and no request is
being carried out. -/
def ServesRequests (s : State) (p : Port) : Prop :=
  s.role p = .controller ∧ s.up p = true ∧ (s.port p).tx.length < 16 ∧ s.slot p = .empty ∧ s.mail.any keepsOthersOut = false

/-- A request is answered: the next state is t with a MGMT_REPLY of this status and data, under the request's tag, at the tail
of the transmit queue of its port (R172). -/
def Answers (c : Instr) (r : Requester) (status : Status) (data : ReplyData) (s t : State) : Prop :=
  exec c s = .next (enqueue t r.port (.mgmtReply ⟨r.tag, status, data⟩))

end Sys2Proof.Machine
end

