-- ==== Sys2Proof/Certificates/Slice0/Obligations.lean ====
section
/-! DEFINITION. The statements for the provers. A statement of a command's effect names the next state in full: whatever it does
not name stands as it was. The operations it names (`dropHead`, `addError`, `offerList`, `moveContext`, …) each have a
statement of their own, or say in their definition what they change. -/

section
open Sys2Proof Sys2Proof.Machine Host

/-! ### The machine as a whole -/

/-- With a command waiting, a step takes the front of the queue and executes it with the rest in place. -/
def Obligations.StepRunsTheFrontCommand : Prop :=
  ∀ (c : Instr) (rest : List Instr) (s : State), step { s with pending := c :: rest } = exec c { s with pending := rest }

/-- With no command waiting, a step takes the oldest message between blocks; with no message either, and nothing the part can do
of itself, 1 ms passes: only timers change, each by one tick (log entries 1 and 3). -/
def Obligations.StepWithoutACommand : Prop :=
  ∀ s : State, s.pending = [] →
    (∀ (m : Instr) (rest : List Instr), s.mail = m :: rest → step s = exec m { s with mail := rest }) ∧
    (s.mail = [] → (∀ c, ownCommand s = some c → step s = exec c s) ∧
      (ownCommand s = none → ∃ t, step s = .next t ∧
        { t with admission := s.admission, transit := s.transit, tally := s.tally, vouchers := s.vouchers, cond := s.cond }
          = s ∧
        (∀ p, t.context p = (s.context p).map fun c =>
          { c with holdTimer := tickTimer c.holdTimer, handoverTimer := tickTimer c.handoverTimer }) ∧
        (∀ g, t.entry g = { s.entry g with timer := tickTimer (s.entry g).timer }) ∧
        (∀ p, t.session p = (s.session p).map fun x => { x with idleTimer := tickTimer x.idleTimer }) ∧
        (∀ p, t.unit p = (s.unit p).map fun u => { u with replyTimer := tickTimer u.replyTimer }) ∧
        (∀ i, cell t.cond.inputs i = { cell s.cond.inputs i with timer := tickTimer (cell s.cond.inputs i).timer }) ∧
        t.admission.roomStop = s.admission.roomStop ∧ t.transit.backlog = s.transit.backlog ∧
        t.tally.closingWait = s.tally.closingWait ∧ t.vouchers.number = s.vouchers.number ∧
        t.vouchers.reports = s.vouchers.reports ∧ { t.cond with inputs := s.cond.inputs } = s.cond))

/-- Every command completes, in every state, and leaves the queue of waiting commands alone. -/
def Obligations.EveryCommandCompletes : Prop :=
  ∀ (c : Instr) (s : State), ∃ t, exec c s = .next t ∧ t.pending = s.pending

/-- The state after reset keeps every law of Safety.lean. -/
def Obligations.ResetIsSound : Prop := Sound State.reset

/-! ### Links (chapter 1) -/

/-- R4, R5, R7, R10 and R16. Signal detect takes a port in DOWN to TRAINING, with score, counts, queues and credits at 0; signal
loss takes one in TRAINING, UP or FAULTED to DOWN, flushed; in every other state a port records the carrier alone. An error
adds 1 to the score, which stays at most 16; the score that reaches 16 takes a port in TRAINING or UP to FAULTED, flushed,
with LINK_FAULT. A port that was UP leaves UP. The 64th good frame takes 1 from the score. -/
def Obligations.LinkStatesMove : Prop :=
  (∀ (s : State) (p : Port),
     let l := s.port p
     let flush : LinkPort := { l with rx := [], tx := [], granted := 0, taken := 0, txCredit := 0, held := none }
     exec (.signalDetect p) s = .next (s.setPort p
       (if l.link = .down then { flush with carrier := true, link := .training, errorScore := 0, goodFrames := 0 }
        else { l with carrier := true })) ∧
     exec (.signalLoss p) s = .next
       (if l.link = .training ∨ l.link = .faulted then s.setPort p { flush with carrier := false, link := .down }
        else if l.link = .up then departure p (s.setPort p { flush with carrier := false, link := .down })
        else s.setPort p { l with carrier := false })) ∧
  (∀ (s : State) (p : Port),
     let l := s.port p
     let f : LinkPort := { l with
       link := .faulted, errorScore := 16, rx := [], tx := [], granted := 0, taken := 0, txCredit := 0, held := none }
     (l.errorScore < 15 → addError p s = s.setPort p { l with errorScore := l.errorScore + 1 }) ∧
     (15 ≤ l.errorScore → l.link = .training → addError p s = (s.request .linkFault).setPort p f) ∧
     (15 ≤ l.errorScore → l.link = .up → addError p s = departure p ((s.request .linkFault).setPort p f)) ∧
     (15 ≤ l.errorScore → l.link ≠ .training → l.link ≠ .up → addError p s = s.setPort p { l with errorScore := 16 }) ∧
     countGood l = (if l.goodFrames < 63 then { l with goodFrames := l.goodFrames + 1 }
       else { l with goodFrames := 0, errorScore := l.errorScore - 1 }))

/-- R6, R16 and R17: what a port that leaves UP, enters it, or sees its station restart tells the owner blocks of its role. A
port that leaves UP first loses its clear backlog (R110), and each PASS of a station held for it is offered again, refused
NOT_UP, and ends as R31 says (log entries 1 and 36); a PASS of a CONTROLLER port stays held (section 2's worked example, step
8). -/
def Obligations.OwnersAreToldOfThePort : Prop :=
  (∀ (s : State) (p : Port),
     let b := endHolds p { s with transit := { s.transit with backlog := put s.transit.backlog p [] } }
     (s.role p = .unused → departure p s = b) ∧
     (s.role p = .intake → departure p s = (evalOutputs (clearOwed p b)).post (.intakeDeparture p)) ∧
     (s.role p = .sorter → departure p s = { b with mail := b.mail ++ [.sorterDownReport p, .portEventReport p] }) ∧
     (s.role p = .bin → departure p s = { b with mail := b.mail ++ [.portEventReport p] }) ∧
     (s.role p = .counter → departure p s = { b with mail := b.mail ++ [.counterPortReport p false] }) ∧
     (s.role p = .controller → departure p s = emptyReports p (dropReplies p (setQueued b p false)))) ∧
  (∀ (s : State) (p : Port), emptyReports p (dropReplies p (setQueued s p false)) = { s with
     vouchers := { s.vouchers with reports := put s.vouchers.reports p [] }
     faults := { s.faults with reports := put s.faults.reports p [] }
     cond := { s.cond with queued := put s.cond.queued p false }
     mgmt := { s.mgmt with
       slots := put s.mgmt.slots p ⟨none, if (s.slot p).carried = .none then .none else .orphaned, none⟩
       save := s.mgmt.save.map fun v =>
         if (v.requester.any fun r => r.port == p) = true then { v with requester := none } else v } }) ∧
  (∀ (s : State) (p : Port), endHolds p s = (indices 12).foldl (endHold p) s ∧
     ∀ q : Port,
       (s.role q = .controller ∨ (s.port q).held ≠ some .pass ∨ (s.port q).rx = [] ∨
         (∃ f rest, (s.port q).rx = f :: rest ∧ f.dst.val ≠ p.val) → endHold p s q = s) ∧
       ∀ f rest, s.role q ≠ .controller → (s.port q).held = some .pass → (s.port q).rx = f :: rest → f.dst.val = p.val →
         (s.port p).link ≠ .up → endHold p s q = dropHead q (s.request .undeliverable)) ∧
  (∀ (s : State) (p : Port),
     (s.role p = .intake → arrivalReports p s = (evalOutputs s).post (.intakeArrival p false) ∧
       restartReports p s = { s with mail := s.mail ++ [.intakeArrival p true, .portEventReport p] }) ∧
     (s.role p = .sorter ∨ s.role p = .bin → arrivalReports p s = { s with mail := s.mail ++ [.portEventReport p] } ∧
       restartReports p s = { s with mail := s.mail ++ [.portEventReport p] }) ∧
     (s.role p = .counter → arrivalReports p s = { s with mail := s.mail ++ [.counterPortReport p true] } ∧
       restartReports p s = (restartUnit p s).post (.portEventReport p)) ∧
     (s.role p = .controller → arrivalReports p s = setQueued s p false ∧
       restartReports p s = { s with mail := s.mail ++ [.portEventReport p] }))

/-- R5, R6 and R17, with log entry 11 for the station code. A valid ANNOUNCE (addressed to 15, three payload bytes, one of the
five roles other than UNUSED, credits 0 to 15) of the port's own role brings a port in TRAINING to UP and restarts one in UP;
one of another role faults the port. One that is not valid adds 1 to the error score in TRAINING and UP; in every other link
state an ANNOUNCE changes nothing. -/
def Obligations.AnnouncesAreTaken : Prop :=
  (∀ (s : State) (p : Port) (f : RxFrame) (role : Role) (r c st : Byte),
     f.dst = 15 → f.payload = [r, c, st] → decodeName roles r.toNat = some role → role ≠ .unused → c.toNat ≤ 15 →
     let l : LinkPort := { countGood (s.port p) with stationCode := st }
     let bad : LinkPort := { l with
       link := .faulted, rx := [], tx := [], granted := 0, taken := 0, txCredit := 0, held := none }
     ((s.port p).link = .training → role = s.role p →
       exec (.announce p f) s = .next (arrivalReports p (s.setPort p { l with
         link := .up, rx := [], granted := 8, taken := 0, txCredit := c.toNat, sent := l.sent ++ [.announce role 8] }))) ∧
     ((s.port p).link = .up → role = s.role p →
       exec (.announce p f) s = .next (restartReports p (s.setPort p { l with
         granted := 8 - l.rx.length, taken := 0, txCredit := c.toNat,
         sent := l.sent ++ [.announce role (8 - l.rx.length)] }))) ∧
     ((s.port p).link = .training → role ≠ s.role p →
       exec (.announce p f) s = .next ((s.request .roleMismatch).setPort p bad)) ∧
     ((s.port p).link = .up → role ≠ s.role p →
       exec (.announce p f) s = .next (departure p ((s.request .roleMismatch).setPort p bad)))) ∧
  (∀ (s : State) (p : Port) (f : RxFrame),
     ((s.port p).link ≠ .training → (s.port p).link ≠ .up → exec (.announce p f) s = .next s) ∧
     ((s.port p).link = .training ∨ (s.port p).link = .up →
       (f.dst ≠ 15 ∨ f.payload.length ≠ 3 ∨
         (∃ r c st, f.payload = [r, c, st] ∧ (r.toNat = 0 ∨ 5 < r.toNat ∨ 15 < c.toNat))) →
       exec (.announce p f) s = .next (addError p s)))

/-- R4, R5, R11 and R13. A CREDIT of 1 to 15 taken in UP against a grant is a good frame, adds its count to the transmit credit,
held at 255, and its grant is taken. Without a grant it is an overrun; a malformed one is an error whose grant is taken after
it, while the port is still UP (log entry 16); in TRAINING it is a good frame without effect (log entry 11); in every other
state it changes nothing. The CREDIT that gives the grant back is sent at once (log entry 38). -/
def Obligations.CreditsAreTaken : Prop :=
  (∀ (s : State) (p : Port) (f : RxFrame) (n : Byte), (s.port p).link = .up → 0 < (s.port p).granted → f.payload = [n] →
     1 ≤ n.toNat → n.toNat ≤ 15 →
     let l := countGood (s.port p)
     exec (.credit p f) s = .next (s.setPort p (
       let m : LinkPort := { l with
         txCredit := min (l.txCredit + n.toNat) 255, granted := l.granted - 1, taken := l.taken + 1 }
       if 4 ≤ m.taken ∨ m.rx = [] then
         { m with granted := m.granted + m.taken, taken := 0, sent := m.sent ++ [.credit m.taken] }
       else m))) ∧
  (∀ (s : State) (p : Port) (f : RxFrame),
     ((s.port p).link = .up → (s.port p).granted = 0 → exec (.credit p f) s = .next (addError p (s.request .overrun))) ∧
     ((s.port p).link = .up → 0 < (s.port p).granted →
       (f.payload.length ≠ 1 ∨ ∃ n, f.payload = [n] ∧ (n.toNat = 0 ∨ 15 < n.toNat)) →
       exec (.credit p f) s = .next
         (takeGrant p (addError p (s.setPort p { s.port p with granted := (s.port p).granted - 1 })))) ∧
     ((s.port p).link = .training → exec (.credit p f) s = .next (s.setPort p (countGood (s.port p)))) ∧
     ((s.port p).link = .disabled ∨ (s.port p).link = .down ∨ (s.port p).link = .faulted →
       exec (.credit p f) s = .next s))

/-- R9, R11 and R12. A frame received in UP uses a grant, or is an overrun; one that passes the check and is not a link control
frame joins the receive queue, and one that fails it is an error, with MGMT_CHECK when it names a MGMT_REQ. An overrun is not
checked, and the error of a failing frame comes before its grant (log entry 16); every frame in UP is charged to the grant (log
entry 37). A frame that leaves the head of the queue raises the taken count; at 4, or with the queue empty, the port sends a
CREDIT with the count, at once (log entry 38), and grants it again. A frame passes the check exactly when it is a header of 5
bytes, a payload of at most 48 as its length field says, and the check value of both, which is computed byte by byte. -/
def Obligations.FramesAreReceived : Prop :=
  (∀ (s : State) (p : Port) (b : List Byte),
     let l := s.port p
     let failed := if b[1]? = some 0x60 then s.request .mgmtCheck else s
     (l.link = .disabled ∨ l.link = .down ∨ l.link = .faulted → exec (.frameArrival p b) s = .next s) ∧
     (l.link = .training → checkFrame b = none → exec (.frameArrival p b) s = .next (addError p failed)) ∧
     (l.link = .up → checkFrame b = none → exec (.frameArrival p b) s = .next
       (if l.granted = 0 then addError p (s.request .overrun)
        else takeGrant p (addError p (failed.setPort p { l with granted := l.granted - 1 })))) ∧
     ∀ f, checkFrame b = some f →
       (f.kind = 0x01 → exec (.frameArrival p b) s = exec (.announce p f) s) ∧
       (f.kind = 0x02 → exec (.frameArrival p b) s = exec (.credit p f) s) ∧
       (f.kind ≠ 0x01 → f.kind ≠ 0x02 →
         (l.link = .training → exec (.frameArrival p b) s = .next (s.setPort p (countGood l))) ∧
         (l.link = .up → l.granted = 0 → exec (.frameArrival p b) s = .next (addError p (s.request .overrun))) ∧
         (l.link = .up → 0 < l.granted → exec (.frameArrival p b) s = .next (s.setPort p { countGood l with
           granted := l.granted - 1, rx := l.rx ++ [f] })))) ∧
  (∀ (s : State) (p : Port),
     let l : LinkPort := { s.port p with
       rx := (s.port p).rx.tail, held := none, taken := (s.port p).taken + 1 }
     dropHead p s = s.setPort p (if 4 ≤ l.taken ∨ l.rx = [] then
       { l with granted := l.granted + l.taken, taken := 0, sent := l.sent ++ [.credit l.taken] } else l) ∧
     (PortLaw (s.port p) → l.taken ≤ 4)) ∧
  (∀ (b : List Byte) (f : RxFrame), checkFrame b = some f ↔
     f.payload.length ≤ 48 ∧ ∃ src low : BitVec 4,
       let body := [BitVec.ofFin f.dst ++ src, f.kind, f.tag, BitVec.ofFin f.gen ++ low, BitVec.ofNat 8 f.payload.length] ++
         f.payload
       b = body ++ [(checkValue body).extractLsb' 8 8, (checkValue body).extractLsb' 0 8]) ∧
  (let shift (v : BitVec 16) : BitVec 16 := if v.msb then (v <<< 1) ^^^ 0x1021 else v <<< 1
   checkValue [] = 0xFFFF ∧
     ∀ (b : List Byte) (x : Byte), checkValue (b ++ [x]) = shift^[8] (checkValue b ^^^ (x.setWidth 16 <<< 8))) ∧
  checkValue [0x31, 0x32, 0x33, 0x34, 0x35, 0x36, 0x37, 0x38, 0x39] = 0x29B1

/-- R14: the answer of a port to an offer, and a waiting list offered at a notice of a free place: every frame that finds a
place joins the queue in order, the rest waits; a port that is not UP drops it all. -/
def Obligations.OffersFillTheTransmitQueue : Prop :=
  ∀ (s : State) (p : Port),
    offerAnswer s p = (if (s.port p).link ≠ .up then .notUp else if 16 ≤ (s.port p).tx.length then .queueFull
      else .accepted) ∧
    ∀ (α : Type) (frame : α → TxFrame) (l : List α),
      let n := 16 - (s.port p).tx.length
      ((s.port p).link = .up → offerList frame p l s = (l.drop n,
        s.setPort p { s.port p with tx := (s.port p).tx ++ (l.take n).map frame })) ∧
      ((s.port p).link ≠ .up → offerList frame p l s = ([], s))

/-- R15, R14 and R169: a port that is UP with transmit credit sends the head of its transmit queue, and every owner that waits
for a place there is told; a NOTICE sent empties its slot. Else nothing is sent. -/
def Obligations.TransmissionUsesCredit : Prop :=
  ∀ (s : State) (p : Port),
    ((s.port p).link ≠ .up ∨ (s.port p).tx = [] ∨ (s.port p).txCredit = 0 → exec (.frameTransmit p) s = .next s) ∧
    ∀ f rest, (s.port p).link = .up → (s.port p).tx = f :: rest → 0 < (s.port p).txCredit →
      ∃ t : State, exec (.frameTransmit p) s = .next t ∧
        t.port p = { s.port p with
          tx := rest, txCredit := (s.port p).txCredit - 1, sent := (s.port p).sent ++ [f] } ∧
        (∀ q, q ≠ p → t.port q = s.port q) ∧
        t.cond = (match f with
          | .notice _ => { s.cond with queued := put s.cond.queued p false }
          | _ => s.cond) ∧
        (∃ w : List Owner, t.mail = s.mail ++ w.map (Instr.placeFree p) ∧ w.Nodup ∧ ∀ o, o ∈ w ↔ ownerWaits s p o = true) ∧
        { t with ports := s.ports, cond := s.cond, mail := s.mail } = s

/-! ### Frames and their dispatch (chapter 2) -/

/-- R25 and R24: the tests on the head frame, the first that applies deciding. A frame discarded leaves the queue with its
condition; a station frame is handed to its owner block as a command with its source port (R18). A MGMT_REQ whose form is
refused is answered at once, an article operation with the count (R36). A queue whose head is held, or that is empty, is left. -/
def Obligations.HeadFrameIsDispatched : Prop :=
  ∀ (s : State) (p : Port),
    ((s.port p).rx = [] ∨ (s.port p).held ≠ none → exec (.frameDispatch p) s = .next s) ∧
    ∀ f rest, (s.port p).rx = f :: rest → (s.port p).held = none →
      let refused (c : Condition) := exec (.frameDispatch p) s = .next (dropHead p (s.request c))
      let accepted : List Byte := match s.role p with
        | .unused => []
        | .intake => [0x10, 0x11, 0x12, 0x13, 0x14, 0x15, 0x16]
        | .sorter => [0x32, 0x33]
        | .bin => [0x40, 0x41]
        | .counter => [0x51]
        | .controller => [0x60]
      (kindOf f.kind = none → refused .kindRefused) ∧
      (f.kind = 0x60 → s.role p ≠ .controller → refused .mgmtForeign) ∧
      (f.kind = 0x70 → exec (.frameDispatch p) s = exec (.pass p) s) ∧
      (f.kind ≠ 0x70 → (f.kind = 0x60 → s.role p = .controller) → f.dst ≠ 15 ∨ f.kind ∉ accepted → refused .kindRefused) ∧
      (f.dst = 15 → f.kind ∈ accepted → f.kind ≠ 0x60 → ∀ k, kindOf f.kind = some k →
        (stationCommand p k f = none → refused .kindRefused) ∧
        ∀ i, stationCommand p k f = some i → exec (.frameDispatch p) s = .next ((dropHead p s).post i)) ∧
      (f.dst = 15 → f.kind = 0x60 → s.role p = .controller →
        (f.payload = [] → refused .kindRefused) ∧
        (f.payload ≠ [] → takesRequest s p = false → exec (.frameDispatch p) s = .next s) ∧
        (f.payload ≠ [] → takesRequest s p = true →
          let t := (dropHead p s).setSlot p { s.slot p with carried := .carrying }
          (∀ st, requestOf ⟨p, f.tag⟩ f.payload = .refused st →
            exec (.frameDispatch p) s = .next (placeReply ⟨p, f.tag⟩ st (match f.payload with
              | [] => .none
              | op :: _ => if 2 ≤ op.toNat ∧ op.toNat ≤ 7 then .article none none s.catalogue.articles.length else .none) t)) ∧
          ∀ i, requestOf ⟨p, f.tag⟩ f.payload = .command i → exec (.frameDispatch p) s = .next (t.post i)))

/-- R21, R27 and R173 to R175: the form checks of the station frames, and the commands of those that pass them; and the payload
of a MGMT_REQ, form by form: the command it gives, or the status that refuses its operation, its table or its length. The bytes
of a sense and an output function rest on log entry 9, those of a lock record on log entry 14, the answer to an unknown control
on log entry 21 and the one byte of a rate on log entry 39. -/
def Obligations.StationFramesAreRead : Prop :=
  ∀ (p : Port) (d : Fin 16) (g : Gen) (k tag : Byte),
    let frame (payload : List Byte) : RxFrame := ⟨d, k, tag, g, payload⟩
    let key (x : Key) : List Byte := (List.range 16).map fun i => x.extractLsb' (8 * (15 - i)) 8
    (∀ (q c5 c4 c3 c2 c1 c0 sh m mk w1 w0 : Byte) (shape : Shape) (mark : Mark) (material : Option Material),
      decodeName shapes sh.toNat = some shape → decodeName marks mk.toNat = some mark →
      (m = 6 ∧ material = none ∨ ∃ x, decodeName materials m.toNat = some x ∧ material = some x) →
      let code : ArticleCode := c5 ++ c4 ++ c3 ++ c2 ++ c1 ++ c0
      let x : Sighting := ⟨q, code, shape, material, mark, (w1 ++ w0).toFin, none⟩
      stationCommand p .sighting (frame [q, c5, c4, c3, c2, c1, c0, sh, m, mk, w1, w0]) = some (.sighting p x) ∧
      ∀ n : Byte, stationCommand p .sighting (frame [q, c5, c4, c3, c2, c1, c0, sh, m, mk, w1, w0, n]) =
        some (.sighting p { x with count := if shape = .crate then some n.toFin else none })) ∧
    (∀ q c5 c4 c3 c2 c1 c0 sh m mk w1 w0 : Byte, (4 < sh.toNat ∨ 6 < m.toNat ∨ 2 < mk.toNat) →
      stationCommand p .sighting (frame [q, c5, c4, c3, c2, c1, c0, sh, m, mk, w1, w0]) = none ∧
      ∀ n, stationCommand p .sighting (frame [q, c5, c4, c3, c2, c1, c0, sh, m, mk, w1, w0, n]) = none) ∧
    (∀ b, stationCommand p .sighting (frame b) ≠ none → b.length = 12 ∨ b.length = 13) ∧
    (∀ b, stationCommand p .dropped (frame b) = match b with | [q] => some (.dropped p q) | _ => none) ∧
    (∀ b, stationCommand p .withdrawn (frame b) = match b with | [q] => some (.withdrawn p q) | _ => none) ∧
    (∀ b, stationCommand p .returned (frame b) = match b with | [q] => some (.returned p q) | _ => none) ∧
    (∀ b, stationCommand p .present (frame b) = if b = [] then some (.present p) else none) ∧
    (∀ b, stationCommand p .finish (frame b) = if b = [] then some (.finish p) else none) ∧
    (∀ (n : FaultNo) (c : Byte), stationCommand p .headFault (frame [BitVec.ofNat 8 n.val, c]) =
      if 22 ≤ n.val then some (.headFault p n c) else none) ∧
    (∀ b, stationCommand p .headFault (frame b) ≠ none → ∃ n c, b = [n, c] ∧ 22 ≤ n.toNat ∧ n.toNat ≤ 31) ∧
    (∀ b, stationCommand p .gateAck (frame b) ≠ none →
      tag.toNat ≤ 63 ∧ ∃ h r, b = [h, r] ∧ h.toNat ≤ 5 ∧ r.toNat ≤ 3) ∧
    (∀ b, stationCommand p .passage (frame b) ≠ none → tag.toNat ≤ 63 ∧ ∃ i, b = [i] ∧ i.toNat ≤ 3) ∧
    (∀ b, stationCommand p .arrival (frame b) ≠ none → tag.toNat ≤ 63 ∧ b = []) ∧
    (∀ b, stationCommand p .voucherDone (frame b) ≠ none → ∃ n1 n0 r, b = [n1, n0, r] ∧ r.toNat ≤ 2) ∧
    (∀ (t : Tag) (h : HopIx) (r : Fin 4), tag.toNat = t.val →
      stationCommand p .gateAck (frame [BitVec.ofNat 8 h.val, BitVec.ofNat 8 r.val]) =
        (gateResults[r.val]?).map (.gateAck p t g h)) ∧
    (∀ (t : Tag) (i : Gate), tag.toNat = t.val →
      stationCommand p .passage (frame [BitVec.ofNat 8 i.val]) = some (.passage p t g i)) ∧
    (∀ t : Tag, tag.toNat = t.val → stationCommand p .arrival (frame []) = some (.arrival p t g)) ∧
    (63 < tag.toNat → ∀ b, stationCommand p .gateAck (frame b) = none ∧ stationCommand p .passage (frame b) = none ∧
      stationCommand p .arrival (frame b) = none) ∧
    (∀ b, stationCommand p .fill (frame b) = match b with | [v] => some (.fill p v.toFin) | _ => none) ∧
    (∀ (n1 n0 : Byte) (r : Fin 3), stationCommand p .voucherDone (frame [n1, n0, BitVec.ofNat 8 r.val]) =
      (voucherResults[r.val]?).map (.voucherDone p (n1 ++ n0).toFin)) ∧
    ∀ r : Requester,
      let refused (b : List Byte) (st : Status) : Prop := requestOf r b = .refused st
      let gives (b : List Byte) (i : Instr) : Prop := requestOf r b = .command i
      -- an operation that is none, and operands of the wrong length
      refused [] .badValue ∧
      (∀ (op : Byte) x, 18 < op.toNat → refused (op :: x) .badValue) ∧
      (∀ (op : Byte) x n, (op, n) ∈ [(4#8, 6), (5, 6), (6, 2), (7, 0), (8, 16), (9, 0), (10, 3), (11, 1), (12, 2), (13, 2), (14, 2),
        (15, 1), (17, 0), (18, 0)] → x.length ≠ n → refused (op :: x) .badValue) ∧
      -- READ_ENTRY, WRITE_ENTRY and READ_STATE: the table or target, then the length
      refused [0] .badValue ∧ refused [1] .badValue ∧ refused [16] .badValue ∧
      (∀ (t : Byte) x,
        (12 < t.toNat → refused (0 :: t :: x) .badTable ∧ refused (1 :: t :: x) .badTable) ∧
        (t.toNat ≤ 12 → x.length ≠ 1 → refused (0 :: t :: x) .badValue) ∧
        (6 < t.toNat → refused (16 :: t :: x) .badTable) ∧
        (t.toNat ≤ 6 → x.length ≠ 2 → refused (16 :: t :: x) .badValue) ∧
        ∀ n, (t, n) ∈ [(0#8, 10), (1, 2), (2, 2), (3, 1), (4, 3), (5, 1), (7, 1), (8, 4), (9, 4), (10, 4), (11, 3), (12, 16)] →
          x.length ≠ n + 1 → refused (1 :: t :: x) .badValue) ∧
      (∀ t i : Byte, t.toNat < 12 → gives [0, t, i] (.readEntry r t.toNat i.toNat)) ∧
      (∀ i : Byte, gives [0, 12, i] (.lockRecordRead r i.toNat)) ∧
      (∀ t i q : Byte, t.toNat ≤ 6 → gives [16, t, i, q] (.readState r t.toNat i.toNat q.toNat)) ∧
      -- the written fields of each table
      (∀ i : Byte,
        (∀ a b c l2 l1 l0 t1 t0 h1 h0 : Byte, gives [1, 0, i, a, b, c, l2, l1, l0, t1, t0, h1, h0] (.portWrite r i.toNat
          ⟨a.toNat, b.toNat, c.toNat, (l2 ++ l1 ++ l0).toNat, (t1 ++ t0).toInt, (h1 ++ h0).toNat⟩)) ∧
        (∀ v1 v0 : Byte, gives [1, 1, i, v1, v0] (.timerWrite r i.toNat (v1 ++ v0).toNat) ∧
          gives [1, 2, i, v1, v0] (.materialWrite r i.toNat (v1 ++ v0).toNat)) ∧
        (∀ v : Byte, gives [1, 3, i, v] (.pitchWrite r i.toNat v.toNat) ∧ gives [1, 5, i, v] (.schemeWrite r i.toNat v.toNat) ∧
          gives [1, 7, i, v] (.segmentWrite r i.toNat v.toNat)) ∧
        (∀ d1 d0 k : Byte, gives [1, 4, i, d1, d0, k] (.classWrite r i.toNat (d1 ++ d0).toFin k.toNat)) ∧
        (∀ a b c d : Byte,
          gives [1, 8, i, a, b, c, d] (.dispositionWrite r i.toNat ⟨a.toNat, b.toNat, c.toNat, d.toNat⟩) ∧
          gives [1, 9, i, a, b, c, d] (.senseWrite r i.toNat ⟨a.toNat, b.toNat, (c ++ d).toNat⟩) ∧
          gives [1, 10, i, a, b, c, d] (.outputWrite r i.toNat ⟨a.toNat, b.toNat, c.toNat, d.toNat⟩)) ∧
        (∀ m2 m1 m0 : Byte, gives [1, 11, i, m2, m1, m0] (.maskWrite r i.toNat (m2 ++ m1 ++ m0))) ∧
        (∀ k : Key, gives ([1, 12, i] ++ key k) (.lockRecordWrite r i.toNat k)) ∧
        refused [1, 6] .badValue ∧
        let line (x : LineFields) (b : List Byte) : Prop :=
          ∃ (route : List (Byte × Byte × Byte)) (segments : List Byte) (bin alt mat near full l1 l0 : Byte),
            route.length ≤ 255 ∧ segments.length ≤ 255 ∧
            b = [BitVec.ofNat 8 route.length] ++ route.flatMap (fun h => [h.1, h.2.1, h.2.2]) ++
              [BitVec.ofNat 8 segments.length] ++ segments ++ [bin, alt, mat, near, full, l1, l0] ∧
            x = ⟨route.map fun h => (h.1.toNat, h.2.1.toNat, h.2.2.toNat), segments.map (·.toNat), bin.toNat, alt.toNat,
              mat.setWidth 6, near.toNat, full.toNat, (l1 ++ l0).toNat⟩
        (∀ x b, line x b → gives ([1, 6, i] ++ b) (.lineWrite r i.toNat x)) ∧
        ∀ b, (∀ x, ¬ line x b) → refused ([1, 6, i] ++ b) .badValue) ∧
      -- the article operations
      (∀ c5 c4 c3 c2 c1 c0 : Byte, let code : ArticleCode := c5 ++ c4 ++ c3 ++ c2 ++ c1 ++ c0
        gives [4, c5, c4, c3, c2, c1, c0] (.articleDelete r code) ∧ gives [5, c5, c4, c3, c2, c1, c0] (.articleFind r code) ∧
        ∀ d m sh a1 a0 b1 b0 l fl : Byte,
          let entry (rest : List Byte) := [c5, c4, c3, c2, c1, c0, d, m, sh, a1, a0, b1, b0, l, fl] ++ rest
          let fields (crate : Option CrateFields) : ArticleFields := ⟨code, d.toNat, m.toNat, sh.toNat, (a1 ++ a0).toFin,
            (b1 ++ b0).toFin, l.toNat, fl.getLsbD 0, fl.getLsbD 1, fl.getLsbD 2, crate⟩
          (sh ≠ 3 → gives (2 :: entry []) (.articleInsert r (fields none)) ∧
            gives (3 :: entry []) (.articleReplace r (fields none))) ∧
          (∀ k n m1 m0 x1 x0 : Byte, sh = 3 →
            let crate : Option CrateFields := some ⟨k.toNat, n.toNat, (m1 ++ m0).toNat, (x1 ++ x0).toNat⟩
            gives (2 :: entry [k, n, m1, m0, x1, x0]) (.articleInsert r (fields crate)) ∧
              gives (3 :: entry [k, n, m1, m0, x1, x0]) (.articleReplace r (fields crate))) ∧
          ∀ x, x.length ≠ (if sh = 3 then 6 else 0) → refused (2 :: entry x) .badValue ∧ refused (3 :: entry x) .badValue) ∧
      (∀ x : List Byte, x.length < 15 → refused (2 :: x) .badValue ∧ refused (3 :: x) .badValue) ∧
      (∀ p1 p0 : Byte, gives [6, p1, p0] (.articleRead r (p1 ++ p0).toNat)) ∧
      gives [7] (.articleClear r) ∧ (∀ k : Key, gives ([8] ++ key k) (.unlock r k)) ∧ gives [9] (.relock r) ∧
      -- the conditions, the controls, the resets and the save
      (∀ b2 b1 b0 : Byte, gives [10, b2, b1, b0] (.clearConditions r (b2 ++ b1 ++ b0))) ∧
      (∀ b : Byte, gives [11, b] (.clearSense r b)) ∧
      (∀ q op : Byte, let unknown (limit : Nat) : Status := if limit ≤ q.toNat then .badIndex else .badValue
        gives [12, q, 0] (.intakeResume r q.toNat) ∧ gives [12, q, 1] (.intakeStopControl r q.toNat) ∧
        gives [12, q, 2] (.clearFault r q.toNat) ∧ gives [13, q, 0] (.portEnable r q.toNat) ∧
        gives [13, q, 1] (.portDisable r q.toNat) ∧ gives [13, q, 2] (.portReset r q.toNat) ∧
        gives [14, q, 0] (.lineEnable r q.toNat) ∧ gives [14, q, 1] (.lineDisable r q.toNat) ∧
        (2 < op.toNat → refused [12, q, op] (unknown 12) ∧ refused [13, q, op] (unknown 12)) ∧
        (1 < op.toNat → refused [14, q, op] (unknown 8)) ∧
        gives [15, q] (.counterResume r q.toNat)) ∧
      gives [17] (.softReset r) ∧ gives [18] (.storeSave r)

/-- R28, R29 and R31: the PASS at the head of port p's receive queue, new or held. It joins the transmit queue of the port it
names, is held there on QUEUE_FULL, and on NOT_UP, or when it names no port or its own, sets UNDELIVERABLE and goes back to a
controller as an UNDELIVERABLE frame. A place-free notice makes the dispatcher offer what it holds; a held PASS is offered
without judging its destination's role again (log entry 28). -/
def Obligations.PassFramesAreForwarded : Prop :=
  ∀ (s : State) (p : Port) (f : RxFrame) (rest : List RxFrame), (s.port p).rx = f :: rest →
    let back (u : RxFrame) (t : State) : State := match offerAnswer t p with
      | .accepted => dropHead p (enqueue t p (.undeliverable u))
      | .queueFull => t.setPort p { t.port p with held := some (.undeliverable u) }
      | .notUp => dropHead p t
    let failed := let t := s.request .undeliverable; if s.role p = .controller then back f t else dropHead p t
    let forwards :=
      (∀ q : Port, f.dst.val = q.val →
        (q ≠ p → offerAnswer s q = .accepted → exec (.pass p) s = .next (dropHead p (enqueue s q (.pass p f)))) ∧
        (q ≠ p → offerAnswer s q = .queueFull →
          exec (.pass p) s = .next (s.setPort p { s.port p with held := some .pass })) ∧
        (q = p ∨ offerAnswer s q = .notUp → exec (.pass p) s = .next failed)) ∧
      (12 ≤ f.dst.val → exec (.pass p) s = .next failed)
    ((s.port p).held = none → f.kind ≠ 0x70 → exec (.pass p) s = .next s) ∧
    ((s.port p).held = none → f.kind = 0x70 →
      (s.role p = .controller → f.dst = 15 → exec (.pass p) s = .next (dropHead p (s.request .kindRefused))) ∧
      (s.role p ≠ .controller → (∀ q : Port, f.dst.val = q.val → s.role q ≠ .controller) →
        exec (.pass p) s = .next (dropHead p (s.request .kindRefused))) ∧
      (s.role p = .controller → f.dst ≠ 15 → forwards) ∧
      (s.role p ≠ .controller → (∃ q : Port, f.dst.val = q.val ∧ s.role q = .controller) → forwards)) ∧
    ((s.port p).held = some .pass → forwards) ∧
    (∀ u, (s.port p).held = some (.undeliverable u) → exec (.pass p) s = .next (back u s)) ∧
    ∀ q, exec (.placeFree q (.dispatcher p)) s = if waitsFor s q p then exec (.pass p) s else .next s

/-- R14: what an owner block other than the dispatcher does at a place-free notice. The transit table offers a held RELEASE
before the clear backlog of the same port (log entry 50). -/
def Obligations.PlaceFreeOffersAgain : Prop :=
  ∀ (s : State) (p : Port),
    let l := s.port p
    let n := 16 - l.tx.length
    exec (.placeFree p .management) s = .next (offerReplies p s) ∧
    (l.link = .up →
      (∀ c, s.context p = some c → exec (.placeFree p .admission) s = .next
        ((s.setPort p { l with tx := l.tx ++ (c.outbound.take n).map .intake }).setContext p
          (some { c with outbound := c.outbound.drop n }))) ∧
      ((∀ t, (s.entry t).heldRelease = false) → exec (.placeFree p .transit) s = .next
        ((s.setPort p { l with tx := l.tx ++ ((cell s.transit.backlog p).take n).map .gateClear }).setBacklog p
          ((cell s.transit.backlog p).drop n))) ∧
      (∀ t u, (s.entry t).use = some u → (s.entry t).heldRelease = true → u.intake = p →
        (∀ g, g ≠ t → (s.entry g).heldRelease = false) → l.tx.length < 16 →
        let b := cell s.transit.backlog p
        exec (.placeFree p .transit) s = .next ((((s.setPort p { l with
          tx := l.tx ++ .release t (s.entry t).gen u.seq :: (b.take (n - 1)).map .gateClear }).setBacklog p
          (b.drop (n - 1))).setEntry t
          { s.entry t with state := .releaseSent, step := none, heldRelease := false, timer := none }).post
          (.gatesSetReport p t (s.entry t).gen))) ∧
      (∀ x, s.session p = some x → x.owed = true → l.tx.length < 16 → exec (.placeFree p .tally) s = .next
        ((enqueue s p (.tally x.state x.containers x.total)).setSession p (some { x with owed := false }))) ∧
      (exec (.placeFree p .voucherReports) s = .next (
        let r := cell s.vouchers.reports p
        { s.setPort p { l with tx := l.tx ++ (r.take n).map .voucherReport } with
          vouchers := { s.vouchers with reports := put s.vouchers.reports p (r.drop n) } })) ∧
      (exec (.placeFree p .faultReports) s = .next (
        let r := cell s.faults.reports p
        { s.setPort p { l with tx := l.tx ++ (r.take n).map .faultReport } with
          faults := { s.faults with reports := put s.faults.reports p (r.drop n) } }))) ∧
    (∀ x, s.session p = some x → x.owed = false → exec (.placeFree p .tally) s = .next s) ∧
    (∀ u, s.unit p = some u → exec (.placeFree p .counter) s = .next (if u.sendOwed then sendHead p s else s))

/-- R172, R179 and R182: a request is carried out when it is the one its port's slot holds as being carried out, which has
left the messages, or, with none, when the management unit takes it: the port holds CONTROLLER, its slot is EMPTY, no reply is
owed, and no SOFT_RESET or STORE_SAVE waits. That a CONTROLLER port need not be UP for this is the model's choice (log entry
34). One that is not carried out changes nothing (log entry 6). A reply placed in its slot goes to the port when a place is
free, waits in the slot while the queue is full, and is dropped on NOT_UP; a reply for a port that has left UP since the
request was taken is dropped; a save's reply goes after the slot's own, and after that of a request already taken (log entry
53). -/
def Obligations.RepliesGoThroughTheSlot : Prop :=
  ∀ (s : State) (r : Requester) (st : Status) (d : ReplyData) (owner : State → Answer),
    let x := s.slot r.port
    let m : Reply := ⟨r.tag, st, d⟩
    (x.carried = .none → (mayTake s r.port = true ↔ s.role r.port = .controller ∧ x.reply = none ∧ x.owed = none ∧
      (∀ q, .softReset q ∉ s.mail) ∧ ∀ q, .storeSave q ∉ s.mail)) ∧
    (x.carried ≠ .none → (mayTake s r.port = true ↔ ∀ m ∈ s.mail, ∀ q, requesterOf m = some q → q.port ≠ r.port)) ∧
    (mayTake s r.port = false → manage r owner s = s) ∧
    (mayTake s r.port = true →
      manage r owner s = placeReply r (owner s).status (owner s).data (owner s).state) ∧
    (x.carried = .orphaned → placeReply r st d s = s.setSlot r.port { x with carried := .none }) ∧
    (x.carried ≠ .orphaned → x.owed = none → placeReply r st d s = (
      match offerAnswer s r.port with
      | .accepted => (enqueue s r.port (.mgmtReply m)).setSlot r.port ⟨none, .none, none⟩
      | .queueFull => s.setSlot r.port ⟨some m, .none, none⟩
      | .notUp => s.setSlot r.port ⟨none, .none, none⟩)) ∧
    (∀ m' : Reply, x.reply = some m' → x.owed = none → offerReplies r.port s = (
      match offerAnswer s r.port with
      | .accepted => (enqueue s r.port (.mgmtReply m')).setSlot r.port { x with reply := none }
      | .queueFull => s
      | .notUp => s.setSlot r.port { x with reply := none })) ∧
    (∀ m' : Reply, x.reply = none → x.carried = .none → x.owed = some m' → offerReplies r.port s = (
      match offerAnswer s r.port with
      | .accepted => (enqueue s r.port (.mgmtReply m')).setSlot r.port ⟨none, .none, none⟩
      | .queueFull => s.setSlot r.port ⟨some m', .none, none⟩
      | .notUp => s.setSlot r.port ⟨none, .none, none⟩)) ∧
    (x.reply = none → x.carried ≠ .none → offerReplies r.port s = s) ∧
    (∀ m' : Reply, x.carried ≠ .orphaned → x.owed = some m' → placeReply r st d s = (
      let sent := enqueue s r.port (.mgmtReply m)
      match offerAnswer s r.port with
      | .accepted =>
        if offerAnswer sent r.port = .accepted then (enqueue sent r.port (.mgmtReply m')).setSlot r.port ⟨none, .none, none⟩
        else sent.setSlot r.port ⟨some m', .none, none⟩
      | .queueFull => s.setSlot r.port ⟨some m, .none, some m'⟩
      | .notUp => s.setSlot r.port ⟨none, .none, none⟩))

/-! ### Port entries and port control (sections 1.1 and 1.2) -/

/-- R2: the checks of a port write, the first that fails deciding, with nothing written. Check 5 compares the credit limit as it
is offered, before the clamp of check 6 (log entry 27). That an index above 11 is BAD_INDEX whatever the fields hold is the
model's choice (log entry 56). -/
def Obligations.PortWriteIsChecked : Prop :=
  ∀ (s : State) (r : Requester) (i : Nat) (x : PortFields), ServesRequests s r.port →
    (12 ≤ i → Answers (.portWrite r i x) r .badIndex .none s s) ∧
    ∀ p : Port, i = p.val →
      let answered st := Answers (.portWrite r i x) r st .none s s
      let holding (c : Role) := ((indices 12).filter fun q => s.role q == c).length
      (5 < x.role ∨ 1 < x.admin ∨ (11 < x.counterPort ∧ x.counterPort ≠ 255) → answered .badValue) ∧
      ∀ role enabled, decodeName roles x.role = some role → decodeName enables x.admin = some enabled →
        x.counterPort ≤ 11 ∨ x.counterPort = 255 →
        let refused :=
          (role ≠ s.role p ∧ s.up p = true) ∨
          (role = .intake ∧ s.role p ≠ .intake ∧ 8 ≤ holding .intake) ∨
          (role = .counter ∧ s.role p ≠ .counter ∧ 4 ≤ holding .counter) ∨
          (role ≠ .controller ∧ s.role p = .controller ∧ ∀ q, q ≠ p → s.role q ≠ .controller) ∨
          (s.role p = .controller ∧ enabled = false ∧
            ∀ q, q ≠ p → s.role q = .controller → (s.port q).entry.enabled = false)
        (refused → answered .notAllowed) ∧
        (¬ refused → s.catalogue.lock = .locked → x.creditLimit ≠ (s.port p).entry.creditLimit → answered .locked) ∧
        (¬ refused → (s.catalogue.lock = .opened ∨ x.creditLimit = (s.port p).entry.creditLimit) →
          let limit := max 1 (min 999999 x.creditLimit)
          let tare := max (-500) (min 500 x.tare)
          let hold := min 60000 x.holdLimit
          let e : PortEntry := ⟨role, enabled, if h : x.counterPort < 12 then some ⟨x.counterPort, h⟩ else none, limit, tare,
            hold⟩
          exec (.portWrite r i x) s = .next (placeReply r
            (if limit = x.creditLimit ∧ tare = x.tare ∧ hold = x.holdLimit then .done else .doneClamped) .none
            (applyEntry p e s)))

/-- R3, R4 and R129. An accepted write stores the entry; the port goes to DISABLED when it is disabled or UNUSED, to DOWN, and
on by its carrier, when it was disabled before or its role changes, and else keeps its link. A port that was UP leaves UP. A
change of role takes away the per-port state of the old role and brings that of the new one; an intake's context first takes the
departure its port has reported (log entry 2), a session in OPEN or CLOSE_PENDING makes a close attempt, one still in
CLOSING_WAIT stays and is the session of the port that takes INTAKE again (R134), and the records of a counter unit are reported
REFUSED (R146). A change of the counter port field lets a session in CLOSING_WAIT try its close again in the event of the write,
at a port that no longer holds INTAKE too (log entry 33). -/
def Obligations.AcceptedEntriesAreApplied : Prop :=
  (∀ (s : State) (p : Port) (e : PortEntry),
     let old := s.port p
     let off := e.role = .unused ∨ e.enabled = false
     let l : LinkPort := { old with entry := e }
     let flush : LinkPort := { l with rx := [], tx := [], granted := 0, taken := 0, txCredit := 0, held := none }
     let down : LinkPort := if old.carrier then { flush with link := .training, errorScore := 0, goodFrames := 0 }
       else { flush with link := .down }
     let applies (t : State) := applyEntry p e s = if e.counterPort = old.entry.counterPort then t else retryClose t p
     (e.role = old.entry.role →
       (off → old.link ≠ .up → applies (s.setPort p { flush with link := .disabled })) ∧
       (off → old.link = .up → applies (departure p (s.setPort p { flush with link := .disabled }))) ∧
       (¬ off → old.link = .disabled → applies (s.setPort p down)) ∧
       (¬ off → old.link ≠ .disabled → applies (s.setPort p l))) ∧
     (e.role ≠ old.entry.role → old.link ≠ .up → applies
       (evalOutputs ((createRole p e.role (removeRole p old.entry.role
         (s.setPort p (if off then { flush with link := .disabled } else down)))).post (.portEventReport p))))) ∧
  (∀ (s : State) (p : Port) (x : Session), s.session p = some x →
     (x.state ≠ .closingWait → retryClose s p = s) ∧
     (x.state = .closingWait → retryClose s p = (closeAttempt p s).2) ∧
     (x.state = .closingWait → x.awaited.isSome = true → retryClose s p = s)) ∧
  (∀ (s : State) (p : Port),
     (s.session p = none → createRole p .intake s =
       { s with
         admission := { s.admission with contexts := put s.admission.contexts p (some .fresh) }
         tally := { s.tally with sessions := put s.tally.sessions p (some .new) }
         faults := { s.faults with contexts := put s.faults.contexts p (some ⟨false, .stopped, none, none⟩) }
         cond := { s.cond with ctxStates := put s.cond.ctxStates p .stopped } }) ∧
     (∀ x, s.session p = some x → createRole p .intake s =
       { s with
         admission := { s.admission with contexts := put s.admission.contexts p (some .fresh) }
         tally := { s.tally with sessions := put s.tally.sessions p (some { x with reported := .stopped }) }
         faults := { s.faults with contexts := put s.faults.contexts p (some ⟨false, .stopped, none, none⟩) }
         cond := { s.cond with ctxStates := put s.cond.ctxStates p .stopped } }) ∧
     createRole p .counter s = (s.setUnit p (some ⟨.offline, [], none, false⟩)).post (.voucherPlaceFreed p) ∧
     (∀ r : Role, r ≠ .intake → r ≠ .counter → createRole p r s = s) ∧
     (∀ c x, s.context p = some c → s.session p = some x → x.state = .idle ∨ x.state = .closingWait →
       (∀ m ∈ s.mail, isLinkReport p m = false) → removeRole p .intake s =
       { s with
         admission := { s.admission with contexts := put s.admission.contexts p none }
         tally := if x.state = .idle then { s.tally with sessions := put s.tally.sessions p none } else s.tally
         faults := { s.faults with contexts := put s.faults.contexts p none }
         mail := s.mail ++ match c.tag with
           | none => []
           | some t => [.freeRequest t.tag t.gen] }) ∧
     (∀ c x, s.context p = some c → s.session p = some x → x.state = .opened ∨ x.state = .closePending →
       (∀ m ∈ s.mail, isLinkReport p m = false) → removeRole p .intake s =
         (let t : State := { s with
            admission := { s.admission with contexts := put s.admission.contexts p none }
            mail := s.mail ++ match c.tag with
              | none => []
              | some t => [.freeRequest t.tag t.gen] }
          (closeAttempt p t).2.setFaultContext p none)) ∧
     (∀ a b t, s.mail = a ++ .intakeDeparture p :: b → (∀ m ∈ a ++ b, isLinkReport p m = false) →
       exec (.intakeDeparture p) { s with mail := a ++ b } = .next t →
       removeRole p .intake s = (removeSession p (removeContext p t)).setFaultContext p none) ∧
     removeRole p .controller s = emptyReports p (dropReplies p (setQueued s p false)) ∧
     (s.unit p = none → removeRole p .counter s = s) ∧
     (∀ u, s.unit p = some u → u.queue = [] → removeRole p .counter s = s.setUnit p none) ∧
     (∀ u, s.unit p = some u → u.queue ≠ [] → removeRole p .counter s =
       ((u.queue.foldl (fun t r => reportVoucher ⟨r, .refused⟩ t) s).request .voucherRefused).setUnit p none) ∧
     (∀ u, s.unit p = some u → (removeRole p .counter s).unit p = none ∧ (u.queue ≠ [] →
       (removeRole p .counter s).mail = s.mail ++ [.conditionRequest .voucherRefused])) ∧
     (∀ r : Role, r = .unused ∨ r = .sorter ∨ r = .bin → removeRole p r s = s))

/-- R8, R3 and R174: PORT_CONTROL. RESET sends the port to DOWN, and on by its carrier, with score and counts cleared and its
clear backlog emptied; a port in DISABLED stays there. ENABLE and DISABLE are writes of admin enable alone. -/
def Obligations.PortControls : Prop :=
  ∀ (s : State) (r : Requester) (i : Nat), ServesRequests s r.port →
    (12 ≤ i → Answers (.portReset r i) r .badIndex .none s s ∧ Answers (.portEnable r i) r .badIndex .none s s ∧
      Answers (.portDisable r i) r .badIndex .none s s) ∧
    ∀ p : Port, i = p.val →
      let l := s.port p
      let flush : LinkPort := { l with
        rx := [], tx := [], granted := 0, taken := 0, txCredit := 0, held := none, errorScore := 0, goodFrames := 0 }
      let t := (s.setBacklog p []).setPort p
        (if l.link = .disabled then flush
         else if l.carrier then { flush with link := .training } else { flush with link := .down })
      (l.link ≠ .up → Answers (.portReset r i) r .done .none s t) ∧
      (l.link = .up → p ≠ r.port → Answers (.portReset r i) r .done .none s (departure p t)) ∧
      (p = r.port → exec (.portReset r i) s = .next (departure p t)) ∧
      (∀ e, 1 ≤ l.entry.creditLimit → l.entry.creditLimit ≤ 999999 → -500 ≤ l.entry.tare → l.entry.tare ≤ 500 →
        l.entry.holdLimit ≤ 60000 →
        (e = true ∨ l.entry.role ≠ .controller ∨
          ∃ q, q ≠ p ∧ s.role q = .controller ∧ (s.port q).entry.enabled = true) →
        exec (if e then .portEnable r i else .portDisable r i) s =
          .next (placeReply r .done .none (applyEntry p { l.entry with enabled := e } s))) ∧
      (l.entry.role = .controller → (∀ q, q ≠ p → s.role q = .controller → (s.port q).entry.enabled = false) →
        Answers (.portDisable r i) r .notAllowed .none s s)

/-! ### The catalogue (chapter 3) -/

/-- R35: which offered article entries are valid. A valid one is taken as it is written, none of its fields clamped; any other
is refused with BAD_VALUE by ARTICLE_INSERT and ARTICLE_REPLACE, and the table is unchanged. -/
def Obligations.ArticleEntriesAreJudged : Prop :=
  ∀ x : ArticleFields,
    ((∃ e, articleOf x = some e) ↔
      x.code ≠ 0 ∧ x.depositClass ≤ 31 ∧ x.material ≤ 5 ∧ x.shape ≤ 4 ∧ x.line ≤ 7 ∧ x.weightMin ≤ x.weightMax ∧
        (x.crate.isSome = true ↔ x.shape = 3) ∧ (x.shape = 3 → x.refillable = true) ∧
        ∀ k, x.crate = some k →
          k.contentClass ≤ 31 ∧ 1 ≤ k.capacity ∧ k.capacity ≤ 40 ∧ k.bottleMin ≤ k.bottleMax) ∧
    (∀ e, articleOf x = some e →
      e.code = x.code ∧ e.depositClass.val = x.depositClass ∧ codeOf materials e.material = x.material ∧
        codeOf shapes e.shape = x.shape ∧ e.line.val = x.line ∧ e.weightMin = x.weightMin.val ∧ e.weightMax = x.weightMax.val ∧
        e.active = x.active ∧ e.markRequired = x.markRequired ∧ e.refillable = x.refillable ∧
        (e.crate.map fun k => (k.contentClass.val, k.capacity, k.bottleMin, k.bottleMax)) =
          x.crate.map fun k => (k.contentClass, k.capacity, k.bottleMin, k.bottleMax)) ∧
    ∀ (s : State) (r : Requester), ServesRequests s r.port → articleOf x = none →
      Answers (.articleInsert r x) r .badValue (.article none none s.catalogue.articles.length) s s ∧
      Answers (.articleReplace r x) r .badValue (.article none none s.catalogue.articles.length) s s

/-- R37 to R39 and R41: the article operations that write, on a table in order: what each answers, and the table it leaves.
Position k is the number of entries with a lower code. -/
def Obligations.ArticlesAreEdited : Prop :=
  ∀ (s : State) (r : Requester), ServesRequests s r.port → ArticleLaw s →
    let old := s.catalogue.articles
    let n := old.length
    let k (code : ArticleCode) := (old.filter fun e => e.code < code).length
    let known (code : ArticleCode) := ∃ e ∈ old, e.code = code
    let table (l : List ArticleEntry) : State := { s with catalogue := { s.catalogue with articles := l } }
    (∀ x, articleOf x = none →
      Answers (.articleInsert r x) r .badValue (.article none none n) s s ∧
      Answers (.articleReplace r x) r .badValue (.article none none n) s s) ∧
    (∀ x e, articleOf x = some e →
      (known e.code → Answers (.articleInsert r x) r .duplicate (.article (some (k e.code)) none n) s s ∧
        Answers (.articleReplace r x) r .done (.article (some (k e.code)) none n) s (table (old.set (k e.code) e))) ∧
      (¬ known e.code →
        Answers (.articleReplace r x) r .notFound (.article (some (k e.code)) none n) s s ∧
        (n = 16384 → Answers (.articleInsert r x) r .tableFull (.article none none n) s s) ∧
        (n < 16384 → Answers (.articleInsert r x) r .done (.article (some (k e.code)) none (n + 1)) s
          (table (old.take (k e.code) ++ e :: old.drop (k e.code)))))) ∧
    (∀ code, (code = 0 → Answers (.articleDelete r code) r .badValue (.article none none n) s s) ∧
      (code ≠ 0 → ¬ known code → Answers (.articleDelete r code) r .notFound (.article (some (k code)) none n) s s) ∧
      (known code → Answers (.articleDelete r code) r .done (.article (some (k code)) none (n - 1)) s
        (table (old.eraseIdx (k code))))) ∧
    Answers (.articleClear r) r .done (.cleared n 0) s (table [])

/-- R40, R41 and R42: the article operations that read, and the lookup of a code, which carries the position at which a code it
does not find would be inserted. -/
def Obligations.ArticlesAreFound : Prop :=
  ∀ (s : State) (r : Requester), ServesRequests s r.port → ArticleLaw s →
    let table := s.catalogue.articles
    let n := table.length
    let k (code : ArticleCode) := (table.filter fun e => e.code < code).length
    Answers (.articleFind r 0) r .badValue (.article none none n) s s ∧ lookup s.catalogue 0 = .notFound 0 ∧
    (∀ e ∈ table,
      Answers (.articleFind r e.code) r .done (.article (some (k e.code)) (some e) n) s s ∧
      lookup s.catalogue e.code = .found ⟨e, k e.code, cell s.catalogue.allowances (materialIndex e.material),
        cell s.catalogue.classes e.depositClass, e.crate.map fun c => cell s.catalogue.classes c.contentClass⟩) ∧
    (∀ code, code ≠ 0 → (∀ e ∈ table, e.code ≠ code) →
      Answers (.articleFind r code) r .notFound (.article (some (k code)) none n) s s ∧
        lookup s.catalogue code = .notFound (k code)) ∧
    (∀ i, n ≤ i → Answers (.articleRead r i) r .badIndex (.article none none n) s s) ∧
    ∀ (i : Nat) (h : i < n), Answers (.articleRead r i) r .done (.article none (some table[i]) n) s s

/-- R45, R46 and R49 to R53: the writes the tariff lock protects, and the lock itself. A write of the lock record judges its
index before the lock (log entry 40). -/
def Obligations.TheLockProtectsTariffs : Prop :=
  ∀ (s : State) (r : Requester), ServesRequests s r.port →
    let lock := s.catalogue.lock
    let key := s.catalogue.code
    let with_ (c : Catalogue) : State := { s with catalogue := c }
    (∀ i d k, 32 ≤ i → Answers (.classWrite r i d k) r .badIndex .none s s) ∧
    (∀ (i : ClassIx) (d : Fin 65536) (k : Nat), 4 ≤ k → Answers (.classWrite r i.val d k) r .badValue .none s s) ∧
    (∀ (i : ClassIx) (d : Fin 65536) (k : SchemeIx),
      (lock = .locked → cell s.catalogue.classes i ≠ ⟨d.val, k⟩ →
        Answers (.classWrite r i.val d k.val) r .locked .none s s) ∧
      (lock = .opened ∨ cell s.catalogue.classes i = ⟨d.val, k⟩ → Answers (.classWrite r i.val d k.val) r .done .none s
        (with_ { s.catalogue with classes := put s.catalogue.classes i ⟨d.val, k⟩ }))) ∧
    (∀ i v, 4 ≤ i → Answers (.schemeWrite r i v) r .badIndex .none s s) ∧
    (∀ (i : SchemeIx) (v : Nat),
      (lock = .locked → cell s.catalogue.rates i ≠ min v 250 → Answers (.schemeWrite r i.val v) r .locked .none s s) ∧
      (lock = .opened ∨ cell s.catalogue.rates i = min v 250 →
        Answers (.schemeWrite r i.val v) r (if v ≤ 250 then .done else .doneClamped) .none s
          (with_ { s.catalogue with rates := put s.catalogue.rates i (min v 250) }))) ∧
    (∀ i c, i ≠ 0 → Answers (.lockRecordWrite r i c) r .badIndex .none s s ∧
      Answers (.lockRecordRead r i) r .badIndex .none s s) ∧
    (∀ c, (lock = .locked → Answers (.lockRecordWrite r 0 c) r .locked .none s s) ∧
      (lock = .opened → Answers (.lockRecordWrite r 0 c) r .done .none s (with_ { s.catalogue with code := c }))) ∧
    (lock = .opened → Answers (.lockRecordRead r 0) r .done (.lock .opened key) s s) ∧
    (lock = .locked → key ≠ BitVec.allOnes 128 → Answers (.lockRecordRead r 0) r .done (.lock .locked 0) s s) ∧
    (lock = .locked → key = BitVec.allOnes 128 →
      Answers (.lockRecordRead r 0) r .done (.lock .opened 0) s (with_ { s.catalogue with lock := .opened })) ∧
    (key ≠ 0 → Answers (.unlock r key) r .done .none s (with_ { s.catalogue with lock := .opened })) ∧
    (∀ c, c ≠ key ∨ key = 0 → Answers (.unlock r c) r .refused .none s
      ((with_ { s.catalogue with lock := .locked }).request .unlockFailed)) ∧
    Answers (.relock r) r .done .none s (with_ { s.catalogue with lock := .locked })

/-! ### The other tables (chapters 3, 5, 9, 10, 11) -/

/-- R44, R90, R150, R166, R168 and R176: a write of one entry of a table, by its index and its value. A report byte of a
disposition above 1 is BAD_VALUE (log entry 21); the bytes of an output function are those of log entry 9; the index of a
material, a pitch or an output line is judged before its value (log entry 56). -/
def Obligations.TableEntriesAreWritten : Prop :=
  ∀ (s : State) (r : Requester), ServesRequests s r.port →
    (∀ i v, 6 ≤ i → Answers (.materialWrite r i v) r .badIndex .none s s) ∧
    (∀ (i : Fin 6) (v : Nat), (2000 < v → Answers (.materialWrite r i.val v) r .badValue .none s s) ∧
      (v ≤ 2000 → Answers (.materialWrite r i.val v) r .done .none s
        { s with catalogue := { s.catalogue with allowances := put s.catalogue.allowances i v } })) ∧
    (∀ i v, 5 ≤ i → Answers (.pitchWrite r i v) r .badIndex .none s s) ∧
    (∀ (i : Fin 5) (v : Nat), (v = 0 ∨ 15 < v → Answers (.pitchWrite r i.val v) r .badValue .none s s) ∧
      (1 ≤ v → v ≤ 15 → Answers (.pitchWrite r i.val v) r .done .none s
        { s with lines := { s.lines with pitches := put s.lines.pitches i v } })) ∧
    (∀ i v, 4 ≤ i → Answers (.timerWrite r i v) r .badIndex .none s s) ∧
    (∀ v, let w := max 10 (min 2000 v)
      Answers (.timerWrite r 0 v) r (if w = v then .done else .doneClamped) .none s
        { s with mgmt := { s.mgmt with timers := { s.mgmt.timers with gateAck := w } } }) ∧
    (∀ v, let w := max 200 (min 10000 v)
      Answers (.timerWrite r 1 v) r (if w = v then .done else .doneClamped) .none s
        { s with mgmt := { s.mgmt with timers := { s.mgmt.timers with handover := w } } }) ∧
    (∀ v, let w := max 500 (min 30000 v)
      Answers (.timerWrite r 2 v) r (if w = v then .done else .doneClamped) .none s
        { s with mgmt := { s.mgmt with timers := { s.mgmt.timers with reply := w } } }) ∧
    (∀ v, let w := if v = 0 then 0 else max 10 (min 600 v)
      Answers (.timerWrite r 3 v) r (if w = v then .done else .doneClamped) .none s
        { s with mgmt := { s.mgmt with timers := { s.mgmt.timers with idle := w } } }) ∧
    (∀ i x, 32 ≤ i → Answers (.dispositionWrite r i x) r .badIndex .none s s) ∧
    (∀ (i : FaultNo) (x : DispositionFields), 2 < x.action ∨ 7 < x.keepLine ∨ 1 < x.cls ∨ 1 < x.report →
      Answers (.dispositionWrite r i.val x) r .badValue .none s s) ∧
    (∀ (i : FaultNo) (x : DispositionFields) (a : Action) (c : FaultClass) (f : Bool) (h : x.keepLine < 8),
      actions[x.action]? = some a → faultClasses[x.cls]? = some c → x.report = f.toNat →
      let old := cell s.faults.dispositions i
      Answers (.dispositionWrite r i.val x) r .done .none s
        (let new : Disposition := if i = 18 ∨ i = 19 then { old with report := f } else ⟨a, ⟨x.keepLine, h⟩, c, f⟩
         { s with faults := { s.faults with dispositions := put s.faults.dispositions i new } })) ∧
    (∀ i x, 8 ≤ i → Answers (.outputWrite r i x) r .badIndex .none s s) ∧
    (∀ x : OutputFields,
      let function : Option OutputFunction :=
        if x.function = 0 then some .manual
        else if x.function = 1 then (if h : x.operand < 8 then some (.lineOpen ⟨x.operand, h⟩) else none)
        else if x.function = 2 then (if h : x.operand < 12 then some (.intakeReady ⟨x.operand, h⟩) else none)
        else if x.function = 3 then some .anyCondition else none
      outputEntryOf x = if 1 < x.polarity ∨ 1 < x.manual then none else function.map fun f =>
        ⟨f, if x.polarity = 0 then .activeHigh else .activeLow, decide (x.manual = 0)⟩) ∧
    (∀ (i : OutIx) (x : OutputFields), outputEntryOf x = none → Answers (.outputWrite r i.val x) r .badValue .none s s) ∧
    (∀ (i : OutIx) (x : OutputFields) (e : OutputEntry), outputEntryOf x = some e →
      Answers (.outputWrite r i.val x) r .done .none s
        (evalOutputs { s with cond := { s.cond with outputs := put s.cond.outputs i e } })) ∧
    (∀ i b, i ≠ 0 → Answers (.maskWrite r i b) r .badIndex .none s s) ∧
    (∀ b : BitVec 24, Answers (.maskWrite r 0 b) r .done .none s
      (evalOutputs { s with cond := { s.cond with mask := b.setWidth 22 } }))

/-- R174, R175 and R178: what READ_ENTRY gives for each table, and READ_STATE for each target. READ_STATE judges the index and
the part before the role of the port, and the role before a position of a voucher queue (log entry 20). A position of a voucher
queue at its length gives the unit state and the length without a record (log entry 59); one above 7 gives the length with its
BAD_INDEX (log entry 20). -/
def Obligations.TablesAndStateAreRead : Prop :=
  (∀ (s : State) (r : Requester), ServesRequests s r.port →
     let gives (t i : Nat) (d : ReplyData) := Answers (.readEntry r t i) r .done d s s
     (∀ p : Port, gives 0 p.val (.port (s.port p).entry (s.port p).stationCode (s.port p).link (s.port p).errorScore)) ∧
     gives 1 0 (.timer s.mgmt.timers.gateAck) ∧ gives 1 1 (.timer s.mgmt.timers.handover) ∧
     gives 1 2 (.timer s.mgmt.timers.reply) ∧ gives 1 3 (.timer s.mgmt.timers.idle) ∧
     (∀ i : Fin 6, gives 2 i.val (.material (cell s.catalogue.allowances i))) ∧
     (∀ i : Fin 5, gives 3 i.val (.pitch (cell s.lines.pitches i))) ∧
     (∀ i : ClassIx, gives 4 i.val (.cls (cell s.catalogue.classes i))) ∧
     (∀ i : SchemeIx, gives 5 i.val (.rate (cell s.catalogue.rates i))) ∧
     (∀ l : LineIx, gives 6 l.val (.line (s.line l))) ∧
     (∀ g : SegIx, gives 7 g.val (.segment (cell s.lines.segments g))) ∧
     (∀ n : FaultNo, gives 8 n.val (.disposition (cell s.faults.dispositions n))) ∧
     (∀ i : SenseIx, gives 9 i.val (.sense (cell s.cond.sense i))) ∧
     (∀ i : OutIx, gives 10 i.val (.output (cell s.cond.outputs i) (cell s.cond.high i))) ∧
     gives 11 0 (.conditions s.cond.mask) ∧
     (∀ i, exec (.readEntry r 12 i) s = exec (.lockRecordRead r i) s) ∧
     (∀ t i, (t, i) ∈ [(0, 12), (1, 4), (2, 6), (3, 5), (4, 32), (5, 4), (6, 8), (7, 12), (8, 32), (9, 8), (10, 8), (11, 1)] →
       ∀ j, i ≤ j → Answers (.readEntry r t j) r .badIndex .none s s) ∧
     ∀ t i, 12 < t → Answers (.readEntry r t i) r .badTable .none s s) ∧
  (∀ (s : State) (r : Requester), ServesRequests s r.port →
     let gives (t i q : Nat) (d : ReplyData) := Answers (.readState r t i q) r .done d s s
     let fails (t i q : Nat) (st : Status) := Answers (.readState r t i q) r st .none s s
     (∀ p : Port, s.role p = .intake →
       (∀ x, s.session p = some x → gives 0 p.val 0 (.session x) ∧
         gives 0 p.val 1 (.classCounts (x.classes.take 16) x.classes.length) ∧
         gives 0 p.val 2 (.classCounts (x.classes.drop 16) x.classes.length)) ∧
       (∀ c, s.context p = some c → gives 1 p.val 0 (.context c)) ∧
       (∀ f e, s.faultContext p = some f → f.last = some e → gives 2 p.val 0 (.errorRecord e)) ∧
       (∀ f, s.faultContext p = some f → f.last = none → fails 2 p.val 0 .notFound)) ∧
     (∀ p : Port, s.role p ≠ .intake → fails 0 p.val 0 .notAllowed ∧ fails 1 p.val 0 .notAllowed ∧
       fails 2 p.val 0 .notAllowed) ∧
     (∀ t : Tag, gives 3 t.val 0 (.entryState (s.entry t)) ∧
       ((s.entry t).state = .free → gives 3 t.val 1 (.entryState (s.entry t)) ∧ gives 3 t.val 2 (.entryState (s.entry t))) ∧
       ((s.entry t).state ≠ .free → gives 3 t.val 1 (.entryRoute (s.entry t)) ∧ gives 3 t.val 2 (.entryCredit (s.entry t)))) ∧
     (∀ q e, s.lines.holdQueue[q]? = some e → gives 4 0 q (.holdEntry s.lines.holdQueue.length e)) ∧
     (∀ q, s.lines.holdQueue.length ≤ q →
       Answers (.readState r 4 0 q) r .badIndex (.length s.lines.holdQueue.length) s s) ∧
     (∀ (p : Port) u, s.role p = .counter → s.unit p = some u →
       (∀ q, q ≤ u.queue.length → q ≤ 7 → gives 5 p.val q (.voucher u.state u.queue.length u.queue[q]?)) ∧
       (∀ q, u.queue.length < q ∨ 7 < q → Answers (.readState r 5 p.val q) r .badIndex (.length u.queue.length) s s)) ∧
     (∀ p : Port, s.role p ≠ .counter → ∀ q, fails 5 p.val q .notAllowed) ∧
     (∀ g : SegIx, gives 6 g.val 0 (.segment (cell s.lines.segments g))) ∧
     (∀ i q, 12 ≤ i → fails 0 i q .badIndex ∧ fails 1 i q .badIndex ∧ fails 2 i q .badIndex ∧ fails 5 i q .badIndex ∧
       fails 6 i q .badIndex) ∧
     (∀ i q, 64 ≤ i → fails 3 i q .badIndex) ∧ (∀ i q, 0 < i → fails 4 i q .badIndex) ∧
     (∀ i q, 2 < q → fails 0 i q .badIndex ∧ fails 3 i q .badIndex) ∧
     (∀ i q, 0 < q → fails 1 i q .badIndex ∧ fails 2 i q .badIndex ∧ fails 6 i q .badIndex) ∧
     ∀ t i q, 6 < t → fails t i q .badTable)

/-! ### Admission (chapter 4) -/

/-- R56 and R58: a context that changes its state, or its stop reason, is reported, and leaving HOLDING or PAUSED, or RETURNING
for IDLE, takes the waiting HOLD, or RETURN, out of its outbound list. A frame for the intake goes to the port, or waits in
the list, where it takes the place of an older one of its kind. -/
def Obligations.ContextsMoveAndSpeak : Prop :=
  ∀ (s : State) (p : Port) (old : Context), s.context p = some old →
    (∀ c : Context,
      let held := (old.state = .holding ∨ old.state = .paused) ∧ c.state ≠ old.state
      let given := old.state = .returning ∧ c.state = .idle
      let out := old.outbound.filter fun f => match f with
        | .hold _ _ => !decide held
        | .giveBack _ _ => !decide given
        | _ => true
      let t := s.setContext p (some { c with outbound := out })
      moveContext p c s = if old.state = c.state ∧ old.stopReason = c.stopReason then t
        else t.post (.stateReport p c.state c.stopReason c.seq)) ∧
    ∀ f : IntakeFrame,
      (old.outbound = [] → offerAnswer s p = .accepted → offerIntake p f s = enqueue s p (.intake f)) ∧
      (old.outbound = [] → offerAnswer s p = .queueFull →
        offerIntake p f s = s.setContext p (some { old with outbound := [f] })) ∧
      (old.outbound = [] → offerAnswer s p = .notUp → offerIntake p f s = s) ∧
      (old.outbound ≠ [] → ∃ out, offerIntake p f s = s.setContext p (some { old with outbound := out ++ [f] }) ∧
        out.Sublist old.outbound ∧
        ∀ g ∈ old.outbound, (g ∉ out ↔ match f, g with
          | .hold _ _, .hold _ _ => True
          | .giveBack _ _, .giveBack _ _ => True
          | .stop _, .stop _ => True
          | .stop _, .go => True
          | .go, .stop _ => True
          | .go, .go => True
          | _, _ => False))

/-- R59 to R65: a SIGHTING by the state of the intake's context; a port without a context takes none (log entry 7). In IDLE,
with no ROOM_STOP latch set, a container that passes the twelve checks without a note is granted its tag and goes to GATING; one
that fails one of checks 1 to 9, all but a note, whose disposition is RETURN and benign goes to RETURNING; one whose session
waits to close is PAUSED. The notes DAMP and CRATE_OVERCOUNT are in ContainersAreChecked, the session that rolls over in
SessionsClose, and the answers of the line unit other than a grant in OtherUnitsMoveTheContext. -/
def Obligations.SightingsAreTaken : Prop :=
  ∀ (s s1 : State) (p : Port) (x : Sighting), exec (.present p) s = .next s1 →
    (s.context p = none → exec (.sighting p x) s = .next s) ∧
    ∀ c, s.context p = some c →
      (c.state = .stopped → exec (.sighting p x) s = .next (offerIntake p (.giveBack x.seq .stopped) s1)) ∧
      (c.state = .locked → exec (.sighting p x) s = .next (offerIntake p (.stop .locked) s1)) ∧
      (c.state ≠ .stopped → c.state ≠ .locked → c.state ≠ .idle → c.seq = some x.seq →
        exec (.sighting p x) s = .next s1) ∧
      (∀ o t, c.state ≠ .stopped → c.state ≠ .locked → c.state ≠ .idle → c.seq ≠ some x.seq →
        raiseFault p ⟨15, false, c.state, .none, 0, c.seq, none, none, none⟩ s1 = (o, t) →
        exec (.sighting p x) s = exec (.faultOutcome p 15 o) t) ∧
      (c.state = .idle →
        let e := (s.port p).entry
        let d : Context := { c with
          seq := some x.seq, sighting := some x, tareCopy := some e.tare, holdCopy := some e.holdLimit }
        (s.admission.roomStop = true → exec (.sighting p x) s = .next
          (offerIntake p (.hold x.seq .roomStop) (moveContext p { d with state := .paused, pause := some .roomStop } s1))) ∧
        (s.admission.roomStop = false →
          (∀ (a : ArticleCopy) (l : LineIx) (t : Tag) (y : Session),
            x.code ≠ 0 → lookup s.catalogue x.code = .found a → entryFault x a.entry = none →
            let bottles := clampedCountOf x a.entry
            let n := bottles.getD 0
            overcount x a.entry = false →
            weightVerdict x.weight.val e.tare (lowBound a.entry n) (highBound a.entry n) a.allowance = .pass →
            let k := creditOf a n
            k.credit ≤ e.creditLimit → s1.session p = some y → (∀ m ∈ s.mail, isNoteOf p m = false) →
            (y.state = .closingWait → exec (.sighting p x) s = .next (offerIntake p (.hold x.seq .counterBusy) (moveContext p
              { d with state := .paused, article := some a, clampedCount := bottles, credit := some k, line := none,
                       pitch := none, tag := none, pause := some .counterBusy, holdTimer := none }
              (s1.setSession p (some { y with limit := e.creditLimit, ctxWaiting := true }))))) ∧
            (y.state = .idle ∨ y.state = .opened → y.total + awaitedCredit y + k.credit ≤ e.creditLimit →
            .removalRequest p ∉ s.mail → c.keep = none → selectLine s none a.entry.line false (some a.entry.material) = some l →
            lowestFree s = some t →
            let pitch := cell s.lines.pitches (shapeIndex a.entry.shape)
            fits s (s.line l).record.segments pitch = true →
            (∀ q ∈ s.lines.holdQueue, ∀ g ∈ q.segments, g ∉ (s.line l).record.segments) →
            let s2 := grant t p x.seq l pitch (s1.setSession p (some { y with limit := e.creditLimit }))
            exec (.sighting p x) s = .next (moveContext p { d with
              state := .gating, article := some a, clampedCount := bottles, credit := some k, line := some l,
              pitch := some pitch, tag := some ⟨t, claimGen s t⟩, pause := none, holdTimer := none }
              (s2.post (.containerRecord t (claimGen s t) ⟨p, x.seq, ⟨a.entry.code, false, k⟩⟩))))) ∧
          (∀ (n : FaultNo) (table : ErrorTable) (index : Nat) (f : FaultContext),
            (x.code = 0 ∧ n = 0 ∧ table = .none ∧ index = 0 ∨
              x.code ≠ 0 ∧ (∃ k, lookup s.catalogue x.code = .notFound k) ∧ n = 1 ∧ table = .none ∧ index = 0 ∨
              (x.code ≠ 0 ∧ ∃ a, lookup s.catalogue x.code = .found a ∧ entryFault x a.entry = some n ∧ table = .article ∧
                index = a.position) ∨
              (x.code ≠ 0 ∧ ∃ a, lookup s.catalogue x.code = .found a ∧ entryFault x a.entry = none ∧ overcount x a.entry = false ∧
                let b := (clampedCountOf x a.entry).getD 0
                let verdict := weightVerdict x.weight.val e.tare (lowBound a.entry b) (highBound a.entry b) a.allowance
                (verdict = .underweight ∧ n = 7 ∧ table = .article ∧ index = a.position ∨
                  verdict = .residue ∧ n = 8 ∧ table = .article ∧ index = a.position ∨
                  verdict = .pass ∧ e.creditLimit < (creditOf a b).credit ∧ n = 9 ∧ table = .cls ∧
                    index = a.entry.depositClass.val))) →
            s.faultContext p = some f → (cell s.faults.dispositions n).action = .giveBack →
            (cell s.faults.dispositions n).cls = .benign → (cell s.faults.dispositions n).report = false →
            let record : ErrorRecord := ⟨n, .reject, false, false, table, index, p, some x.seq, none, none, none⟩
            exec (.sighting p x) s = .next (offerIntake p (.giveBack x.seq (.fault n)) (moveContext p
              { Context.blank .returning with seq := some x.seq, handoverTimer := startTimer s.mgmt.timers.handover }
              (s1.setFaultContext p (some { f with last := some record }))))))) 

/-- R61, R62 and R63: the first of checks 3 to 6 that fails; the corrected weight judged against the window and the allowance;
and the credit of an article, its deposit and for a crate that of its bottles, with the split by scheme adding up to it. The run
goes on past the notes CRATE_OVERCOUNT and DAMP when their dispositions are neither STOP nor reported. -/
def Obligations.ContainersAreChecked : Prop :=
  (∀ (x : Sighting) (e : ArticleEntry),
     let fail2 := e.active = false
     let fail3 := x.shape ≠ e.shape
     let fail4 := ∃ m, x.material = some m ∧ m ≠ e.material
     let fail5 := e.markRequired = true ∧ x.mark = .absent
     let fail6 := e.markRequired = true ∧ x.mark = .unread
     (fail2 → entryFault x e = some 2) ∧ (¬ fail2 → fail3 → entryFault x e = some 3) ∧
     (¬ fail2 → ¬ fail3 → fail4 → entryFault x e = some 4) ∧
     (¬ fail2 → ¬ fail3 → ¬ fail4 → fail5 → entryFault x e = some 5) ∧
     (¬ fail2 → ¬ fail3 → ¬ fail4 → fail6 → entryFault x e = some 6) ∧
     (¬ fail2 → ¬ fail3 → ¬ fail4 → ¬ fail5 → ¬ fail6 → entryFault x e = none)) ∧
  ((∀ (m : Nat) (tare : Int) (low high allowance : Nat),
     let w := max 0 ((m : Int) - tare)
     weightVerdict m tare low high allowance =
       if m = 65535 then .residue else if w < low then .underweight else if w ≤ high then .pass
       else if w ≤ high + allowance then .damp else .residue) ∧
   ∀ (a : ArticleCopy) (n : Nat),
     (∀ e, CreditLaw (creditOf { a with entry := e } n)) ∧
     (a.entry.crate = none →
       creditOf a n = ⟨a.tariff.deposit, [(a.tariff.scheme, a.tariff.deposit)], [(a.entry.depositClass, 1)]⟩ ∧
       lowBound a.entry n = a.entry.weightMin ∧ highBound a.entry n = a.entry.weightMax ∧
       ∀ x, clampedCountOf x a.entry = none ∧ overcount x a.entry = false) ∧
     ∀ k t, a.entry.crate = some k → a.content = some t →
       (∀ x, clampedCountOf x a.entry = some (min ((x.count.map (·.val)).getD 0) k.capacity) ∧
         (overcount x a.entry = true ↔ k.capacity < (x.count.map (·.val)).getD 0)) ∧
       (a.entry.depositClass ≠ k.contentClass →
         (creditOf a n).classes = [(a.entry.depositClass, 1), (k.contentClass, n)]) ∧
       (a.entry.depositClass = k.contentClass → (creditOf a n).classes = [(a.entry.depositClass, 1 + n)]) ∧
       (creditOf a n).credit = a.tariff.deposit + n * t.deposit ∧
       lowBound a.entry n = a.entry.weightMin + n * k.bottleMin ∧
       highBound a.entry n = a.entry.weightMax + n * k.bottleMax ∧
       (a.tariff.scheme ≠ t.scheme → (creditOf a n).split = [(a.tariff.scheme, a.tariff.deposit), (t.scheme, n * t.deposit)]) ∧
       (a.tariff.scheme = t.scheme → (creditOf a n).split = [(a.tariff.scheme, a.tariff.deposit + n * t.deposit)])) ∧
  (∀ (s : State) (p : Port) (x : Sighting) (tare : Int) (a : ArticleCopy) (c : Context) (f : FaultContext),
     s.context p = some c → c.state ≠ .locked → s.faultContext p = some f → f.flag = false →
     let passes (n : FaultNo) := (cell s.faults.dispositions n).action ≠ .stop ∧ (cell s.faults.dispositions n).report = false
     let noted (n : FaultNo) (t : State) := t.setFaultContext p (some { f with
       flag := decide ((cell s.faults.dispositions n).cls = .contributory),
       last := some ⟨n, .note, false, false, .article, a.position, p, c.seq, none, none, none⟩ })
     let b := clampedCountOf x a.entry
     (overcount x a.entry = false → checkCount p x tare a s =
       checkWeight p x tare a (b.getD 0) (s.setContext p (some { c with clampedCount := b }))) ∧
     (overcount x a.entry = true → passes 16 → checkCount p x tare a s =
       checkWeight p x tare a (b.getD 0) (noted 16 (s.setContext p (some { c with clampedCount := b })))) ∧
     ∀ n, weightVerdict x.weight.val tare (lowBound a.entry n) (highBound a.entry n) a.allowance = .damp → passes 17 →
       checkWeight p x tare a n s = checkCredit p a n (noted 17 s))

/-- R73 and R74: an outcome given outside a check run, by the state of the context; at a port without one it changes nothing
(log entry 7). A KEEP run tests the credit limit as it stands (log entry 10), every lock records its fault, with a
container or without one (log entry 23), no field but it and the chamber seq is kept in LOCKED (log entry 41), a SHUTDOWN offers
no INTAKE_STOP (log entry 31), and a waiting HOLD leaves the list before a RETURN or an INTAKE_STOP is offered (log entry
57). -/
def Obligations.OutcomesAreApplied : Prop :=
  ∀ (s : State) (p : Port) (n : FaultNo),
    (s.context p = none → ∀ o, exec (.faultOutcome p n o) s = .next s) ∧
    ∀ c, s.context p = some c →
      let gives (o : FaultResult) (t : State) := exec (.faultOutcome p n o) s = .next t
      let locked (t : State) := offerIntake p (.stop .locked) (moveContext p
        { Context.blank .locked with seq := c.seq, lockFault := some n } t)
      let stopped (t : State) := moveContext p { Context.blank .stopped with stopReason := some .shutdown } t
      let returning (q : Byte) (t : State) := offerIntake p (.giveBack q (.fault n)) (moveContext p
        { Context.blank .returning with seq := some q, handoverTimer := startTimer s.mgmt.timers.handover } t)
      let cancelled (t : State) := match c.tag with
        | none => t
        | some g => t.post (.cancelRequest g.tag g.gen)
      let apart (t : State) := t.setContext p (some { c with line := none, pitch := none, tag := none, holdTimer := none })
      gives .proceed s ∧
      (c.state = .idle → gives .giveBack s ∧ (∀ l, gives (.keep l) s) ∧ gives .lock (locked s) ∧ gives .shutdown (stopped s)) ∧
      (c.state = .stopped → gives .giveBack s ∧ (∀ l, gives (.keep l) s) ∧ gives .lock s ∧
        gives .shutdown (stopped (match c.tag with
          | none => s
          | some g => s.post (.freeRequest g.tag g.gen)))) ∧
      (c.state = .locked → gives .giveBack s ∧ (∀ l, gives (.keep l) s) ∧ gives .lock s ∧ gives .shutdown (stopped s)) ∧
      (c.state = .returning → gives .giveBack s ∧ (∀ l, gives (.keep l) s) ∧ gives .lock (locked s) ∧
        gives .shutdown (stopped s)) ∧
      (c.state = .releasing → gives .giveBack s ∧ (∀ l, gives (.keep l) s) ∧ gives .lock (locked (cancelled s)) ∧
        gives .shutdown (stopped (cancelled s))) ∧
      (∀ t, (c.state = .holding ∧ t = s.post (.removalRequest p)) ∨ (c.state = .paused ∧ t = s) ∨
          (c.state = .gating ∧ t = cancelled s) →
        (∀ q, c.seq = some q → gives .giveBack (returning q (apart t)) ∧
          (c.keep.isSome = true → ∀ l, gives (.keep l) (returning q (apart t)))) ∧
        (c.keep = none → ∀ l, gives (.keep l) (checkSession takeKept p 0 (s.port p).entry.creditLimit
          (t.setContext p (some { c with
            keep := some ⟨l, n⟩, credit := some ⟨0, [], []⟩, line := none, pitch := none, tag := none, holdTimer := none })))) ∧
        gives .lock (locked (apart t)) ∧ gives .shutdown (stopped (apart t)))

/-- R66, R67, R69, R71 and R72: the events that end or move on a container in the chamber: WITHDRAWN, RETURNED, the grant and
re-selection notices, the gates set, the drop and the gate faults. The outcome of fault 10 is applied in the event of the
re-selection notice (log entry 51), and a waiting HOLD leaves the list before a RETURN is offered (log entry 57). -/
def Obligations.ContainersMoveOn : Prop :=
  ∀ (s : State) (p : Port) (c : Context), s.context p = some c →
    let cleared (t : State) := moveContext p (.blank .idle) t
    let cancelled (g : TagGen) := s.post (.cancelRequest g.tag g.gen)
    (∀ q, c.seq = some q →
      (c.state = .holding → exec (.withdrawn p q) s = .next (cleared (s.post (.removalRequest p)))) ∧
      (c.state = .paused → exec (.withdrawn p q) s = .next (cleared s)) ∧
      (∀ g, c.tag = some g → c.state = .gating ∨ c.state = .releasing →
        exec (.withdrawn p q) s = .next (cleared (cancelled g))) ∧
      (c.state = .returning → exec (.returned p q) s = .next (cleared s))) ∧
    (∀ q, c.seq ≠ some q ∨ c.state = .idle ∨ c.state = .stopped ∨ c.state = .returning ∨ c.state = .locked →
      exec (.withdrawn p q) s = .next s) ∧
    (∀ q, c.seq ≠ some q ∨ c.state ≠ .returning → exec (.returned p q) s = .next s) ∧
    (∀ q t g l n,
      (c.state = .holding → c.seq = some q → exec (.grantNotice p q t g l n) s = .next (moveContext p
        { c with state := .gating, line := some l, pitch := some n, tag := some ⟨t, g⟩, pause := none, holdTimer := none }
        (s.post (.containerRecord t g (recordOf p c))))) ∧
      (c.state ≠ .holding ∨ c.seq ≠ some q → exec (.grantNotice p q t g l n) s = .next (s.post (.cancelRequest t g)))) ∧
    (∀ q l tried,
      (c.state = .holding → c.seq = some q →
        (∀ m, l = some m → exec (.reselectionNotice p q l tried) s = .next (s.setContext p (some { c with line := some m }))) ∧
        (∀ k, l = none → c.keep = some k → exec (.reselectionNotice p q l tried) s = .next
          (offerIntake p (.giveBack q (.fault k.fault)) (moveContext p
            { Context.blank .returning with seq := some q, handoverTimer := startTimer s.mgmt.timers.handover } s))) ∧
        (∀ (f : FaultContext) (d : Disposition), l = none → c.keep = none → s.faultContext p = some f →
          d = cell s.faults.dispositions 10 → d.action = .giveBack → f.flag = false → d.report = false →
          exec (.reselectionNotice p q l tried) s = .next (offerIntake p (.giveBack q (.fault 10)) (moveContext p
            { Context.blank .returning with seq := some q, handoverTimer := startTimer s.mgmt.timers.handover }
            (s.setFaultContext p (some { f with
              flag := decide (d.cls = .contributory),
              last := some ⟨10, .reject, false, false, .line, tried.val, p, some q, none, none, none⟩ })))))) ∧
      (c.state ≠ .holding ∨ c.seq ≠ some q → exec (.reselectionNotice p q l tried) s = .next s)) ∧
    (∀ t g,
      (c.state = .gating → c.tag = some ⟨t, g⟩ → exec (.gatesSetReport p t g) s = .next (moveContext p
        { c with state := .releasing, handoverTimer := startTimer s.mgmt.timers.handover } s)) ∧
      (c.state ≠ .gating ∨ c.tag ≠ some ⟨t, g⟩ → exec (.gatesSetReport p t g) s = .next s) ∧
      (∀ q k, c.tag = some ⟨t, g⟩ → c.seq = some q → c.credit = some k →
        let noted := s.post (.dropNote p t q k.credit)
        (c.state = .releasing → exec (.dropReport p t g) s = .next (cleared noted)) ∧
        (c.state = .stopped → exec (.dropReport p t g) s = .next (noted.setContext p
          (some { c with tag := none, seq := none, credit := none, handoverTimer := none })))) ∧
      ((c.tag ≠ some ⟨t, g⟩ ∨ (c.state ≠ .releasing ∧ c.state ≠ .stopped)) → exec (.dropReport p t g) s = .next s)) ∧
    ∀ (k : GateFaultKind) (n : FaultNo) (t : Tag) (g : Gen) (h : HopSet) (f : FaultContext) (d : Disposition) (q : Byte),
      (k = .refused ∧ n = 12 ∨ k = .timeout ∧ n = 13) → s.faultContext p = some f → d = cell s.faults.dispositions n →
      c.state = .gating → c.tag = some ⟨t, g⟩ → c.seq = some q → d.action = .giveBack → f.flag = false → d.report = false →
      exec (.gateFault p k t g h) s = .next (offerIntake p (.giveBack q (.fault n)) (moveContext p
        { Context.blank .returning with seq := some q, handoverTimer := startTimer s.mgmt.timers.handover }
        (s.setFaultContext p (some { f with
          flag := decide (d.cls = .contributory),
          last := some ⟨n, .reject, false, false, .transit, t.val, p, some q, some ⟨t, g⟩, some h, none⟩ }))))

/-- R66 and R70: the expiry of the hold timer and of the handover timer. A timer that does not run does not expire. A waiting
HOLD leaves the list before the RETURN of a hold expiry is offered (log entry 57). -/
def Obligations.ChamberTimersExpire : Prop :=
  ∀ (s : State) (p : Port) (c : Context), s.context p = some c →
    (c.holdTimer = none ∨ c.state ≠ .holding → exec (.holdTimerExpiry p) s = .next s) ∧
    (c.handoverTimer = none → exec (.handoverTimerExpiry p) s = .next s) ∧
    (∀ (f : FaultContext) (q : Byte) (l : LineIx), c.holdTimer ≠ none → c.state = .holding → s.faultContext p = some f →
      c.seq = some q → c.line = some l → (cell s.faults.dispositions 11).action = .giveBack →
      (cell s.faults.dispositions 11).cls = .benign → (cell s.faults.dispositions 11).report = false →
      exec (.holdTimerExpiry p) s = .next (offerIntake p (.giveBack q (.fault 11)) (moveContext p
        { Context.blank .returning with seq := some q, handoverTimer := startTimer s.mgmt.timers.handover }
        ((s.post (.removalRequest p)).setFaultContext p (some { f with
          last := some ⟨11, .reject, false, false, .line, l.val, p, some q, none, none, none⟩ }))))) ∧
    (c.handoverTimer ≠ none →
      (∀ g, c.state = .stopped → c.tag = some g → exec (.handoverTimerExpiry p) s = .next
        ((s.post (.freeRequest g.tag g.gen)).setContext p
          (some { c with tag := none, seq := none, credit := none, handoverTimer := none }))) ∧
      (c.state = .idle ∨ c.state = .holding ∨ c.state = .paused ∨ c.state = .gating ∨ c.state = .locked →
        exec (.handoverTimerExpiry p) s = .next (s.setContext p (some { c with handoverTimer := none }))) ∧
      ∀ q, c.seq = some q →
        (∀ f, s.faultContext p = some f → s.controllersUp = [] →
          let raised (t : State) (table : ErrorTable) (i : Nat) (g : Option TagGen) : State :=
            let kind := decide ((cell s.faults.dispositions 14).cls = .contributory)
            offerIntake p (.stop .locked) (moveContext p
              { Context.blank .locked with seq := some q, lockFault := some 14 }
              (t.setFaultContext p (some { f with
                flag := f.flag || kind,
                last := some ⟨14, .abort, false, f.flag && kind, table, i, p, some q, g, none, none⟩ })))
          (c.state = .returning → exec (.handoverTimerExpiry p) s = .next (raised s .none 0 none)) ∧
          ∀ g, c.state = .releasing → c.tag = some g → exec (.handoverTimerExpiry p) s = .next
            (raised (s.post (.freeRequest g.tag g.gen)) .transit g.tag.val (some g))))

/-- R68 and R75: the return request of the tally unit, a completed close, and the report that the ROOM_STOP latches are set or
clear. A completed close runs checks 11 and 12 (R65), with the material and the shape of the article copy (R34, R89), or those
sighted where there is none (log entry 30): a grant, a place in the hold queue with HOLD for LINE_BUSY, fault 10 with no usable
line, or the return of a kept container, or fault 11 where the hold limit is 0. The contexts PAUSED for ROOM_STOP go on in one
event, the lowest port first (log entry 48), and a waiting HOLD leaves the list before a RETURN or a new HOLD is offered (log
entry 57). -/
def Obligations.OtherUnitsMoveTheContext : Prop :=
  ∀ (s : State) (p : Port),
    (∀ c q, s.context p = some c → c.seq = some q → c.state = .holding ∨ c.state = .paused →
      let t := if c.state = .holding then s.post (.removalRequest p) else s
      exec (.returnRequest p) s = .next ((offerIntake p (.giveBack q .finished) (moveContext p
        { Context.blank .returning with seq := some q, handoverTimer := startTimer s.mgmt.timers.handover }
        (t.setContext p (some { c with line := none, pitch := none, tag := none, holdTimer := none })))).post
        (.returnAnswer p true .returning))) ∧
    (∀ c, s.context p = some c → c.state ≠ .holding → c.state ≠ .paused →
      exec (.returnRequest p) s = .next (s.post (.returnAnswer p false c.state))) ∧
    (∀ c, s.context p = some c → c.state ≠ .paused ∨ c.pause ≠ some .counterBusy →
      exec (.closeCompleted p) s = .next s) ∧
    (∀ c x l, s.context p = some c → c.state = .paused → c.pause = some .counterBusy → c.sighting = some x →
      c.keep ≠ none ∨ c.article ≠ none → c.holdCopy ≠ some 0 → c.seq = some x.seq → .removalRequest p ∉ s.mail →
      let start : LineIx := match c.keep, c.article with
        | some k, _ => k.line
        | none, some a => a.entry.line
        | none, none => 0
      let kept := c.keep.isSome
      let material := match c.article with
        | some a => some a.entry.material
        | none => x.material
      selectLine s none start kept material = some l →
      let pitch := cell s.lines.pitches (shapeIndex (match c.article with
        | some a => a.entry.shape
        | none => x.shape))
      (lowestFree s = none → exec (.closeCompleted p) s = .next (offerIntake p (.hold x.seq .lineBusy) (moveContext p
        { c with state := .holding, line := some l, pitch := some pitch, tag := none, pause := none,
                 holdTimer := startTimer (c.holdCopy.getD 0) }
        { s with lines := { s.lines with holdQueue := s.lines.holdQueue ++
          [⟨p, x.seq, start, kept, material, l, pitch, (s.line l).record.segments⟩] } }))) ∧
      (∀ t, lowestFree s = some t → fits s (s.line l).record.segments pitch = true → s.lines.holdQueue = [] →
        exec (.closeCompleted p) s = .next (moveContext p
          { c with state := .gating, line := some l, pitch := some pitch, tag := some ⟨t, claimGen s t⟩, pause := none,
                   holdTimer := none }
          ((grant t p x.seq l pitch s).post (.containerRecord t (claimGen s t) (recordOf p c)))))) ∧
    (∀ c x k, s.context p = some c → c.state = .paused → c.pause = some .counterBusy → c.sighting = some x →
      c.keep = some k → c.seq = some x.seq → .removalRequest p ∉ s.mail →
      selectLine s none k.line true ((c.article.map fun a => some a.entry.material).getD x.material) = none →
      exec (.closeCompleted p) s = .next (offerIntake p (.giveBack x.seq (.fault k.fault)) (moveContext p
        { Context.blank .returning with seq := some x.seq, handoverTimer := startTimer s.mgmt.timers.handover } s))) ∧
    (∀ c x a f (n : FaultNo), s.context p = some c → c.state = .paused → c.pause = some .counterBusy → c.sighting = some x →
      c.keep = none → c.article = some a → c.seq = some x.seq → .removalRequest p ∉ s.mail → s.faultContext p = some f →
      (cell s.faults.dispositions n).action = .giveBack → (cell s.faults.dispositions n).cls = .benign →
      (cell s.faults.dispositions n).report = false →
      let found := selectLine s none a.entry.line false (some a.entry.material)
      (n = 10 ∧ found = none ∨ n = 11 ∧ found.isSome = true ∧ c.holdCopy = some 0 ∧ lowestFree s = none) →
      exec (.closeCompleted p) s = .next (offerIntake p (.giveBack x.seq (.fault n)) (moveContext p
        { Context.blank .returning with seq := some x.seq, handoverTimer := startTimer s.mgmt.timers.handover }
        (s.setFaultContext p (some { f with
          last := some ⟨n, .reject, false, false, .line, a.entry.line.val, p, some x.seq, none, none, none⟩ }))))) ∧
    exec (.roomStopReport true) s = .next { s with admission := { s.admission with roomStop := true } } ∧
    (∀ c, s.context p = some c → c.state = .paused → c.pause = some .roomStop →
      (∀ q d, q ≠ p → s.context q = some d → d.pause ≠ some .roomStop) →
      exec (.roomStopReport false) s = .next (runChecks p { s with admission := { s.admission with roomStop := false } })) ∧
    exec (.roomStopReport false) s = .next ((indices 12).foldl (fun t q => match t.context q with
      | none => t
      | some c => if c.state = .paused ∧ c.pause = some .roomStop then runChecks q t else t)
      { s with admission := { s.admission with roomStop := false } }) ∧
    ((∀ q c, s.context q = some c → c.pause ≠ some .roomStop) →
      exec (.roomStopReport false) s = .next { s with admission := { s.admission with roomStop := false } })

/-- R78 and R79: what a context does when its intake's port enters or leaves UP, or its station restarts. The copies of the
sighting do not stay with a tag in STOPPED (log entry 41), and the outcome of fault 21 is applied in the event of the restart
(log entry 51). -/
def Obligations.ContextsFollowTheIntake : Prop :=
  ∀ (s : State) (p : Port) (c : Context), s.context p = some c →
    let busy := c.state ≠ .stopped ∧ c.state ≠ .locked ∧ c.state ≠ .idle
    (∀ b, c.state = .idle → exec (.intakeArrival p b) s = .next (offerIntake p .go s)) ∧
    (∀ b r, c.state = .stopped → c.stopReason = some r →
      exec (.intakeArrival p b) s = .next (offerIntake p (.stop (match r with
        | .start => .start
        | .mgmt => .mgmt
        | .shutdown => .shutdown)) s)) ∧
    (c.state = .locked → exec (.intakeArrival p false) s = .next (offerIntake p (.stop .locked) s)) ∧
    (busy → exec (.intakeArrival p false) s = .next s) ∧
    (∀ f, busy ∨ c.state = .locked → s.faultContext p = some f → s.controllersUp = [] →
      ∃ o, exec (.intakeArrival p true) s = exec (.faultOutcome p 21 o) (s.setFaultContext p (some { f with
        flag := if c.state = .locked then f.flag else
          f.flag || decide ((cell s.faults.dispositions 21).cls = .contributory),
        last := some ⟨21, .abort, false, decide (c.state ≠ .locked) && f.flag &&
          decide ((cell s.faults.dispositions 21).cls = .contributory), .none, 0, p, c.seq, none, none,
          some (s.port p).stationCode⟩ })) ∧
        o = if c.state = .locked then .shutdown else .lock) ∧
    let quiet := s.setContext p (some { c with outbound := [] })
    let stopped (r : StopReason) (t : State) := moveContext p { Context.blank .stopped with stopReason := some r } t
    (c.state = .stopped → exec (.intakeDeparture p) s = .next quiet) ∧
    (c.state = .idle → exec (.intakeDeparture p) s = .next (stopped .start quiet)) ∧
    ∀ f, s.faultContext p = some f → s.controllersUp = [] →
      let raised (t : State) := t.setFaultContext p (some { f with
        flag := if c.state = .locked then f.flag else
          f.flag || decide ((cell s.faults.dispositions 20).cls = .contributory),
        last := some ⟨20, .abort, false, decide (c.state ≠ .locked) && f.flag &&
          decide ((cell s.faults.dispositions 20).cls = .contributory), .none, 0, p, c.seq, none, none,
          some (s.port p).stationCode⟩ })
      (c.state = .holding → exec (.intakeDeparture p) s = .next (stopped .start (raised (quiet.post (.removalRequest p))))) ∧
      (c.state = .paused ∨ c.state = .returning →
        exec (.intakeDeparture p) s = .next (stopped .start (raised quiet))) ∧
      (∀ g, c.state = .gating → c.tag = some g →
        exec (.intakeDeparture p) s = .next (stopped .start (raised (quiet.post (.cancelRequest g.tag g.gen))))) ∧
      (c.state = .releasing → exec (.intakeDeparture p) s = .next (moveContext p
        { Context.blank .stopped with
          stopReason := some .start, seq := c.seq, credit := c.credit, tag := c.tag, handoverTimer := c.handoverTimer }
        (raised quiet))) ∧
      (c.state = .locked → exec (.intakeDeparture p) s = .next (stopped .shutdown (raised quiet)))

/-- R76, R77, R158 and R174: INTAKE_CONTROL, and the flag cleared by a drop. -/
def Obligations.IntakeControls : Prop :=
  ∀ (s : State) (r : Requester), ServesRequests s r.port →
    (∀ i, 12 ≤ i → Answers (.intakeResume r i) r .badIndex .none s s ∧
      Answers (.intakeStopControl r i) r .badIndex .none s s ∧ Answers (.clearFault r i) r .badIndex .none s s) ∧
    ∀ p : Port,
      (s.role p ≠ .intake → Answers (.intakeResume r p.val) r .notAllowed .none s s ∧
        Answers (.intakeStopControl r p.val) r .notAllowed .none s s ∧
        Answers (.clearFault r p.val) r .notAllowed .none s s) ∧
      ∀ c, s.role p = .intake → s.context p = some c →
        let resumed (st : Status) (t : State) := Answers (.intakeResume r p.val) r st .none s t
        let cleared := offerIntake p .go (moveContext p (.blank .idle) s)
        (c.state = .stopped → s.up p = false → resumed .notAllowed s) ∧
        (c.state = .stopped → s.up p = true → c.tag.isSome = true → resumed .busy s) ∧
        (c.state = .stopped → s.up p = true → c.tag = none → resumed .done cleared) ∧
        (c.state = .locked → c.seq = none → resumed .done cleared) ∧
        (∀ q n, c.state = .locked → c.seq = some q → c.lockFault = some n → resumed .done
          (offerIntake p (.giveBack q (.fault n)) (moveContext p
            { Context.blank .returning with seq := some q, handoverTimer := startTimer s.mgmt.timers.handover }
            (offerIntake p .go s)))) ∧
        (c.state ≠ .stopped → c.state ≠ .locked → resumed .done s) ∧
        (∀ x, c.state = .stopped → c.stopReason = some x → Answers (.intakeStopControl r p.val) r .done .none s
          (offerIntake p (.stop (match x with
            | .start => .start
            | .mgmt => .mgmt
            | .shutdown => .shutdown)) s)) ∧
        (∀ t, (c.state = .holding ∧ t = s.post (.removalRequest p)) ∨
            (∃ g, c.tag = some g ∧ (c.state = .gating ∨ c.state = .releasing) ∧ t = s.post (.cancelRequest g.tag g.gen)) ∨
            ((c.state = .idle ∨ c.state = .paused ∨ c.state = .returning ∨ c.state = .locked) ∧ t = s) →
          Answers (.intakeStopControl r p.val) r .done .none s (offerIntake p (.stop .mgmt)
            (moveContext p { Context.blank .stopped with stopReason := some .mgmt } t))) ∧
        ∀ f, s.faultContext p = some f →
          Answers (.clearFault r p.val) r .done .none s (s.setFaultContext p (some { f with flag := false })) ∧
          exec (.flagClear p) s = .next (s.setFaultContext p (some { f with flag := false }))

/-! ### Lines, segments and the hold queue (chapter 5) -/

/-- R85 and R89: the state a line derives, what a change of it sets off, and the selection of a line. -/
def Obligations.LinesDeriveTheirState : Prop :=
  ∀ (s : State) (l : LineIx),
    let x := s.line l
    let n := derivedState x
    n = (if x.causes.mgmtDisabled then .disabled
      else if x.causes.binFullSense ∨ x.causes.fillFull ∨ x.causes.binDown ∨ x.causes.routeDown then .closed
      else if x.record.nearFull ≤ x.lastFill then .nearFull else .opened) ∧
    (n = x.state → rederive l s = s) ∧
    (n ≠ x.state →
      let told := { s.setLine l { x with state := n } with mail := s.mail ++ (match n with
        | .closed => [.conditionRequest .lineClosed, .lineStateReport l n]
        | .nearFull => [.conditionRequest .lineNearFull, .lineStateReport l n]
        | _ => [.lineStateReport l n]) }
      let wasUsable := x.state = .opened ∨ x.state = .nearFull
      let isUsable := n = .opened ∨ n = .nearFull
      (wasUsable → isUsable → rederive l s = told) ∧
      (¬ wasUsable → ¬ isUsable → rederive l s = told) ∧
      (¬ wasUsable → isUsable → rederive l s = walk told) ∧
      (wasUsable → ¬ isUsable → rederive l s = walk (reselect l (fun _ => true) told))) ∧
    ∀ (kept : Bool) (m : Option Material),
      let takes (k : LineIx) := ((s.line k).state = .opened ∨ (s.line k).state = .nearFull) ∧
        ∀ y, m = some y → hasBit (s.line k).record.materials (codeOf materials y) = true
      selectLine s none l kept m = if takes l then some l else if kept then none else
        match x.record.overflow with
        | none => none
        | some o => if takes o then some o else none

/-- R84, R86 to R88 and R165: the causes of a line, by a FILL from its bin, by the latches of its bin, by its ports, and by
LINE_CONTROL. A FILL and a port's report judge every line that names the port, each in turn, the lowest first, with all that
follows from it before the next (log entry 25); a line that no command names stands. -/
def Obligations.LineCausesFollowTheirSources : Prop :=
  ∀ (s : State),
    (∀ (l : LineIx) (b : Bool), let x := s.line l
      exec (.binFullReport l b) s = .next (rederive l (s.setLine l { x with causes := { x.causes with binFullSense := b } }))) ∧
    (∀ (p : Port) (v : Fin 256), (∀ l, (s.line l).record.binPort ≠ p) → exec (.fill p v) s = .next s) ∧
    (∀ (p : Port) (v : Fin 256) (l : LineIx), (s.line l).record.binPort = p →
      (∀ k, k ≠ l → (s.line k).record.binPort ≠ p) →
      let x := s.line l
      let w := min v.val 100
      let full := if x.record.full ≤ w then true else if w < x.record.nearFull then false else x.causes.fillFull
      exec (.fill p v) s = .next (rederive l (s.setLine l { x with
        lastFill := w, causes := { x.causes with fillFull := full } }))) ∧
    (∀ (p : Port) (v : Fin 256), exec (.fill p v) s = .next (
      ((indices 8).filter fun l => decide ((s.line l).record.binPort = p)).foldl (fun t l =>
        let x := t.line l
        let w := min v.val 100
        let full := if x.record.full ≤ w then true else if w < x.record.nearFull then false else x.causes.fillFull
        rederive l (t.setLine l { x with lastFill := w, causes := { x.causes with fillFull := full } })) s)) ∧
    (∀ p : Port, exec (.portEventReport p) s = .next (
      let up (r : Role) (q : Port) : Bool := decide ((s.port q).link = .up ∧ s.role q = r)
      ((indices 8).filter fun l =>
          decide ((s.line l).record.binPort = p ∨ ∃ h ∈ (s.line l).record.route, h.port = p)).foldl (fun t l =>
        let x := t.line l
        rederive l (t.setLine l { x with causes := { x.causes with
          binDown := !up .bin x.record.binPort, routeDown := x.record.route.any fun h => !up .sorter h.port } })) s)) ∧
    (∀ p : Port, (∀ l, (s.line l).record.binPort ≠ p ∧ ∀ h ∈ (s.line l).record.route, h.port ≠ p) →
      exec (.portEventReport p) s = .next s) ∧
    (∀ (p : Port) (l : LineIx), (s.line l).record.binPort = p ∨ (∃ h ∈ (s.line l).record.route, h.port = p) →
      (∀ k, k ≠ l → (s.line k).record.binPort ≠ p ∧ ∀ h ∈ (s.line k).record.route, h.port ≠ p) →
      let x := s.line l
      let up (r : Role) (q : Port) : Bool := decide ((s.port q).link = .up ∧ s.role q = r)
      exec (.portEventReport p) s = .next (rederive l (s.setLine l { x with causes := { x.causes with
        binDown := !up .bin x.record.binPort, routeDown := x.record.route.any fun h => !up .sorter h.port } }))) ∧
    ∀ r : Requester, ServesRequests s r.port →
      (∀ i, 8 ≤ i → Answers (.lineEnable r i) r .badIndex .none s s ∧ Answers (.lineDisable r i) r .badIndex .none s s) ∧
      ∀ l : LineIx, let x := s.line l
        Answers (.lineEnable r l.val) r .done .none s
          (rederive l (s.setLine l { x with enabled := true, causes := { x.causes with mgmtDisabled := false } })) ∧
        Answers (.lineDisable r l.val) r .done .none s
          (rederive l (s.setLine l { x with enabled := false, causes := { x.causes with mgmtDisabled := true } }))

/-- R93 to R95 and R97 to R100: a capacity request, the walk of the hold queue, a re-selection, a removal and a release. The
walk and the re-selection take the entries of the queue in turn, and are stated by their rules on the entry they meet. While a
tag is free, an entry that shares no segment with those passed over and whose pitch fits is granted and leaves the queue; any
other stays and blocks its segments. An entry of a line that has become unusable takes the line that selection finds without
that one, in its place in the queue, or leaves the queue, and its context is told either way. -/
def Obligations.SpaceIsGranted : Prop :=
  ∀ (s : State),
    (∀ x : CapacityRequest,
      (selectLine s none x.start x.kept x.material = none → capacityRequest x s = (.noLine, s)) ∧
      ∀ l, selectLine s none x.start x.kept x.material = some l →
        let segments := (s.line l).record.segments
        let room := (∀ g ∈ segments, (cell s.lines.segments g).reserved + x.pitch ≤ (cell s.lines.segments g).capacity) ∧
          ∀ e ∈ s.lines.holdQueue, ∀ g ∈ e.segments, g ∉ segments
        (∀ t, lowestFree s = some t → room →
          capacityRequest x s = (.granted l x.pitch t (claimGen s t), grant t x.intake x.seq l x.pitch s)) ∧
        (lowestFree s = none ∨ ¬ room →
          (x.mayQueue = true → capacityRequest x s = (.queued l x.pitch, { s with lines := { s.lines with
            holdQueue := s.lines.holdQueue ++ [⟨x.intake, x.seq, x.start, x.kept, x.material, l, x.pitch, segments⟩] } })) ∧
          (x.mayQueue = false → capacityRequest x s = (.denied, s)))) ∧
    (∀ t l, (s.line l).record.segments.Nodup →
      ∀ (p : Port) (q : Byte) (n : Nat),
        let u := grant t p q l n s
        let g := (cell s.lines.tags t).gen + 1
        (∀ k, cell u.lines.segments k = if k ∈ (s.line l).record.segments then
          { cell s.lines.segments k with reserved := (cell s.lines.segments k).reserved + n } else cell s.lines.segments k) ∧
        u.lines.tags = put s.lines.tags t ⟨false, g⟩ ∧ u.line l = { s.line l with live := (s.line l).live + 1 } ∧
        (∀ k, k ≠ l → u.line k = s.line k) ∧ u.lines.holdQueue = s.lines.holdQueue ∧ u.lines.pitches = s.lines.pitches ∧
        u.mail = s.mail ++ [.claim ⟨t, g, p, q, l, (s.line l).record.route, (s.line l).record.segments,
          (s.line l).record.transitLimit, n⟩] ∧
        { u with lines := s.lines, mail := s.mail } = s) ∧
    (∀ (w : Walk) (e : HoldEntry),
      let stays : Walk := { w with left := w.left ++ [e] }
      let passed : Walk := { stays with blocked := w.blocked ++ e.segments }
      let blocked := ∃ g ∈ e.segments, g ∈ w.blocked
      (w.ended = true → walkEntry w e = stays) ∧
      (w.ended = false → lowestFree w.state = none → walkEntry w e = { stays with ended := true }) ∧
      ∀ t, w.ended = false → lowestFree w.state = some t →
        (blocked ∨ fits w.state e.segments e.pitch = false → walkEntry w e = passed) ∧
        (¬ blocked → fits w.state e.segments e.pitch = true → walkEntry w e = { w with
          state := (grant t e.intake e.seq e.line e.pitch w.state).post
            (.grantNotice e.intake e.seq t (claimGen w.state t) e.line e.pitch) })) ∧
    (let w := s.lines.holdQueue.foldl walkEntry ⟨[], [], false, s⟩
     walk s = { w.state with lines := { w.state.lines with holdQueue := w.left } }) ∧
    (s.lines.holdQueue = [] → walk s = s) ∧
    (∀ (l : LineIx) (w : Reselection) (e : HoldEntry),
      let u := w.state
      let takes (k : LineIx) := k ≠ l ∧ ((u.line k).state = .opened ∨ (u.line k).state = .nearFull) ∧
        ∀ y, e.material = some y → hasBit (u.line k).record.materials (codeOf materials y) = true
      let moved (m : LineIx) : Reselection :=
        ⟨w.queue ++ [{ e with line := m, segments := (u.line m).record.segments }],
          u.post (.reselectionNotice e.intake e.seq (some m) e.start)⟩
      let removed : Reselection := ⟨w.queue, u.post (.reselectionNotice e.intake e.seq none e.start)⟩
      (takes e.start → reselectEntry l w e = moved e.start) ∧
      (¬ takes e.start →
        (∀ o, e.kept = false → (u.line e.start).record.overflow = some o → takes o → reselectEntry l w e = moved o) ∧
        ((e.kept = true ∨ ∀ o, (u.line e.start).record.overflow = some o → ¬ takes o) → reselectEntry l w e = removed))) ∧
    (∀ (l : LineIx) (which : HoldEntry → Bool),
      let r := s.lines.holdQueue.foldl (fun (w : Reselection) e =>
        if e.line = l ∧ which e = true then reselectEntry l w e else { w with queue := w.queue ++ [e] }) ⟨[], s⟩
      reselect l which s = { r.state with lines := { r.state.lines with holdQueue := r.queue } } ∧
      ((∀ e ∈ s.lines.holdQueue, e.line ≠ l ∨ which e = false) → reselect l which s = s)) ∧
    (∀ p, (∀ e ∈ s.lines.holdQueue, e.intake ≠ p) → exec (.removalRequest p) s = .next (walk s)) ∧
    (∀ p a e b, s.lines.holdQueue = a ++ e :: b → e.intake = p → (∀ x ∈ a, x.intake ≠ p) →
      exec (.removalRequest p) s = .next (walk { s with lines := { s.lines with holdQueue := a ++ b } })) ∧
    ∀ t g l n segments,
      ((cell s.lines.tags t).free = true ∨ (cell s.lines.tags t).gen ≠ g →
        exec (.releaseNotice t g l n segments) s = .next s) ∧
      ((cell s.lines.tags t).free = false → (cell s.lines.tags t).gen = g → segments.Nodup →
        ∃ u, exec (.releaseNotice t g l n segments) s = .next (walk u) ∧
          (∀ k, cell u.lines.segments k = if k ∈ segments then
            { cell s.lines.segments k with reserved := (cell s.lines.segments k).reserved - n } else cell s.lines.segments k) ∧
          u.lines.tags = put s.lines.tags t ⟨true, g⟩ ∧ u.line l = { s.line l with live := (s.line l).live - 1 } ∧
          (∀ k, k ≠ l → u.line k = s.line k) ∧ u.lines.holdQueue = s.lines.holdQueue ∧ u.lines.pitches = s.lines.pitches ∧
          { u with lines := s.lines } = s)

/-- R82, R83 and R91: which line records are valid, and the writes of a line record and of a segment's capacity. After a line
write every entry of the hold queue on that line takes the new segments, those it can no longer take are re-selected, and the
queue is walked; after a capacity write it is walked. -/
def Obligations.LineRecordsAreWritten : Prop :=
  ∀ (s : State) (r : Requester), ServesRequests s r.port →
    (∀ i x, 8 ≤ i → Answers (.lineWrite r i x) r .badIndex .none s s) ∧
    (∀ i v, 12 ≤ i → Answers (.segmentWrite r i v) r .badIndex .none s s) ∧
    (∀ (g : SegIx) (v : Nat),
      Answers (.segmentWrite r g.val v) r (if v ≤ 255 then .done else .doneClamped) .none s
        (walk { s with lines := { s.lines with
          segments := put s.lines.segments g { cell s.lines.segments g with capacity := min v 255 } } })) ∧
    ∀ (l : LineIx) (x : LineFields),
      (lineRecordOf l x = none → Answers (.lineWrite r l.val x) r .badValue .none s s) ∧
      (∀ y, lineRecordOf l x = some y → 0 < (s.line l).live → Answers (.lineWrite r l.val x) r .notAllowed .none s s) ∧
      ((∃ y, lineRecordOf l x = some y) ↔
        1 ≤ x.route.length ∧ x.route.length ≤ 6 ∧ (∀ h ∈ x.route, h.1 < 12 ∧ h.2.1 < 4 ∧ h.2.2 < 3) ∧
        1 ≤ x.segments.length ∧ x.segments.length ≤ 4 ∧ (∀ g ∈ x.segments, g < 12) ∧ x.segments.Nodup ∧ x.binPort < 12 ∧
        (x.overflow = 255 ∨ x.overflow < 8 ∧ x.overflow ≠ l.val) ∧ x.nearFull < x.full ∧ x.full ≤ 100) ∧
      (∀ y, lineRecordOf l x = some y → (s.line l).live = 0 →
        let old := s.line l
        let up (q : Role) (p : Port) : Bool := decide ((s.port p).link = .up ∧ s.role p = q)
        let moved := old.record.binPort ≠ y.binPort
        let fill := if moved then 0 else old.lastFill
        let full := if moved then false
          else if old.record.nearFull = y.nearFull ∧ old.record.full = y.full then old.causes.fillFull
          else if y.full ≤ fill then true else if fill < y.nearFull then false else old.causes.fillFull
        let new : Line := { old with record := y, lastFill := fill, causes := { old.causes with
          fillFull := full, binDown := !up .bin y.binPort, routeDown := y.route.any fun h => !up .sorter h.port } }
        let st : Status := if y.transitLimit = x.transitLimit then .done else .doneClamped
        let t := rederive l (s.setLine l new)
        let renewed : State := { t with lines := { t.lines with
          holdQueue := t.lines.holdQueue.map fun e => if e.line = l then { e with segments := y.segments } else e } }
        let leaves (e : HoldEntry) : Bool := !decide ((t.line l).state = .opened ∨ (t.line l).state = .nearFull) ||
          (e.material.any fun m => !hasBit y.materials (codeOf materials m))
        (s.lines.holdQueue = [] → Answers (.lineWrite r l.val x) r st .none s t) ∧
        Answers (.lineWrite r l.val x) r st .none s (walk (reselect l leaves renewed))) ∧
      ∀ y, lineRecordOf l x = some y →
        1 ≤ y.route.length ∧ y.route.length ≤ 6 ∧ 1 ≤ y.segments.length ∧ y.segments.length ≤ 4 ∧ y.segments.Nodup ∧
        y.overflow.map (·.val) = (if x.overflow = 255 then none else some x.overflow) ∧
        y.overflow ≠ some l ∧ y.nearFull < y.full ∧ y.full ≤ 100 ∧ y.transitLimit = max 500 (min 60000 x.transitLimit) ∧
        y.binPort.val = x.binPort ∧ y.segments.map (·.val) = x.segments ∧ y.materials = x.materials ∧
        y.nearFull = x.nearFull ∧ y.full = x.full ∧ y.route.map (fun h => (h.port.val, h.gate.val, codeOf positions h.position)) =
          x.route

/-! ### The transit table (chapter 6) -/

/-- R103 and R104: a claim, and the container record that starts the setting of the gates. -/
def Obligations.ClaimsAndRecordsAreTaken : Prop :=
  ∀ (s : State),
    (∀ c : Claim, exec (.claim c) s = .next (s.setEntry c.tag
      { state := .gating, gen := c.gen, step := some .awaitingRecord,
        use := some ⟨c.intake, c.seq, c.line, c.route, c.segments, c.pitch, c.limit, 0, 0⟩, record := none, hopIndex := none,
        heldRelease := false, timer := none })) ∧
    ∀ (t : Tag) (g : Gen) (r : ContainerRecord),
      let e := s.entry t
      (e.use = none ∨ e.state ≠ .gating ∨ e.step ≠ some .awaitingRecord ∨ e.gen ≠ g →
        exec (.containerRecord t g r) s = .next s) ∧
      ∀ u, e.use = some u → e.state = .gating → e.step = some .awaitingRecord → e.gen = g →
        (∀ h, u.route = [h] → cell s.transit.backlog h.port = [] → offerAnswer s h.port = .accepted →
          exec (.containerRecord t g r) s = .next ((enqueue s h.port (.gateSet t g 0 h.gate h.position)).setEntry t
            { e with step := some .setting, record := some r.cargo, timer := startTimer s.mgmt.timers.gateAck })) ∧
        (∀ h rest, u.route = h :: rest → cell s.transit.backlog h.port ≠ [] ∨ offerAnswer s h.port ≠ .accepted →
          exec (.containerRecord t g r) s = .next (((clearGates t g u.route s).setEntry t (.free g)).post
            (.releaseNotice t g u.line u.pitch u.segments) |>.post (.gateFault u.intake .refused t g (u.refusal ||| 1)))) ∧
        (∀ i v, offerGates t g 0 u.route s = (some i, v) → exec (.containerRecord t g r) s =
          .next (((clearGates t g u.route v).setEntry t (.free g)).post (.releaseNotice t g u.line u.pitch u.segments) |>.post
            (.gateFault u.intake .refused t g (u.refusal ||| (1#6 <<< i))))) ∧
        ∀ v, offerGates t g 0 u.route s = (none, v) → exec (.containerRecord t g r) s = .next (v.setEntry t
          { e with step := some .setting, record := some r.cargo, timer := startTimer s.mgmt.timers.gateAck })

/-- R105 to R107: a GATE_ACK. One that names no hop of the source port in an entry past AWAITING_RECORD of its generation is
stale. A NORMAL one joins the ack set; when the set is full the RELEASE is offered to the intake. Any other result cancels the
entry. -/
def Obligations.GatesAreAcknowledged : Prop :=
  ∀ (s : State) (p : Port) (t : Tag) (g : Gen) (h : HopIx) (x : GateResult),
    let e := s.entry t
    let open_ := e.state = .gating ∧ (e.step = some .setting ∨ e.step = some .releaseWait)
    (e.use = none → exec (.gateAck p t g h x) s = .next (s.request .staleFrame)) ∧
    ∀ u, e.use = some u →
      let names := ∃ k, u.route[h.val]? = some k ∧ k.port = p
      (e.gen ≠ g ∨ ¬ open_ ∨ ¬ names → exec (.gateAck p t g h x) s = .next (s.request .staleFrame)) ∧
      (e.gen = g → open_ → names →
        (x ≠ .normal → exec (.gateAck p t g h x) s = .next (((clearGates t g u.route s).setEntry t (.free g)).post
          (.releaseNotice t g u.line u.pitch u.segments) |>.post
          (.gateFault u.intake .refused t g (u.refusal ||| (1#6 <<< h.val))))) ∧
        (u.ack.getLsbD h.val = true → exec (.gateAck p t g h .normal) s = .next s) ∧
        (u.ack.getLsbD h.val = false →
          let v : EntryUse := { u with ack := u.ack ||| (1#6 <<< h.val) }
          let f : Entry := { e with use := some v }
          (v.ack ≠ allHops u.route.length → exec (.gateAck p t g h .normal) s = .next (s.setEntry t f)) ∧
          (v.ack = allHops u.route.length →
            (offerAnswer s u.intake = .accepted → exec (.gateAck p t g h .normal) s = .next
              (((enqueue s u.intake (.release t g u.seq)).setEntry t
                { f with state := .releaseSent, step := none, heldRelease := false, timer := none }).post
                (.gatesSetReport u.intake t g))) ∧
            (offerAnswer s u.intake = .queueFull → exec (.gateAck p t g h .normal) s = .next
              (s.setEntry t { f with step := some .releaseWait, heldRelease := true })) ∧
            (offerAnswer s u.intake = .notUp → exec (.gateAck p t g h .normal) s = .next
              (s.setEntry t { f with step := some .releaseWait, heldRelease := false })))))

/-- R108 to R112, R115: the ways an entry is given up before its drop, and the GATE_CLEAR of each gate of its route, in hop
order. A sorter port that leaves UP gives up every entry with a hop there, the lowest tag first, in one event (log entry 42). -/
def Obligations.EntriesAreCancelled : Prop :=
  ∀ (s : State) (t : Tag) (g : Gen),
    let e := s.entry t
    (e.use = none → exec (.gateAckTimerExpiry t) s = .next s ∧ exec (.cancelRequest t g) s = .next s ∧
      exec (.freeRequest t g) s = .next s) ∧
    (∀ u, e.use = some u →
      let freed (v : State) : State := (v.setEntry t (.free e.gen)).post (.releaseNotice t e.gen u.line u.pitch u.segments)
      let setting := e.state = .gating ∧ (e.step = some .setting ∨ e.step = some .releaseWait)
      (¬ setting ∨ e.timer = none → exec (.gateAckTimerExpiry t) s = .next s) ∧
      (setting → e.timer ≠ none → exec (.gateAckTimerExpiry t) s = .next ((freed (clearGates t e.gen u.route s)).post
        (.gateFault u.intake .timeout t e.gen (allHops u.route.length &&& ~~~u.ack)))) ∧
      ((e.state = .gating ∨ e.state = .releaseSent) → e.gen = g →
        exec (.cancelRequest t g) s = .next (freed (clearGates t g u.route s))) ∧
      ((e.state ≠ .gating ∧ e.state ≠ .releaseSent) ∨ e.gen ≠ g → exec (.cancelRequest t g) s = .next s) ∧
      (e.state = .releaseSent → e.gen = g → exec (.freeRequest t g) s = .next (freed s)) ∧
      (e.state ≠ .releaseSent ∨ e.gen ≠ g → exec (.freeRequest t g) s = .next s) ∧
      ∀ p, setting → (∃ h ∈ u.route, h.port = p) →
        (∀ k v, k ≠ t → (s.entry k).use = some v → (s.entry k).state = .gating → ∀ h ∈ v.route, h.port ≠ p) →
        exec (.sorterDownReport p) s = .next ((freed (clearGates t e.gen u.route s)).post
          (.gateFault u.intake .refused t e.gen (u.refusal ||| hopsAt p u.route)))) ∧
    (∀ p, (∀ k v, (s.entry k).use = some v → (s.entry k).state = .gating → ∀ h ∈ v.route, h.port ≠ p) →
      exec (.sorterDownReport p) s = .next s) ∧
    (∀ p, exec (.sorterDownReport p) s = .next ((indices 64).foldl (sorterDownEntry p) s) ∧
      (∀ u, e.use = some u → e.state = .gating → (e.step = some .setting ∨ e.step = some .releaseWait) →
        (∃ h ∈ u.route, h.port = p) → sorterDownEntry p s t = (((clearGates t e.gen u.route s).setEntry t (.free e.gen)).post
          (.releaseNotice t e.gen u.line u.pitch u.segments) |>.post
          (.gateFault u.intake .refused t e.gen (u.refusal ||| hopsAt p u.route)))) ∧
      ((e.use = none ∨ e.state ≠ .gating ∨ e.step = some .awaitingRecord ∨
        ∃ u, e.use = some u ∧ ∀ h ∈ u.route, h.port ≠ p) → sorterDownEntry p s t = s)) ∧
    clearGates t g [] s = s ∧
    (∀ (h : Hop) (r : List Hop), clearGates t g (h :: r) s = clearGates t g r (sendClear h.port ⟨t, g, h.gate⟩ s)) ∧
    (∀ (n : Port) (r : List Hop) (i : Nat), i < 6 → r.length ≤ 6 →
      (hopsAt n r).getLsbD i = ((r[i]?).map fun h => decide (h.port = n)).getD false) ∧
    ∀ (p : Port) (c : ClearFrame),
      let b := cell s.transit.backlog p
      (b = [] → offerAnswer s p = .accepted → sendClear p c s = enqueue s p (.gateClear c)) ∧
      (b = [] → offerAnswer s p = .queueFull → sendClear p c s = s.setBacklog p [c]) ∧
      (b = [] → offerAnswer s p = .notUp → sendClear p c s = s) ∧
      (b ≠ [] → (∀ d ∈ b, d.gate ≠ c.gate) → sendClear p c s = s.setBacklog p (b ++ [c])) ∧
      ((∃ d ∈ b, d.gate = c.gate) →
        sendClear p c s = s.setBacklog p (b.map fun d => if d.gate = c.gate then c else d))

/-- R113 to R119: the drop of a container, its passages and its arrival, and the expiry of its transit timer. -/
def Obligations.ContainersTravel : Prop :=
  ∀ (s : State) (p : Port) (t : Tag) (g : Gen),
    let e := s.entry t
    (∀ q, (∀ k v, (s.entry k).state = .releaseSent → (s.entry k).use = some v → v.intake = p → v.seq ≠ q) →
      exec (.dropped p q) s = .next (s.request .staleFrame)) ∧
    (∀ u r, e.use = some u → e.record = some r → e.state = .releaseSent → u.intake = p →
      (∀ k v, k ≠ t → (s.entry k).state = .releaseSent → (s.entry k).use = some v → v.intake = p → v.seq ≠ u.seq) →
      exec (.dropped p u.seq) s = .next { s.setEntry t { e with
        state := .moving, hopIndex := some 0, timer := startTimer u.limit } with
        mail := s.mail ++ [.posting ⟨p, u.seq, t, r.credit, r.kept⟩, .flagClear p, .dropReport p t e.gen] }) ∧
    (∀ gate, e.use = none ∨ e.state ≠ .moving ∨ e.gen ≠ g →
      exec (.passage p t g gate) s = .next (s.request .staleFrame) ∧
      exec (.arrival p t g) s = .next (s.request .staleFrame)) ∧
    (e.use = none ∨ e.state ≠ .moving ∨ e.timer = none → exec (.transitTimerExpiry t) s = .next s) ∧
    ∀ u, e.use = some u → e.state = .moving →
      let freed : State := (s.setEntry t (.free e.gen)).post (.releaseNotice t e.gen u.line u.pitch u.segments)
      let lost (k : TransitFaultKind) := freed.post (.transitFault k t e.gen u.intake u.seq)
      (e.timer ≠ none → exec (.transitTimerExpiry t) s = .next (lost .lost)) ∧
      (e.gen = g →
        ((s.line u.line).record.binPort = p → exec (.arrival p t g) s = .next freed) ∧
        ((s.line u.line).record.binPort ≠ p → exec (.arrival p t g) s = .next (lost .misroute)) ∧
        ∀ (gate : Gate) (i : Nat), e.hopIndex = some i →
          ((∀ h ∈ u.route.drop i, h.port ≠ p ∨ h.gate ≠ gate) →
            exec (.passage p t g gate) s = .next (lost .misroute)) ∧
          ∀ k h, i ≤ k → u.route[k]? = some h → h.port = p → h.gate = gate →
            (∀ j x, i ≤ j → j < k → u.route[j]? = some x → x.port ≠ p ∨ x.gate ≠ gate) →
            exec (.passage p t g gate) s = .next (s.setEntry t { e with hopIndex := some (k + 1) }))

/-! ### Sessions (chapter 7) -/

/-- R122, R123, R125 and R126. A posting that fits is added with one TALLY, also where it opens the session (log entry 26), and
at a port without a session it adds nothing (log entry 7). In CLOSING_WAIT the awaited one is added, whatever the limit (log entry
52), and the close tried again, with one TALLY (log entry 43), and any other is carried, in place of one carried before (log
entry 58); one past the limit of a session that cannot close is carried too, the awaited one also (log entry 29). A posting past the limit makes a close attempt, and is taken by the session that a completed
close leaves, or carried. The class counts are merged in the order they come, each class in its place. A drop note is matched
with the last posting, or awaited. A TALLY that is due is built from the session as it stands, and is owed while the port has no
place for it. -/
def Obligations.PostingsAreTaken : Prop :=
  (∀ (s : State) (g : Posting),
     let p := g.intake
     (s.session p = none → exec (.posting g) s = .next s) ∧
     ∀ x, s.session p = some x →
       let awaited := x.awaited.any fun a => a.tag == g.tag && a.seq == g.seq
       let new : Session := { x with
         kept := if g.kept then min (x.kept + 1) 65535 else x.kept
         containers := if g.kept then x.containers else min (x.containers + 1) 65535
         subtotals := g.credit.split.foldl (fun v y => put v y.1 (cell v y.1 + y.2)) x.subtotals
         total := x.total + g.credit.credit
         classes := g.credit.classes.foldl mergeClass x.classes
         last := if awaited then none else some ⟨g.tag, g.seq⟩
         awaited := if awaited then none else x.awaited }
       (x.state = .idle ∨ x.state = .opened → x.total + g.credit.credit ≤ x.limit → exec (.posting g) s = .next
         (offerTally p (s.setSession p (some { new with state := .opened, idleTimer := startIdleTimer s })))) ∧
       (x.state = .closePending → x.total + g.credit.credit ≤ x.limit →
         exec (.posting g) s = .next (offerTally p (s.setSession p (some new)))) ∧
       (x.state = .idle ∨ x.state = .opened → takePosting p g s =
         offerTally p (s.setSession p (some { new with state := .opened, idleTimer := startIdleTimer s }))) ∧
       (x.state = .closePending ∨ x.state = .closingWait →
         takePosting p g s = offerTally p (s.setSession p (some new))) ∧
       (x.state ≠ .closingWait → x.limit < x.total + g.credit.credit → ∀ t,
         (closeAttempt p s = (true, t) → exec (.posting g) s = .next (takePosting p g t)) ∧
         (∀ y, closeAttempt p s = (false, t) → t.session p = some y →
           exec (.posting g) s = .next (t.setSession p (some { y with carried := some g })))) ∧
       (x.state = .closingWait → awaited = true → exec (.posting g) s = .next (
         let r := closeAttempt p (s.setSession p (some new))
         if r.1 then r.2 else offerTally p r.2)) ∧
       (x.state = .closingWait → awaited = false →
         exec (.posting g) s = .next (s.setSession p (some { x with carried := some g }))) ∧
       (x.state = .opened → x.limit < x.total + g.credit.credit → x.awaited.isSome = true →
         offerAnswer s p = .notUp →
         exec (.posting g) s = .next { s with
           tally := {
             sessions := put s.tally.sessions p (some { x with
               state := .closingWait, idleTimer := none, owed := false, carried := some g })
             closingWait := s.tally.closingWait ++ [p] } }) ∧
       ∀ t q n,
         (x.last = some ⟨t, q⟩ → exec (.dropNote p t q n) s = .next (s.setSession p (some { x with last := none }))) ∧
         (x.last ≠ some ⟨t, q⟩ →
           exec (.dropNote p t q n) s = .next (s.setSession p (some { x with awaited := some ⟨t, q, n⟩ })))) ∧
  (∀ (l : List (ClassIx × Nat)) (y : ClassIx × Nat),
     ((∀ z ∈ l, z.1 ≠ y.1) → mergeClass l y = l ++ [y]) ∧
     ∀ a n b, l = a ++ (y.1, n) :: b → (∀ z ∈ a, z.1 ≠ y.1) → mergeClass l y = a ++ (y.1, min (n + y.2) 65535) :: b) ∧
  (∀ (s : State) (p : Port) (x : Session), s.session p = some x →
     offerTally p s = match offerAnswer s p with
       | .accepted => (enqueue s p (.tally x.state x.containers x.total)).setSession p (some { x with owed := false })
       | .queueFull => s.setSession p (some { x with owed := true })
       | .notUp => s.setSession p (some { x with owed := false }))

/-- R125, R127 to R129 and R134: a close attempt; and the session test, which makes a close attempt where the credit would pass
the limit, so that the session rolls over, or answers that it waits. A close that completes takes the carried posting, and at a
port that no longer holds INTAKE the session is removed, after the TALLY of its change of state (log entry 44). -/
def Obligations.SessionsClose : Prop :=
  (∀ (s : State) (p : Port) (x : Session) (c limit : Nat), s.session p = some x →
    let t := s.setSession p (some { x with limit := limit })
    let taking := x.state = .idle ∨ x.state = .opened
    let closes : TestAnswer × State :=
      let r := closeAttempt p t
      if r.1 then (.closed, r.2) else (.waiting, markWaiting p r.2)
    (x.state = .closingWait → sessionTest p c limit s = (.waiting, markWaiting p t)) ∧
    (x.state = .closePending → sessionTest p c limit s = closes) ∧
    (∀ n, taking → (n = match x.awaited with
        | none => 0
        | some a => a.credit) →
      (x.total + n + c ≤ limit → sessionTest p c limit s = (.fits, t)) ∧
      (limit < x.total + n + c → x.awaited = none → sessionTest p c limit s = closes) ∧
      (limit < x.total + n + c → x.awaited ≠ none →
        sessionTest p c limit s = (.waiting, markWaiting p (enterClosingWait p t)))) ∧
    markWaiting p s = s.setSession p (some { x with ctxWaiting := true })) ∧
  (∀ (s : State) (p : Port) (x : Session) (g : Posting), s.session p = some x → x.carried = some g → s.role p = .intake →
    let bare := s.setSession p (some { x with carried := none })
    ∀ t, (closeAttempt p bare = (true, t) → closeAttempt p s = (true, takePosting p g t)) ∧
      (∀ y, closeAttempt p bare = (false, t) → t.session p = some y →
        closeAttempt p s = (false, t.setSession p (some { y with carried := some g })))) ∧
  ∀ (s : State) (p : Port) (x : Session), s.session p = some x → x.carried = none →
    let waits (t : State) : State := if x.state = .closingWait then t else offerTally p
      { t.setSession p (some { x with state := .closingWait, idleTimer := none }) with
        tally := { t.tally with
          sessions := put t.tally.sessions p (some { x with state := .closingWait, idleTimer := none })
          closingWait := t.tally.closingWait ++ [p] } }
    let done (t : State) : State :=
      let y : Session := { x with
        state := .idle, containers := 0, kept := 0, subtotals := Vector.replicate 4 0, total := 0, classes := [],
        idleTimer := none, ctxWaiting := false }
      let v : State := { t with
        tally := ⟨put t.tally.sessions p (some y), t.tally.closingWait.filter (· != p)⟩
        mail := t.mail ++ if x.ctxWaiting then [.closeCompleted p] else [] }
      let w := if x.state = .idle then v else offerTally p v
      if s.role p = .intake then w else w.setSession p none
    (x.awaited.isSome = true → closeAttempt p s = (false, waits s)) ∧
    (x.awaited = none → x.total = 0 → closeAttempt p s = (true, done s)) ∧
    (x.awaited = none → x.total ≠ 0 →
      ((∀ c, (s.port p).entry.counterPort = some c → s.role c ≠ .counter) → closeAttempt p s = (false, waits s)) ∧
      ∀ c, (s.port p).entry.counterPort = some c → s.role c = .counter →
        let r := createVoucher ⟨c, p, x.subtotals, x.total, x.containers, x.kept⟩ s
        (r.1 = .queueFull → closeAttempt p s = (false, waits r.2)) ∧
        (∀ n, r.1 = .created n → closeAttempt p s = (true, done r.2)))

/-- R130 to R133: the FINISH table, the answer to a return request, the timer of an idle session, and the reports that make a
session try to close. The idle timer of a value of t s runs for t * 1000 + 1 ticks (log entry 3). -/
def Obligations.SessionsFinish : Prop :=
  ∀ (s : State) (p : Port) (x : Session), s.session p = some x →
    let closed : State := (closeAttempt p s).2
    let restarted (y : Session) : Session := { y with
      idleTimer := if s.mgmt.timers.idle = 0 then none else some (s.mgmt.timers.idle * 1000 + 1) }
    let resting (c : CtxState) := c = .idle ∨ c = .stopped ∨ c = .locked ∨ c = .returning
    (x.state = .idle ∨ x.state = .closePending → exec (.finish p) s = .next s) ∧
    (x.state = .opened → resting x.reported → exec (.finish p) s = .next closed) ∧
    (x.state = .opened → x.reported = .gating ∨ x.reported = .releasing → exec (.finish p) s = .next
      (offerTally p (s.setSession p (some { x with state := .closePending, idleTimer := none })))) ∧
    (x.state = .opened → x.reported = .holding ∨ x.reported = .paused →
      exec (.finish p) s = .next (s.post (.returnRequest p))) ∧
    (x.state = .closingWait → exec (.finish p) s = .next
      (if x.reported = .paused then s.post (.returnRequest p) else s)) ∧
    (∀ c, x.state = .opened → exec (.returnAnswer p true c) s = .next closed) ∧
    (∀ c, x.state ≠ .opened → exec (.returnAnswer p true c) s = .next s ∧ exec (.returnAnswer p false c) s = .next s) ∧
    (∀ c, x.state = .opened → exec (.returnAnswer p false c) s = .next
      (if c = .gating ∨ c = .releasing then
        offerTally p (s.setSession p (some { x with state := .closePending, idleTimer := none }))
       else if c = .holding ∨ c = .paused then s else closed)) ∧
    exec (.present p) s = .next (if x.state = .opened then s.setSession p (some (restarted x)) else s) ∧
    (x.idleTimer = none → exec (.idleTimerExpiry p) s = .next s) ∧
    (x.idleTimer ≠ none → x.state = .opened →
      exec (.idleTimerExpiry p) s = .next (if (x.reported = .idle ∨ x.reported = .stopped ∨ x.reported = .locked) ∧
        x.awaited = none then closed else s.setSession p (some (restarted x)))) ∧
    (x.idleTimer ≠ none → x.state ≠ .opened →
      exec (.idleTimerExpiry p) s = .next (s.setSession p (some { x with idleTimer := none }))) ∧
    (∀ c, tallyReport p c s = (if x.state = .closePending ∧ c ≠ .releasing then
        (closeAttempt p (s.setSession p (some { x with reported := c }))).2
      else s.setSession p (some { x with reported := c }))) ∧
    (∀ q, s.tally.closingWait = [p] → x.state = .closingWait → (s.port p).entry.counterPort = some q →
      exec (.voucherPlaceFreed q) s = .next closed) ∧
    ∀ q, (∀ k ∈ s.tally.closingWait, (s.port k).entry.counterPort ≠ some q) → exec (.voucherPlaceFreed q) s = .next s

/-! ### Vouchers (chapter 8) -/

/-- R137 to R140: a voucher takes a number that no record in a queue has, bonuses rounded down scheme by scheme, and a total
that is their sum; a full queue takes none. -/
def Obligations.VouchersAreCreated : Prop :=
  ∀ (s : State) (x : VoucherRequest),
    let answered (a : VoucherAnswer) (t : State) : State := { t with vouchers := { t.vouchers with answer := some a } }
    (s.unit x.counter = none ∨ (∃ u, s.unit x.counter = some u ∧ 8 ≤ u.queue.length) →
      exec (.voucherRequest x) s = .next (answered .queueFull s)) ∧
    ∀ u, s.unit x.counter = some u → u.queue.length < 8 →
      ∃ n : Fin 65536, n = nextNumber s ∧
        ((∀ p v r, s.unit p = some v → r ∈ v.queue → r.number ≠ s.vouchers.number) → n = s.vouchers.number) ∧
        (VoucherLaw s → ∀ p v r, s.unit p = some v → r ∈ v.queue → r.number ≠ n) ∧
        let b (k : SchemeIx) := cell x.subtotals k * cell s.catalogue.rates k / 1000
        let record : VoucherRecord := ⟨n, x.intake, x.subtotals, #v[b 0, b 1, b 2, b 3],
          cell x.subtotals 0 + cell x.subtotals 1 + cell x.subtotals 2 + cell x.subtotals 3 + (b 0 + b 1 + b 2 + b 3),
          x.containers, x.kept, .queued⟩
        let t : State := { s.setUnit x.counter (some { u with queue := u.queue ++ [record] }) with
          vouchers := { s.vouchers with
            units := put s.vouchers.units x.counter (some { u with queue := u.queue ++ [record] }), number := n + 1 } }
        exec (.voucherRequest x) s = .next (answered (.created n) (if u.queue = [] then sendHead x.counter t else t))

/-- R141 to R145 and R147: the head of a counter unit's queue is sent when the unit is READY; the results of a VOUCHER_DONE, the
reply timer, the port's reports and COUNTER_RESUME move the unit. A report goes to each CONTROLLER port that is UP, or waits in
its list of at most 8. The reply timer of a value of t ms runs for t + 1 ticks (log entry 3). -/
def Obligations.CounterUnitsServe : Prop :=
  (∀ (s : State) (v : VoucherReport), reportVoucher v s = s.controllersUp.foldl (fun t q =>
    let r := cell t.vouchers.reports q
    let kept (l : List VoucherReport) (w : State) : State :=
      { w with vouchers := { w.vouchers with reports := put w.vouchers.reports q l } }
    if r ≠ [] then kept (if r.length < 8 then r ++ [v] else r) t else match offerAnswer t q with
      | .accepted => kept [] (enqueue t q (.voucherReport v))
      | .queueFull => kept [v] t
      | .notUp => kept [] t) s) ∧
  (∀ (s : State) (p : Port) (r : Requester), ServesRequests s r.port → s.unit p = none →
    Answers (.counterResume r p.val) r .notAllowed .none s s) ∧
  ∀ (s : State) (p : Port) (u : CounterUnit), s.unit p = some u →
    let ready (t : State) (q : List VoucherRecord) : State :=
      sendHead p (t.setUnit p (some { u with state := .ready, queue := q, replyTimer := none }))
    (u.state ≠ .ready ∨ u.queue = [] → sendHead p s = s) ∧
    (∀ r rest, u.state = .ready → u.queue = r :: rest →
      (offerAnswer s p = .accepted → sendHead p s = (enqueue s p (.voucher r)).setUnit p (some { u with
        state := .busy, queue := { r with state := .sent } :: rest, replyTimer := some (s.mgmt.timers.reply + 1),
        sendOwed := false })) ∧
      (offerAnswer s p = .queueFull → sendHead p s = s.setUnit p (some { u with sendOwed := true })) ∧
      (offerAnswer s p = .notUp → sendHead p s = s)) ∧
    (∀ n x, u.state ≠ .busy ∨ u.queue = [] ∨ (∃ r rest, u.queue = r :: rest ∧ r.number ≠ n) →
      exec (.voucherDone p n x) s = .next (s.request .staleFrame)) ∧
    (∀ r rest, u.state = .busy → u.queue = r :: rest →
      exec (.voucherDone p r.number .printed) s = .next (ready (s.post (.voucherPlaceFreed p)) rest) ∧
      exec (.voucherDone p r.number .paperOut) s = .next (reportVoucher ⟨r, .paperOut⟩
        ((s.setUnit p (some { u with state := .paused, replyTimer := none })).request .paperOut)) ∧
      exec (.voucherDone p r.number .refused) s = .next (ready
        (((reportVoucher ⟨r, .refused⟩ (s.setUnit p (some { u with queue := rest, replyTimer := none }))).request
          .voucherRefused).post (.voucherPlaceFreed p)) rest)) ∧
    (u.replyTimer = none → exec (.replyTimerExpiry p) s = .next s) ∧
    (u.replyTimer ≠ none → u.state = .busy → exec (.replyTimerExpiry p) s = .next
      ((s.setUnit p (some { u with state := .stalled, replyTimer := none })).request .counterStall)) ∧
    exec (.counterPortReport p false) s = .next
      (s.setUnit p (some { u with state := .offline, replyTimer := none, sendOwed := false })) ∧
    exec (.counterPortReport p true) s = .next (if u.state = .offline then ready s u.queue else s) ∧
    (restartUnit p s = if u.state = .busy ∨ u.state = .paused ∨ u.state = .stalled then ready s u.queue else s) ∧
    ∀ r : Requester, ServesRequests s r.port →
      (∀ i, 12 ≤ i → Answers (.counterResume r i) r .badIndex .none s s) ∧
      (s.role p ≠ .counter ∨ u.state = .offline → Answers (.counterResume r p.val) r .notAllowed .none s s) ∧
      (s.role p = .counter → u.state ≠ .offline → Answers (.counterResume r p.val) r .done .none s
        (if u.state = .paused ∨ u.state = .stalled then ready s u.queue else s))

/-! ### Faults (chapter 9) -/

/-- R149 to R155, R157, R159 and R160: the outcome, the flag, the record and the reports of a fault, and the faults the fault
unit takes as commands. -/
def Obligations.FaultsAreJudged : Prop :=
  ∀ (s : State) (p : Port) (c : FaultContext), s.faultContext p = some c →
    (∀ f : FaultRaise,
      let d := cell s.faults.dispositions f.number
      let kind : FaultKind := if f.number = 14 ∨ f.number = 20 ∨ f.number = 21 then .abort
        else if f.number = 15 ∨ f.number = 16 ∨ f.number = 17 then .note
        else if f.number = 18 ∨ f.number = 19 then .transit else .reject
      let double := decide (f.state ≠ .locked) && decide (d.cls = .contributory) && c.flag
      let outcome : FaultResult := if f.state = .locked then .shutdown else if double then .lock else match kind, d.action with
        | .reject, .giveBack => .giveBack
        | .reject, .keep => .keep d.keepLine
        | .reject, .stop => .lock
        | .note, .stop => .lock
        | .note, _ => .proceed
        | .abort, _ => .lock
        | .transit, _ => .proceed
      let record : ErrorRecord := ⟨f.number, kind, f.ext, double, f.table, f.index, p, f.seq, f.tag, f.hops, f.station⟩
      let t := s.setFaultContext p (some { c with
        flag := if f.state = .locked then c.flag else c.flag || decide (d.cls = .contributory), last := some record })
      let reported := d.report = true ∨ kind = .abort ∨ double = true ∨ f.state = .locked
      raiseFault p f s = (outcome, if reported then reportFault record t else t)) ∧
    (∀ (n : FaultNo) (code : Byte) o t,
      raiseFault p ⟨n, true, c.reported, .none, 0, c.seq, none, none, some code⟩ s = (o, t) →
      exec (.headFault p n code) s = .next (t.post (.faultOutcome p n o))) ∧
    (∀ (k : TransitFaultKind) t g q, let n : FaultNo := match k with
        | .misroute => 18
        | .lost => 19
      let asked := s.request (match k with
        | .misroute => .misroute
        | .lost => .transitLost)
      exec (.transitFault k t g p q) s = .next (if (cell s.faults.dispositions n).report then
        reportFault ⟨n, .transit, false, false, .transit, t.val, p, some q, some ⟨t, g⟩, none, none⟩ asked else asked)) ∧
    ∀ e : ErrorRecord, (s.controllersUp = [] → reportFault e s = s) ∧
      reportFault e s = s.controllersUp.foldl (fun t q =>
        let r := cell t.faults.reports q
        let kept (l : List ErrorRecord) (w : State) : State :=
          { w with faults := { w.faults with reports := put w.faults.reports q l } }
        if r ≠ [] then kept (if r.length < 8 then r ++ [e] else r) t else match offerAnswer t q with
          | .accepted => kept [] (enqueue t q (.faultReport e))
          | .queueFull => kept [e] t
          | .notUp => kept [] t) s ∧
      ∀ q, s.controllersUp = [q] → reportFault e s =
        let r := cell s.faults.reports q
        let kept (l : List ErrorRecord) : State := { s with faults := { s.faults with reports := put s.faults.reports q l } }
        if r ≠ [] then (if r.length < 8 then kept (r ++ [e]) else s) else match offerAnswer s q with
          | .accepted => enqueue s q (.faultReport e)
          | .queueFull => kept [e]
          | .notUp => s

/-- R56, R131, R152, R155, R156 and R167: a context's state report, as the tally, fault and condition units take it, in that
order (log entry 1); at a port without a fault context the fault unit takes nothing (log entry 7). -/
def Obligations.StateReportsAreTaken : Prop :=
  ∀ (s : State) (p : Port) (x : CtxState) (r : Option StopReason) (q : Option Byte),
    let t := tallyReport p x s
    let seen (v : State) : State := evalOutputs { v with cond := { v.cond with ctxStates := put v.cond.ctxStates p x } }
    (t.faultContext p = none → exec (.stateReport p x r q) s = .next (seen t)) ∧
    ∀ c, t.faultContext p = some c →
      let noted := t.setFaultContext p (some { c with reported := x, seq := q })
      (x ≠ .locked → ¬ (x = .stopped ∧ r = some .shutdown) → exec (.stateReport p x r q) s = .next (seen noted)) ∧
      (x = .locked → exec (.stateReport p x r q) s = .next
        (seen (if c.reported = .locked then noted else noted.request .intakeLocked))) ∧
      (x = .stopped → r = some .shutdown → exec (.stateReport p x r q) s = .next
        (seen ((applyEntry p { (noted.port p).entry with enabled := false } noted).request .intakeShutdown)))

/-! ### Sense inputs, conditions and outputs (chapter 10) -/

/-- R163 to R165: the pins, the debounce and the latch of a sense input, and the requests that clear latches or write its entry.
The level is recorded for an input without a function too (log entry 32), a debounce of t ms runs for t + 1 ticks (log entry 3),
and CLEAR_SENSE releases the inputs it names in turn, the lowest first (log entry 46). The bytes of a function are those of log
entry 9. -/
def Obligations.SenseInputsLatch : Prop :=
  ∀ (s : State) (i : SenseIx),
    let e := cell s.cond.sense i
    let x := cell s.cond.inputs i
    let with_ (y : SenseInput) : State := { s with cond := { s.cond with inputs := put s.cond.inputs i y } }
    let started (f : SenseEntry) : SenseInput := if x.level = true ∧ f.function ≠ .none
      then ⟨true, .debouncing, some (f.debounce + 1)⟩ else ⟨x.level, .idle, none⟩
    exec (.senseAssert i) s = .next (with_ (if x.state = .idle ∧ e.function ≠ .none then
      ⟨true, .debouncing, some (e.debounce + 1)⟩ else { x with level := true })) ∧
    exec (.senseRelease i) s = .next (with_ (if x.state = .debouncing then ⟨false, .idle, none⟩ else { x with level := false })) ∧
    (x.state ≠ .debouncing ∨ x.timer = none → exec (.debounceTimerExpiry i) s = .next s) ∧
    (x.state = .debouncing → x.timer ≠ none →
      let told := setCondition .senseLatch (with_ { x with state := .latched, timer := none })
      (e.function = .none → exec (.debounceTimerExpiry i) s = .next (evalOutputs told)) ∧
      (∀ l, e.function = .binFull l →
        let n := cell s.cond.latchCount l + 1
        exec (.debounceTimerExpiry i) s = .next (evalOutputs { told with
          cond := { told.cond with latchCount := put told.cond.latchCount l n }
          mail := told.mail ++ if n = 1 then [.binFullReport l true] else [] })) ∧
      (e.function = .roomStop →
        let both := setCondition .roomStop told
        exec (.debounceTimerExpiry i) s = .next (evalOutputs { both with
          cond := { both.cond with roomStops := s.cond.roomStops + 1 }
          mail := both.mail ++ if s.cond.roomStops = 0 then [.roomStopReport true] else [] }))) ∧
    (x.state ≠ .latched → releaseInput s i = s) ∧
    (∀ l, x.state = .latched → e.function = .binFull l →
      let n := cell s.cond.latchCount l - 1
      releaseInput s i = { s with
        cond := { s.cond with latchCount := put s.cond.latchCount l n, inputs := put s.cond.inputs i (started e) }
        mail := s.mail ++ if n = 0 then [.binFullReport l false] else [] }) ∧
    (x.state = .latched → e.function = .roomStop → releaseInput s i = { s with
      cond := { s.cond with roomStops := s.cond.roomStops - 1, inputs := put s.cond.inputs i (started e) }
      mail := s.mail ++ if s.cond.roomStops ≤ 1 then [.roomStopReport false] else [] }) ∧
    ∀ r : Requester, ServesRequests s r.port →
      Answers (.clearSense r (1#8 <<< i.val)) r .done .none s (evalOutputs (releaseInput s i)) ∧
      Answers (.clearSense r 0) r .done .none s (evalOutputs s) ∧
      (∀ b : BitVec 8, Answers (.clearSense r b) r .done .none s
        (evalOutputs (((indices 8).filter fun k => b.getLsbD k.val).foldl releaseInput s))) ∧
      (∀ n f, 8 ≤ n → Answers (.senseWrite r n f) r .badIndex .none s s) ∧
      (∀ f, f.function ≠ 255 ∧ (f.function = 0 ∨ 2 < f.function) ∨ (f.function = 1 ∧ 7 < f.line) →
        Answers (.senseWrite r i.val f) r .badValue .none s s) ∧
      (∀ f, senseEntryOf f =
        let function : Option SenseFunction :=
          if f.function = 255 then some .none
          else if f.function = 1 then (if h : f.line < 8 then some (.binFull ⟨f.line, h⟩) else none)
          else if f.function = 2 then some .roomStop else none
        function.map fun x => ⟨x, max 20 (min 2000 f.debounce)⟩) ∧
      (∀ f y, senseEntryOf f = some y → y.debounce = max 20 (min 2000 f.debounce) ∧
        let st : Status := if y.debounce = f.debounce then .done else .doneClamped
        let free := releaseInput s i
        (y.function = e.function → Answers (.senseWrite r i.val f) r st .none s
          { s with cond := { s.cond with sense := put s.cond.sense i y } }) ∧
        (y.function ≠ e.function → Answers (.senseWrite r i.val f) r st .none s (evalOutputs { free with cond := { free.cond with
          sense := put s.cond.sense i y, inputs := put free.cond.inputs i (started y) } })))

/-- R167 to R170: a condition that is set or cleared, its NOTICE and the output lines. -/
def Obligations.ConditionsAreSet : Prop :=
  ∀ (s : State) (c : Condition),
    let n := conditionNumber c
    let set_ (b : ConditionSet) : State := { s with
      cond := { s.cond with set := b }
      ports := mapCells (fun l : LinkPort => { l with tx := l.tx.map fun f => match f with
        | .notice _ => .notice b
        | g => g }) s.ports }
    let more := s.cond.set ||| (1#22 <<< n)
    (s.cond.set.getLsbD n = true → exec (.conditionRequest c) s = .next s) ∧
    (s.cond.set.getLsbD n = false → s.cond.mask.getLsbD n = true →
      exec (.conditionRequest c) s = .next (evalOutputs (set_ more))) ∧
    (s.cond.set.getLsbD n = false → s.cond.mask.getLsbD n = false →
      let told (p : Port) : Bool := decide (s.role p = .controller ∧ (s.port p).link = .up ∧ cell s.cond.queued p = false ∧
        (s.port p).tx.length < 16)
      ∃ t, exec (.conditionRequest c) s = .next (evalOutputs t) ∧
        { t with ports := s.ports, cond := s.cond } = s ∧
        { t.cond with set := s.cond.set, queued := s.cond.queued } = s.cond ∧
        t.cond.set = more ∧
        ∀ p, cell t.cond.queued p = (cell s.cond.queued p || told p) ∧
          t.port p = { (set_ more).port p with
            tx := ((set_ more).port p).tx ++ if told p then [.notice more] else [] }) ∧
    (∀ r : Requester, ServesRequests s r.port → ∀ b : BitVec 24,
      let left := s.cond.set &&& ~~~(b.setWidth 22)
      Answers (.clearConditions r b) r .done (.conditions left) s (evalOutputs (set_ left))) ∧
    (∀ l x, exec (.lineStateReport l x) s =
      .next (evalOutputs { s with cond := { s.cond with lineStates := put s.cond.lineStates l x } })) ∧
    (s.mgmt.loading = true → evalOutputs s = s) ∧
    (s.mgmt.loading = false → { evalOutputs s with cond := s.cond } = s ∧
      { (evalOutputs s).cond with high := s.cond.high } = s.cond ∧
      ∀ o : OutIx,
        let e := cell s.cond.outputs o
        let active : Prop := match e.function with
          | .manual => e.manual = true
          | .lineOpen l => cell s.cond.lineStates l = .opened ∨ cell s.cond.lineStates l = .nearFull
          | .intakeReady p => s.role p = .intake ∧ s.up p = true ∧ cell s.cond.ctxStates p ≠ .stopped ∧
              cell s.cond.ctxStates p ≠ .locked ∧ s.cond.roomStops = 0
          | .anyCondition => ∃ k < 22, s.cond.set.getLsbD k = true ∧ s.cond.mask.getLsbD k = false
        (cell (evalOutputs s).cond.high o = true ↔ (e.polarity = .activeHigh ↔ active)))

/-! ### Reads of state, resets and the configuration store (chapter 11) -/

/-- R179, with the soft reset values of R54, R80, R101, R120, R135, R162 and R171: what a SOFT_RESET leaves, at a controller
port with no context of its own. Of a link port the transmit queue alone may change: INTAKE_STOP with reason START joins it at an
intake that is UP, and a queued NOTICE is rewritten; the store and the written tables stand. The messages still to be taken stand,
all but latch reports (log entry 22), with the state reports of the contexts and the lines after them. Every asserted input with a
function starts its debounce afresh (log entry 47), and a debounce of t ms runs for t + 1 ticks (log entry 3). -/
def Obligations.SoftResetClears : Prop :=
  ∀ (s : State) (r : Requester), ServesRequests s r.port →
    (s.mgmt.save.isSome = true → Answers (.softReset r) r .busy .none s s) ∧
    (s.mgmt.save = none → s.context r.port = none → ∃ t, Answers (.softReset r) r .done .none s t ∧
      t.catalogue = { s.catalogue with lock := .locked } ∧
      t.admission.roomStop = false ∧
      (∀ p, s.context p = none → t.context p = none) ∧
      (∀ p, s.context p ≠ none → t.context p = some { Context.fresh with outbound :=
        if (s.port p).link = .up ∧ 16 ≤ (s.port p).tx.length then [.stop .start] else [] }) ∧
      (∀ l, (t.line l).record = (s.line l).record ∧ (t.line l).enabled = (s.line l).enabled ∧
        (t.line l).lastFill = (s.line l).lastFill ∧ (t.line l).live = 0 ∧
        (t.line l).causes.binFullSense = false ∧ (t.line l).causes.mgmtDisabled = (s.line l).causes.mgmtDisabled ∧
        (t.line l).causes.fillFull = (s.line l).causes.fillFull ∧ (t.line l).state = derivedState (t.line l) ∧
        let up (q : Role) (p : Port) : Bool := decide ((s.port p).link = .up ∧ s.role p = q)
        (t.line l).causes.binDown = !up .bin (s.line l).record.binPort ∧
        (t.line l).causes.routeDown = (s.line l).record.route.any fun h => !up .sorter h.port) ∧
      (∀ g, cell t.lines.segments g = { cell s.lines.segments g with reserved := 0 }) ∧
      (∀ k, cell t.lines.tags k = { cell s.lines.tags k with free := true }) ∧
      t.lines.pitches = s.lines.pitches ∧ t.lines.holdQueue = [] ∧
      (∀ k, t.entry k = .free (s.entry k).gen) ∧ (∀ p, cell t.transit.backlog p = []) ∧
      t.tally.closingWait = s.tally.closingWait ∧
      (∀ p, t.session p = (s.session p).map fun x => { x with
        idleTimer := if x.state = .opened then startIdleTimer s else none, reported := .stopped }) ∧
      t.vouchers = s.vouchers ∧ t.faults.dispositions = s.faults.dispositions ∧ t.faults.reports = s.faults.reports ∧
      (∀ p, t.faultContext p = (s.faultContext p).map fun c => ⟨false, .stopped, none, c.last⟩) ∧
      t.cond.set = 0 ∧ t.cond.mask = s.cond.mask ∧ t.cond.sense = s.cond.sense ∧ t.cond.outputs = s.cond.outputs ∧
      t.cond.roomStops = 0 ∧ (∀ l, cell t.cond.latchCount l = 0) ∧
      (∀ i, let x := cell s.cond.inputs i
        let e := cell s.cond.sense i
        cell t.cond.inputs i = if x.level = true ∧ e.function ≠ .none then ⟨true, .debouncing, some (e.debounce + 1)⟩
          else ⟨x.level, .idle, none⟩) ∧
      t.cond.queued = s.cond.queued ∧ t.cond.lineStates = s.cond.lineStates ∧ (∀ p, cell t.cond.ctxStates p = .stopped) ∧
      evalOutputs t = t ∧
      t.mgmt = s.mgmt ∧ t.store = s.store ∧ t.pending = s.pending ∧
      (∀ p, let l := s.port p
        let queue := if s.context p ≠ none ∧ l.link = .up ∧ l.tx.length < 16 then l.tx ++ [.intake (.stop .start)] else l.tx
        t.port p = { l with tx := queue.map fun f => match f with
          | .notice _ => .notice 0
          | g => g }) ∧
      let stays (m : Instr) : Bool := match m with
        | .binFullReport _ _ => false
        | .roomStopReport _ => false
        | _ => true
      let report (p : Port) : List Instr := match s.context p with
        | some c => if c.state = .stopped ∧ c.stopReason = some .start then [] else [.stateReport p .stopped (some .start) none]
        | none => []
      t.mail = s.mail.filter stays ++ (indices 12).flatMap report ++
        (indices 8).map fun l => .lineStateReport l (t.line l).state)

/-- R181 and R182, with section 00's power-on values: a power-on reset, the end of its store read, and a save. A save that
begins owes its reply; its copy is the image of the stored tables, taken in that event (log entry 19). An absent store is found
at STORE_SAVE, and the body is written at STORE_SAVE_DONE (log entry 24). That a valid image has 724 bytes rests on log entry 9, and
that an input's debounce of t ms runs for t + 1 ticks on log entry 3. -/
def Obligations.StoreIsReadAndSaved : Prop :=
  ∀ (s : State),
    (exec .powerOnReset s = .next { State.reset with
      ports := perPort fun p => { LinkPort.reset p with carrier := (s.port p).carrier, sent := (s.port p).sent }
      cond := { ConditionUnit.reset with inputs := mapCells (fun x => ⟨x.level, .idle, none⟩) s.cond.inputs }
      store := s.store
      pending := s.pending }) ∧
    (∀ m, s.mgmt.loading = false → exec (.storeReadDone m) s = .next s) ∧
    (∀ fitted, s.mgmt.loading = true → ∃ t, exec (.storeReadDone fitted) s = .next t ∧
      let m := fitted.getD s.store
      let i := tablesRead m
      t.store = m ∧ t.mgmt = { s.mgmt with timers := i.timers, loading := false } ∧
      (∀ p, let e := cell i.ports p
        (t.port p).entry = e ∧
        (t.port p).link = (if e.enabled = false ∨ e.role = .unused then (s.port p).link
          else if (s.port p).carrier then .training else .down) ∧
        t.context p = (if e.role = .intake then some .fresh else none) ∧
        t.session p = (if e.role = .intake then some .new else none) ∧
        t.faultContext p = (if e.role = .intake then some ⟨false, .stopped, none, none⟩ else none) ∧
        t.unit p = (if e.role = .counter then some ⟨.offline, [], none, false⟩ else none)) ∧
      t.catalogue = { s.catalogue with allowances := i.allowances, classes := i.classes, rates := i.rates, code := i.code } ∧
      t.lines.pitches = i.pitches ∧ (∀ g, cell t.lines.segments g = ⟨cell i.capacities g, 0⟩) ∧
      (∀ l, let x := cell i.lines l
        t.line l = ⟨x.1, x.2, ⟨!x.2, false, false, true, true⟩, 0, if x.2 then .closed else .disabled, 0⟩) ∧
      t.faults.dispositions = i.dispositions ∧ t.cond.sense = i.sense ∧ t.cond.outputs = i.outputs ∧ t.cond.mask = i.mask ∧
      (∀ k, let x := cell s.cond.inputs k
        let e := cell i.sense k
        cell t.cond.inputs k = if x.level = true ∧ e.function ≠ .none then ⟨true, .debouncing, some (e.debounce + 1)⟩
          else ⟨x.level, .idle, none⟩) ∧
      evalOutputs t = t ∧
      { t.cond with
        sense := s.cond.sense, outputs := s.cond.outputs, mask := s.cond.mask, inputs := s.cond.inputs, high := s.cond.high }
          = s.cond ∧
      t.mail = s.mail ++ (indices 8).map (fun l => .lineStateReport l (t.line l).state) ++
        if validImage m then [] else [.conditionRequest .configDefault]) ∧
    (∀ m, (validImage m = true ↔ m.answers = true ∧ m.format = 0x4C57A5C3 ∧ m.length = 724 ∧
        m.check = checkValue (m.body.take 724)) ∧
      (validImage m = false → tablesRead m = .default) ∧
      (validImage m = true → tablesRead m = 
        { loadImage (m.body.take 724) with ports := limitRoles (loadImage (m.body.take 724)).ports })) ∧
    ∀ r : Requester, ServesRequests s r.port →
      (s.mgmt.save.isSome = true → Answers (.storeSave r) r .busy .none s s) ∧
      (s.mgmt.save = none → s.store.answers = false →
        Answers (.storeSave r) r .refused .none s (s.request .storeFailed)) ∧
      (s.mgmt.save = none → s.store.answers = true → exec (.storeSave r) s = .next { s with
        store := { s.store with format := 0 }
        mgmt := { s.mgmt with save := some ⟨some r, imageBody (imageOf s)⟩ } }) ∧
      (∀ how, s.mgmt.save = none → exec (.storeSaveDone how) s = .next s) ∧
      ∀ b, s.mgmt.save = some ⟨some r, b⟩ →
        let ended (m : ConfigStore) : State := { s with store := m, mgmt := { s.mgmt with save := none } }
        let written (c : List Byte) : ConfigStore := { s.store with length := b.length, check := checkValue b, body := c }
        Answers (.storeSaveDone .noAnswer) r .refused .none s ((ended s.store).request .storeFailed) ∧
        (∀ c, c ≠ b → Answers (.storeSaveDone (.bodyReadBack c)) r .refused .none s
          ((ended (written c)).request .storeFailed)) ∧
        exec (.storeSaveDone (.bodyReadBack b)) s = .next { s with store := written b } ∧
        Answers (.storeSaveDone (.formatReadBack 0x4C57A5C3)) r .done .none s
          (ended { written b with format := 0x4C57A5C3 }) ∧
        ∀ w, w ≠ 0x4C57A5C3 → Answers (.storeSaveDone (.formatReadBack w)) r .refused .none s
          ((ended { written b with format := w }).request .storeFailed)

/-! ### What every step keeps -/

/-- R10 to R16: from any state whose links keep their account, a step leaves links that keep it. -/
def Obligations.LinksKeepTheirAccount : Prop := ∀ s t : State, LinkLaw s → step s = .next t → LinkLaw t

/-- R36, R102, R106, R139 and R140. A step keeps the article table in strictly ascending order of code, without code 0, within
its 16,384 entries; and it keeps the laws of the transit entries and of the voucher queues. -/
def Obligations.StepsKeepTheTables : Prop :=
  (∀ s t : State, step s = .next t → (TransitLaw s → TransitLaw t) ∧ (VoucherLaw s → VoucherLaw t)) ∧
  (∀ s t : State, ArticleLaw s → step s = .next t → ArticleLaw t)

/-- R63, R121 and R123: no step makes a session whose total is not the sum of its subtotals, or a credit that is not the sum of
its split. -/
def Obligations.CreditIsAccountedFor : Prop := ∀ s t : State, MoneyLaw s → step s = .next t → MoneyLaw t

/-- R83, R93, R94 and R98: no command but a SEGMENT_WRITE, POWER_ON_RESET or STORE_READ_DONE leaves a segment with a higher
reserved count than before unless the new count is within its capacity, or changes a capacity; and the hold queue keeps its law.
R91 and R92: the law of the reserved counts stands when c, a message that has reached the front, has been taken: each reserved
count is the sum of the pitches of the transit entries in use on the segment, with the claims and the release notices on their
way. It is not claimed of a SOFT_RESET while such a message is on its way (log entry 22), nor of a store read while space is
reserved. -/
def Obligations.SpaceIsNeverOverbooked : Prop :=
  ∀ (s t : State) (c : Instr), HoldLaw s → exec c s = .next t →
    ((∀ m, c = .storeReadDone m → s.lines.holdQueue = []) → HoldLaw t) ∧
    ((∀ r i v, c ≠ .segmentWrite r i v) → c ≠ .powerOnReset → (∀ m, c ≠ .storeReadDone m) → ∀ g,
      (cell t.lines.segments g).capacity = (cell s.lines.segments g).capacity ∧
      ((cell t.lines.segments g).reserved ≤ (cell s.lines.segments g).reserved ∨
        (cell t.lines.segments g).reserved ≤ (cell t.lines.segments g).capacity)) ∧
    (SpaceLaw { s with mail := c :: s.mail } →
      (∀ r, c = .softReset r → ∀ m ∈ s.mail, messageReservation m = none) →
      (∀ m, c = .storeReadDone m → reservations s = []) → SpaceLaw t)

/-- R49: while the tariff lock is LOCKED, no command but the two of a power-on reset changes a tariff class, a bonus rate, the
unlock code, or the credit limit of a port, when the limits lie in their range; every command keeps them there. And only
DROPPED makes a posting (R113, R114). -/
def Obligations.LockedTariffsStand : Prop :=
  ∀ (s t : State) (c : Instr), exec c s = .next t →
    let inRange (u : State) : Prop := ∀ p, 1 ≤ (u.port p).entry.creditLimit ∧ (u.port p).entry.creditLimit ≤ 999999
    (s.catalogue.lock = .locked → c ≠ .powerOnReset → (∀ m, c ≠ .storeReadDone m) →
      protectedValues t = protectedValues s ∧
        (inRange s → ∀ p, (t.port p).entry.creditLimit = (s.port p).entry.creditLimit)) ∧
    (inRange s → inRange t) ∧
    ((∀ p q, c ≠ .dropped p q) → ∀ m ∈ t.mail, isPosting m = true → m ∈ s.mail)

/-- R9, R19, R22, R23 and sections 2.1 to 2.3: each frame the part makes has the header of R19 and the payload of its kind, of
at most 48 bytes, and is read back from the bytes on the link as it was sent. An enumeration is sent as the position in its list
(R20). The data of a MGMT_REPLY that need more than 47 bytes are a free value (log entry 12). -/
def Obligations.SentFramesAreReadBack : Prop :=
  (∀ f : Frame, f.payload.length ≤ 48 →
    checkFrame f.bytes = some ⟨f.dst.toFin, f.kind, f.tag, f.gen, f.payload⟩) ∧
  (∀ (p : Port) (x : TxFrame), frameBytes p x = (frameOf p x).bytes ∧
    ((∀ q f, x = .pass q f → f.payload.length ≤ 48) → (frameOf p x).payload.length ≤ 48)) ∧
  ∀ p : Port,
    let one (n : Nat) : List Byte := [BitVec.ofNat 8 n]
    let two (n : Nat) : List Byte := [BitVec.ofNat 8 (n / 256), BitVec.ofNat 8 n]
    let three (n : Nat) : List Byte := [BitVec.ofNat 8 (n / 65536), BitVec.ofNat 8 (n / 256), BitVec.ofNat 8 n]
    let schemes (v : Vector Nat 4) := three (cell v 0) ++ three (cell v 1) ++ three (cell v 2) ++ three (cell v 3)
    let voucher (r : VoucherRecord) := two r.number.val ++ one r.intake.val ++ schemes r.subtotals ++ schemes r.bonuses ++
      three r.total ++ two r.containers ++ two r.kept
    let sent (x : TxFrame) (kind tag : Byte) (gen : Gen) (payload : List Byte) : Prop :=
      frameOf p x = ⟨BitVec.ofNat 4 p.val, 15, kind, tag, gen, payload⟩
    (∀ r n, sent (.announce r n) 0x01 0 0
      (one ([Role.unused, .intake, .sorter, .bin, .counter, .controller].idxOf r) ++ one n ++ [15])) ∧
    (∀ n, sent (.credit n) 0x02 0 0 (one n)) ∧
    (∀ (t : Tag) g q, sent (.release t g q) 0x20 (BitVec.ofNat 8 t.val) g [q]) ∧
    (∀ q (n : FaultNo), sent (.intake (.giveBack q (.fault n))) 0x21 0 0 (q :: one n.val)) ∧
    (∀ q, sent (.intake (.giveBack q .stopped)) 0x21 0 0 [q, 32] ∧ sent (.intake (.giveBack q .finished)) 0x21 0 0 [q, 33]) ∧
    (∀ q r, sent (.intake (.hold q r)) 0x22 0 0 (q :: one ([HoldReason.lineBusy, .roomStop, .counterBusy].idxOf r))) ∧
    (∀ y n total, sent (.tally y n total) 0x23 0 0
      (one ([SessionState.idle, .opened, .closePending, .closingWait].idxOf y) ++ two n ++ three total)) ∧
    (∀ r, sent (.intake (.stop r)) 0x24 0 0 (one ([StopFrameReason.start, .mgmt, .locked, .shutdown].idxOf r))) ∧
    sent (.intake .go) 0x25 0 0 [] ∧
    (∀ (t : Tag) g h gate q, sent (.gateSet t g h gate q) 0x30 (BitVec.ofNat 8 t.val) g
      (one h ++ one gate.val ++ one ([Position.pass, .left, .right].idxOf q))) ∧
    (∀ c : ClearFrame, sent (.gateClear c) 0x31 (BitVec.ofNat 8 c.tag.val) c.gen (one c.gate.val)) ∧
    (∀ r, sent (.voucher r) 0x50 0 0 (voucher r)) ∧
    (∀ r : Reply, sent (.mgmtReply r) 0x61 r.tag 0
      (one ([Status.done, .doneClamped, .badTable, .badIndex, .badValue, .locked, .refused, .tableFull, .duplicate, .notFound,
        .notAllowed, .busy].idxOf r.status) ++ sentData r.data) ∧
      ((replyData r.data).length ≤ 47 → sentData r.data = replyData r.data)) ∧
    (∀ c, sent (.notice c) 0x62 0 0 (three c.toNat)) ∧
    (∀ e : ErrorRecord, sent (.faultReport e) 0x63 0 0 (
      let kind := [FaultKind.reject, .note, .abort, .transit].idxOf e.kind
      let table := [ErrorTable.none, .article, .cls, .line, .segment, .transit, .disposition].idxOf e.table
      one e.number.val ++
      one (64 * kind + 32 * e.ext.toNat + 16 * e.double.toNat + 8 * e.seq.isSome.toNat + 4 * e.tag.isSome.toNat +
        2 * e.hops.isSome.toNat + e.station.isSome.toNat) ++
      one table ++ two e.index ++ one e.intake.val ++ [e.seq.getD 0] ++
      (match e.tag with
        | none => [0, 0]
        | some g => one g.tag.val ++ one (16 * g.gen.val)) ++
      [(e.hops.getD 0).setWidth 8, e.station.getD 0])) ∧
    (∀ r : VoucherReport, sent (.voucherReport r) 0x64 0 0
      (voucher r.record ++ one ([VoucherResult.printed, .paperOut, .refused].idxOf r.outcome))) ∧
    (∀ f : RxFrame, sent (.undeliverable f) 0x71 f.tag f.gen (one f.dst.val ++ f.payload.take 47)) ∧
    ∀ (q : Port) (f : RxFrame), frameOf p (.pass q f) =
      ⟨BitVec.ofNat 4 f.dst.val, BitVec.ofNat 4 q.val, f.kind, f.tag, f.gen, f.payload⟩

/-- R180 and R181: the stored tables of a part whose entries lie in the ranges their writes allow, read back from the image body
made of them, whose 724 bytes rest on log entry 9. -/
def Obligations.ImagesAreReadBack : Prop :=
  ∀ i : Image,
    (∀ p, 1 ≤ (cell i.ports p).creditLimit ∧ (cell i.ports p).creditLimit ≤ 999999 ∧ -500 ≤ (cell i.ports p).tare ∧
      (cell i.ports p).tare ≤ 500 ∧ (cell i.ports p).holdLimit ≤ 60000) →
    10 ≤ i.timers.gateAck ∧ i.timers.gateAck ≤ 2000 ∧ 200 ≤ i.timers.handover ∧ i.timers.handover ≤ 10000 ∧
      500 ≤ i.timers.reply ∧ i.timers.reply ≤ 30000 ∧ (i.timers.idle = 0 ∨ 10 ≤ i.timers.idle ∧ i.timers.idle ≤ 600) →
    (∀ k, cell i.allowances k ≤ 2000) → (∀ k, 1 ≤ cell i.pitches k ∧ cell i.pitches k ≤ 15) →
    (∀ k, (cell i.classes k).deposit ≤ 65535) → (∀ k, cell i.rates k ≤ 250) → (∀ k, cell i.capacities k ≤ 255) →
    (∀ l, let r := (cell i.lines l).1
      1 ≤ r.route.length ∧ r.route.length ≤ 6 ∧ 1 ≤ r.segments.length ∧ r.segments.length ≤ 4 ∧ r.segments.Nodup ∧
        r.overflow ≠ some l ∧ r.nearFull < r.full ∧ r.full ≤ 100 ∧ 500 ≤ r.transitLimit ∧ r.transitLimit ≤ 60000) →
    (∀ k, 20 ≤ (cell i.sense k).debounce ∧ (cell i.sense k).debounce ≤ 2000) →
    (imageBody i).length = 724 ∧ loadImage (imageBody i) = i

end
end

