-- ==== Sys2Proof/Laws/State.lean ====
section
/-! SUPPORT. One lemma for each field and each update of the state, and for each way a cell of a table is read after it is
written. -/

namespace Sys2Proof.Machine

/-! ### Cells of a table -/

@[simp] theorem cell_put_self {α : Type} {n : Nat} (v : Vector α n) (i : Fin n) (x : α) : cell (put v i x) i = x := by
  simp [cell, put]

theorem cell_put {α : Type} {n : Nat} (v : Vector α n) (i j : Fin n) (x : α) :
    cell (put v i x) j = if j = i then x else cell v j := by
  by_cases h : j = i
  · subst h; simp
  · have : i.val ≠ j.val := fun e => h (Fin.ext e.symm)
    simp [cell, put, h, this]

@[simp] theorem cell_put_ne {α : Type} {n : Nat} (v : Vector α n) {i j : Fin n} (x : α) (h : j ≠ i) :
    cell (put v i x) j = cell v j := by simp [cell_put, h]

@[simp] theorem cell_mapCells {α β : Type} {n : Nat} (f : α → β) (v : Vector α n) (i : Fin n) :
    cell (mapCells f v) i = f (cell v i) := by
  simp [cell, mapCells]

@[simp] theorem cell_replicate {α : Type} {n : Nat} (x : α) (i : Fin n) : cell (Vector.replicate n x) i = x := by
  simp [cell]

@[simp] theorem put_cell {α : Type} {n : Nat} (v : Vector α n) (i : Fin n) : put v i (cell v i) = v := by
  simp [cell, put]

theorem cell_ext {α : Type} {n : Nat} {v w : Vector α n} (h : ∀ i, cell v i = cell w i) : v = w := by
  ext i hi
  exact h ⟨i, hi⟩

@[simp] theorem cell_perPort {α : Type} (f : Port → α) (p : Port) : cell (perPort f) p = f p := by
  match p with
  | 0 => rfl
  | 1 => rfl
  | 2 => rfl
  | 3 => rfl
  | 4 => rfl
  | 5 => rfl
  | 6 => rfl
  | 7 => rfl
  | 8 => rfl
  | 9 => rfl
  | 10 => rfl
  | 11 => rfl

@[simp] theorem cell_tabulate {α : Type} (n : Nat) (f : Fin n → α) (i : Fin n) : cell (tabulate n f) i = f i := by
  simp [cell, tabulate, indices]

@[simp] theorem mem_indices {n : Nat} (i : Fin n) : i ∈ indices n := by simp [indices]

/-! ### What an update reads back -/

@[simp] theorem setPort_port_self (s : State) (p : Port) (x : LinkPort) : (s.setPort p x).port p = x := by
  simp [State.port, State.setPort]

theorem setPort_port (s : State) (p q : Port) (x : LinkPort) : (s.setPort p x).port q = if q = p then x else s.port q := by
  simp [State.port, State.setPort, cell_put]

@[simp] theorem setPort_port_ne (s : State) {p q : Port} (x : LinkPort) (h : q ≠ p) : (s.setPort p x).port q = s.port q := by
  simp [setPort_port, h]

@[simp] theorem setContext_context_self (s : State) (p : Port) (x : Option Context) : (s.setContext p x).context p = x := by
  simp [State.context, State.setContext]

@[simp] theorem setContext_context_ne (s : State) {p q : Port} (x : Option Context) (h : q ≠ p) :
    (s.setContext p x).context q = s.context q := by
  simp [State.context, State.setContext, h]

@[simp] theorem setSession_session_self (s : State) (p : Port) (x : Option Session) : (s.setSession p x).session p = x := by
  simp [State.session, State.setSession]

@[simp] theorem setSession_session_ne (s : State) {p q : Port} (x : Option Session) (h : q ≠ p) :
    (s.setSession p x).session q = s.session q := by
  simp [State.session, State.setSession, h]

@[simp] theorem setUnit_unit_self (s : State) (p : Port) (x : Option CounterUnit) : (s.setUnit p x).unit p = x := by
  simp [State.unit, State.setUnit]

@[simp] theorem setUnit_unit_ne (s : State) {p q : Port} (x : Option CounterUnit) (h : q ≠ p) :
    (s.setUnit p x).unit q = s.unit q := by
  simp [State.unit, State.setUnit, h]

@[simp] theorem setFaultContext_faultContext_self (s : State) (p : Port) (x : Option FaultContext) :
    (s.setFaultContext p x).faultContext p = x := by
  simp [State.faultContext, State.setFaultContext]

@[simp] theorem setFaultContext_faultContext_ne (s : State) {p q : Port} (x : Option FaultContext) (h : q ≠ p) :
    (s.setFaultContext p x).faultContext q = s.faultContext q := by
  simp [State.faultContext, State.setFaultContext, h]

@[simp] theorem setLine_line_self (s : State) (l : LineIx) (x : Line) : (s.setLine l x).line l = x := by
  simp [State.line, State.setLine]

@[simp] theorem setLine_line_ne (s : State) {l m : LineIx} (x : Line) (h : m ≠ l) : (s.setLine l x).line m = s.line m := by
  simp [State.line, State.setLine, h]

@[simp] theorem setEntry_entry_self (s : State) (t : Tag) (x : Entry) : (s.setEntry t x).entry t = x := by
  simp [State.entry, State.setEntry]

@[simp] theorem setEntry_entry_ne (s : State) {t u : Tag} (x : Entry) (h : u ≠ t) : (s.setEntry t x).entry u = s.entry u := by
  simp [State.entry, State.setEntry, h]

@[simp] theorem setSlot_slot_self (s : State) (p : Port) (x : ControllerSlot) : (s.setSlot p x).slot p = x := by
  simp [State.slot, State.setSlot]

@[simp] theorem setSlot_slot_ne (s : State) {p q : Port} (x : ControllerSlot) (h : q ≠ p) :
    (s.setSlot p x).slot q = s.slot q := by
  simp [State.slot, State.setSlot, h]

@[simp] theorem post_mail (s : State) (m : Instr) : (s.post m).mail = s.mail ++ [m] := rfl
@[simp] theorem request_mail (s : State) (c : Condition) : (s.request c).mail = s.mail ++ [.conditionRequest c] := rfl

/-- A frame that joins a transmit queue changes that queue alone (R14). -/
@[simp] theorem enqueue_port_self (s : State) (p : Port) (f : TxFrame) :
    (enqueue s p f).port p = { s.port p with tx := (s.port p).tx ++ [f] } := by simp [enqueue]

@[simp] theorem enqueue_port_ne (s : State) {p q : Port} (f : TxFrame) (h : q ≠ p) : (enqueue s p f).port q = s.port q := by
  simp [enqueue, h]

@[simp] theorem enqueue_role (s : State) (p q : Port) (f : TxFrame) : (enqueue s p f).role q = s.role q := by
  by_cases h : q = p
  · subst h; simp [State.role]
  · simp [State.role, h]

@[simp] theorem enqueue_up (s : State) (p q : Port) (f : TxFrame) : (enqueue s p f).up q = s.up q := by
  by_cases h : q = p
  · subst h; simp [State.up]
  · simp [State.up, h]

/-! ### What an update leaves as it stands, field by field -/

@[simp] theorem setPort_catalogue (s : State) (p : Port) (x : LinkPort) : (s.setPort p x).catalogue = s.catalogue := rfl
@[simp] theorem setPort_admission (s : State) (p : Port) (x : LinkPort) : (s.setPort p x).admission = s.admission := rfl
@[simp] theorem setPort_lines (s : State) (p : Port) (x : LinkPort) : (s.setPort p x).lines = s.lines := rfl
@[simp] theorem setPort_transit (s : State) (p : Port) (x : LinkPort) : (s.setPort p x).transit = s.transit := rfl
@[simp] theorem setPort_tally (s : State) (p : Port) (x : LinkPort) : (s.setPort p x).tally = s.tally := rfl
@[simp] theorem setPort_vouchers (s : State) (p : Port) (x : LinkPort) : (s.setPort p x).vouchers = s.vouchers := rfl
@[simp] theorem setPort_faults (s : State) (p : Port) (x : LinkPort) : (s.setPort p x).faults = s.faults := rfl
@[simp] theorem setPort_cond (s : State) (p : Port) (x : LinkPort) : (s.setPort p x).cond = s.cond := rfl
@[simp] theorem setPort_mgmt (s : State) (p : Port) (x : LinkPort) : (s.setPort p x).mgmt = s.mgmt := rfl
@[simp] theorem setPort_store (s : State) (p : Port) (x : LinkPort) : (s.setPort p x).store = s.store := rfl
@[simp] theorem setPort_mail (s : State) (p : Port) (x : LinkPort) : (s.setPort p x).mail = s.mail := rfl
@[simp] theorem setPort_pending (s : State) (p : Port) (x : LinkPort) : (s.setPort p x).pending = s.pending := rfl
@[simp] theorem setPort_context (s : State) (p : Port) (x : LinkPort) (p0 : Port) : (s.setPort p x).context p0 = s.context p0 := rfl
@[simp] theorem setPort_session (s : State) (p : Port) (x : LinkPort) (p0 : Port) : (s.setPort p x).session p0 = s.session p0 := rfl
@[simp] theorem setPort_unit (s : State) (p : Port) (x : LinkPort) (p0 : Port) : (s.setPort p x).unit p0 = s.unit p0 := rfl
@[simp] theorem setPort_faultContext (s : State) (p : Port) (x : LinkPort) (p0 : Port) : (s.setPort p x).faultContext p0 = s.faultContext p0 := rfl
@[simp] theorem setPort_line (s : State) (p : Port) (x : LinkPort) (l0 : LineIx) : (s.setPort p x).line l0 = s.line l0 := rfl
@[simp] theorem setPort_entry (s : State) (p : Port) (x : LinkPort) (t0 : Tag) : (s.setPort p x).entry t0 = s.entry t0 := rfl
@[simp] theorem setPort_slot (s : State) (p : Port) (x : LinkPort) (p0 : Port) : (s.setPort p x).slot p0 = s.slot p0 := rfl

@[simp] theorem setContext_ports (s : State) (p : Port) (x : Option Context) : (s.setContext p x).ports = s.ports := rfl
@[simp] theorem setContext_catalogue (s : State) (p : Port) (x : Option Context) : (s.setContext p x).catalogue = s.catalogue := rfl
@[simp] theorem setContext_lines (s : State) (p : Port) (x : Option Context) : (s.setContext p x).lines = s.lines := rfl
@[simp] theorem setContext_transit (s : State) (p : Port) (x : Option Context) : (s.setContext p x).transit = s.transit := rfl
@[simp] theorem setContext_tally (s : State) (p : Port) (x : Option Context) : (s.setContext p x).tally = s.tally := rfl
@[simp] theorem setContext_vouchers (s : State) (p : Port) (x : Option Context) : (s.setContext p x).vouchers = s.vouchers := rfl
@[simp] theorem setContext_faults (s : State) (p : Port) (x : Option Context) : (s.setContext p x).faults = s.faults := rfl
@[simp] theorem setContext_cond (s : State) (p : Port) (x : Option Context) : (s.setContext p x).cond = s.cond := rfl
@[simp] theorem setContext_mgmt (s : State) (p : Port) (x : Option Context) : (s.setContext p x).mgmt = s.mgmt := rfl
@[simp] theorem setContext_store (s : State) (p : Port) (x : Option Context) : (s.setContext p x).store = s.store := rfl
@[simp] theorem setContext_mail (s : State) (p : Port) (x : Option Context) : (s.setContext p x).mail = s.mail := rfl
@[simp] theorem setContext_pending (s : State) (p : Port) (x : Option Context) : (s.setContext p x).pending = s.pending := rfl
@[simp] theorem setContext_port (s : State) (p : Port) (x : Option Context) (p0 : Port) : (s.setContext p x).port p0 = s.port p0 := rfl
@[simp] theorem setContext_role (s : State) (p : Port) (x : Option Context) (p0 : Port) : (s.setContext p x).role p0 = s.role p0 := rfl
@[simp] theorem setContext_up (s : State) (p : Port) (x : Option Context) (p0 : Port) : (s.setContext p x).up p0 = s.up p0 := rfl
@[simp] theorem setContext_session (s : State) (p : Port) (x : Option Context) (p0 : Port) : (s.setContext p x).session p0 = s.session p0 := rfl
@[simp] theorem setContext_unit (s : State) (p : Port) (x : Option Context) (p0 : Port) : (s.setContext p x).unit p0 = s.unit p0 := rfl
@[simp] theorem setContext_faultContext (s : State) (p : Port) (x : Option Context) (p0 : Port) : (s.setContext p x).faultContext p0 = s.faultContext p0 := rfl
@[simp] theorem setContext_line (s : State) (p : Port) (x : Option Context) (l0 : LineIx) : (s.setContext p x).line l0 = s.line l0 := rfl
@[simp] theorem setContext_entry (s : State) (p : Port) (x : Option Context) (t0 : Tag) : (s.setContext p x).entry t0 = s.entry t0 := rfl
@[simp] theorem setContext_slot (s : State) (p : Port) (x : Option Context) (p0 : Port) : (s.setContext p x).slot p0 = s.slot p0 := rfl

@[simp] theorem setSession_ports (s : State) (p : Port) (x : Option Session) : (s.setSession p x).ports = s.ports := rfl
@[simp] theorem setSession_catalogue (s : State) (p : Port) (x : Option Session) : (s.setSession p x).catalogue = s.catalogue := rfl
@[simp] theorem setSession_admission (s : State) (p : Port) (x : Option Session) : (s.setSession p x).admission = s.admission := rfl
@[simp] theorem setSession_lines (s : State) (p : Port) (x : Option Session) : (s.setSession p x).lines = s.lines := rfl
@[simp] theorem setSession_transit (s : State) (p : Port) (x : Option Session) : (s.setSession p x).transit = s.transit := rfl
@[simp] theorem setSession_vouchers (s : State) (p : Port) (x : Option Session) : (s.setSession p x).vouchers = s.vouchers := rfl
@[simp] theorem setSession_faults (s : State) (p : Port) (x : Option Session) : (s.setSession p x).faults = s.faults := rfl
@[simp] theorem setSession_cond (s : State) (p : Port) (x : Option Session) : (s.setSession p x).cond = s.cond := rfl
@[simp] theorem setSession_mgmt (s : State) (p : Port) (x : Option Session) : (s.setSession p x).mgmt = s.mgmt := rfl
@[simp] theorem setSession_store (s : State) (p : Port) (x : Option Session) : (s.setSession p x).store = s.store := rfl
@[simp] theorem setSession_mail (s : State) (p : Port) (x : Option Session) : (s.setSession p x).mail = s.mail := rfl
@[simp] theorem setSession_pending (s : State) (p : Port) (x : Option Session) : (s.setSession p x).pending = s.pending := rfl
@[simp] theorem setSession_port (s : State) (p : Port) (x : Option Session) (p0 : Port) : (s.setSession p x).port p0 = s.port p0 := rfl
@[simp] theorem setSession_role (s : State) (p : Port) (x : Option Session) (p0 : Port) : (s.setSession p x).role p0 = s.role p0 := rfl
@[simp] theorem setSession_up (s : State) (p : Port) (x : Option Session) (p0 : Port) : (s.setSession p x).up p0 = s.up p0 := rfl
@[simp] theorem setSession_context (s : State) (p : Port) (x : Option Session) (p0 : Port) : (s.setSession p x).context p0 = s.context p0 := rfl
@[simp] theorem setSession_unit (s : State) (p : Port) (x : Option Session) (p0 : Port) : (s.setSession p x).unit p0 = s.unit p0 := rfl
@[simp] theorem setSession_faultContext (s : State) (p : Port) (x : Option Session) (p0 : Port) : (s.setSession p x).faultContext p0 = s.faultContext p0 := rfl
@[simp] theorem setSession_line (s : State) (p : Port) (x : Option Session) (l0 : LineIx) : (s.setSession p x).line l0 = s.line l0 := rfl
@[simp] theorem setSession_entry (s : State) (p : Port) (x : Option Session) (t0 : Tag) : (s.setSession p x).entry t0 = s.entry t0 := rfl
@[simp] theorem setSession_slot (s : State) (p : Port) (x : Option Session) (p0 : Port) : (s.setSession p x).slot p0 = s.slot p0 := rfl

@[simp] theorem setUnit_ports (s : State) (p : Port) (x : Option CounterUnit) : (s.setUnit p x).ports = s.ports := rfl
@[simp] theorem setUnit_catalogue (s : State) (p : Port) (x : Option CounterUnit) : (s.setUnit p x).catalogue = s.catalogue := rfl
@[simp] theorem setUnit_admission (s : State) (p : Port) (x : Option CounterUnit) : (s.setUnit p x).admission = s.admission := rfl
@[simp] theorem setUnit_lines (s : State) (p : Port) (x : Option CounterUnit) : (s.setUnit p x).lines = s.lines := rfl
@[simp] theorem setUnit_transit (s : State) (p : Port) (x : Option CounterUnit) : (s.setUnit p x).transit = s.transit := rfl
@[simp] theorem setUnit_tally (s : State) (p : Port) (x : Option CounterUnit) : (s.setUnit p x).tally = s.tally := rfl
@[simp] theorem setUnit_faults (s : State) (p : Port) (x : Option CounterUnit) : (s.setUnit p x).faults = s.faults := rfl
@[simp] theorem setUnit_cond (s : State) (p : Port) (x : Option CounterUnit) : (s.setUnit p x).cond = s.cond := rfl
@[simp] theorem setUnit_mgmt (s : State) (p : Port) (x : Option CounterUnit) : (s.setUnit p x).mgmt = s.mgmt := rfl
@[simp] theorem setUnit_store (s : State) (p : Port) (x : Option CounterUnit) : (s.setUnit p x).store = s.store := rfl
@[simp] theorem setUnit_mail (s : State) (p : Port) (x : Option CounterUnit) : (s.setUnit p x).mail = s.mail := rfl
@[simp] theorem setUnit_pending (s : State) (p : Port) (x : Option CounterUnit) : (s.setUnit p x).pending = s.pending := rfl
@[simp] theorem setUnit_port (s : State) (p : Port) (x : Option CounterUnit) (p0 : Port) : (s.setUnit p x).port p0 = s.port p0 := rfl
@[simp] theorem setUnit_role (s : State) (p : Port) (x : Option CounterUnit) (p0 : Port) : (s.setUnit p x).role p0 = s.role p0 := rfl
@[simp] theorem setUnit_up (s : State) (p : Port) (x : Option CounterUnit) (p0 : Port) : (s.setUnit p x).up p0 = s.up p0 := rfl
@[simp] theorem setUnit_context (s : State) (p : Port) (x : Option CounterUnit) (p0 : Port) : (s.setUnit p x).context p0 = s.context p0 := rfl
@[simp] theorem setUnit_session (s : State) (p : Port) (x : Option CounterUnit) (p0 : Port) : (s.setUnit p x).session p0 = s.session p0 := rfl
@[simp] theorem setUnit_faultContext (s : State) (p : Port) (x : Option CounterUnit) (p0 : Port) : (s.setUnit p x).faultContext p0 = s.faultContext p0 := rfl
@[simp] theorem setUnit_line (s : State) (p : Port) (x : Option CounterUnit) (l0 : LineIx) : (s.setUnit p x).line l0 = s.line l0 := rfl
@[simp] theorem setUnit_entry (s : State) (p : Port) (x : Option CounterUnit) (t0 : Tag) : (s.setUnit p x).entry t0 = s.entry t0 := rfl
@[simp] theorem setUnit_slot (s : State) (p : Port) (x : Option CounterUnit) (p0 : Port) : (s.setUnit p x).slot p0 = s.slot p0 := rfl

@[simp] theorem setFaultContext_ports (s : State) (p : Port) (x : Option FaultContext) : (s.setFaultContext p x).ports = s.ports := rfl
@[simp] theorem setFaultContext_catalogue (s : State) (p : Port) (x : Option FaultContext) : (s.setFaultContext p x).catalogue = s.catalogue := rfl
@[simp] theorem setFaultContext_admission (s : State) (p : Port) (x : Option FaultContext) : (s.setFaultContext p x).admission = s.admission := rfl
@[simp] theorem setFaultContext_lines (s : State) (p : Port) (x : Option FaultContext) : (s.setFaultContext p x).lines = s.lines := rfl
@[simp] theorem setFaultContext_transit (s : State) (p : Port) (x : Option FaultContext) : (s.setFaultContext p x).transit = s.transit := rfl
@[simp] theorem setFaultContext_tally (s : State) (p : Port) (x : Option FaultContext) : (s.setFaultContext p x).tally = s.tally := rfl
@[simp] theorem setFaultContext_vouchers (s : State) (p : Port) (x : Option FaultContext) : (s.setFaultContext p x).vouchers = s.vouchers := rfl
@[simp] theorem setFaultContext_cond (s : State) (p : Port) (x : Option FaultContext) : (s.setFaultContext p x).cond = s.cond := rfl
@[simp] theorem setFaultContext_mgmt (s : State) (p : Port) (x : Option FaultContext) : (s.setFaultContext p x).mgmt = s.mgmt := rfl
@[simp] theorem setFaultContext_store (s : State) (p : Port) (x : Option FaultContext) : (s.setFaultContext p x).store = s.store := rfl
@[simp] theorem setFaultContext_mail (s : State) (p : Port) (x : Option FaultContext) : (s.setFaultContext p x).mail = s.mail := rfl
@[simp] theorem setFaultContext_pending (s : State) (p : Port) (x : Option FaultContext) : (s.setFaultContext p x).pending = s.pending := rfl
@[simp] theorem setFaultContext_port (s : State) (p : Port) (x : Option FaultContext) (p0 : Port) : (s.setFaultContext p x).port p0 = s.port p0 := rfl
@[simp] theorem setFaultContext_role (s : State) (p : Port) (x : Option FaultContext) (p0 : Port) : (s.setFaultContext p x).role p0 = s.role p0 := rfl
@[simp] theorem setFaultContext_up (s : State) (p : Port) (x : Option FaultContext) (p0 : Port) : (s.setFaultContext p x).up p0 = s.up p0 := rfl
@[simp] theorem setFaultContext_context (s : State) (p : Port) (x : Option FaultContext) (p0 : Port) : (s.setFaultContext p x).context p0 = s.context p0 := rfl
@[simp] theorem setFaultContext_session (s : State) (p : Port) (x : Option FaultContext) (p0 : Port) : (s.setFaultContext p x).session p0 = s.session p0 := rfl
@[simp] theorem setFaultContext_unit (s : State) (p : Port) (x : Option FaultContext) (p0 : Port) : (s.setFaultContext p x).unit p0 = s.unit p0 := rfl
@[simp] theorem setFaultContext_line (s : State) (p : Port) (x : Option FaultContext) (l0 : LineIx) : (s.setFaultContext p x).line l0 = s.line l0 := rfl
@[simp] theorem setFaultContext_entry (s : State) (p : Port) (x : Option FaultContext) (t0 : Tag) : (s.setFaultContext p x).entry t0 = s.entry t0 := rfl
@[simp] theorem setFaultContext_slot (s : State) (p : Port) (x : Option FaultContext) (p0 : Port) : (s.setFaultContext p x).slot p0 = s.slot p0 := rfl

@[simp] theorem setLine_ports (s : State) (l : LineIx) (x : Line) : (s.setLine l x).ports = s.ports := rfl
@[simp] theorem setLine_catalogue (s : State) (l : LineIx) (x : Line) : (s.setLine l x).catalogue = s.catalogue := rfl
@[simp] theorem setLine_admission (s : State) (l : LineIx) (x : Line) : (s.setLine l x).admission = s.admission := rfl
@[simp] theorem setLine_transit (s : State) (l : LineIx) (x : Line) : (s.setLine l x).transit = s.transit := rfl
@[simp] theorem setLine_tally (s : State) (l : LineIx) (x : Line) : (s.setLine l x).tally = s.tally := rfl
@[simp] theorem setLine_vouchers (s : State) (l : LineIx) (x : Line) : (s.setLine l x).vouchers = s.vouchers := rfl
@[simp] theorem setLine_faults (s : State) (l : LineIx) (x : Line) : (s.setLine l x).faults = s.faults := rfl
@[simp] theorem setLine_cond (s : State) (l : LineIx) (x : Line) : (s.setLine l x).cond = s.cond := rfl
@[simp] theorem setLine_mgmt (s : State) (l : LineIx) (x : Line) : (s.setLine l x).mgmt = s.mgmt := rfl
@[simp] theorem setLine_store (s : State) (l : LineIx) (x : Line) : (s.setLine l x).store = s.store := rfl
@[simp] theorem setLine_mail (s : State) (l : LineIx) (x : Line) : (s.setLine l x).mail = s.mail := rfl
@[simp] theorem setLine_pending (s : State) (l : LineIx) (x : Line) : (s.setLine l x).pending = s.pending := rfl
@[simp] theorem setLine_port (s : State) (l : LineIx) (x : Line) (p0 : Port) : (s.setLine l x).port p0 = s.port p0 := rfl
@[simp] theorem setLine_role (s : State) (l : LineIx) (x : Line) (p0 : Port) : (s.setLine l x).role p0 = s.role p0 := rfl
@[simp] theorem setLine_up (s : State) (l : LineIx) (x : Line) (p0 : Port) : (s.setLine l x).up p0 = s.up p0 := rfl
@[simp] theorem setLine_context (s : State) (l : LineIx) (x : Line) (p0 : Port) : (s.setLine l x).context p0 = s.context p0 := rfl
@[simp] theorem setLine_session (s : State) (l : LineIx) (x : Line) (p0 : Port) : (s.setLine l x).session p0 = s.session p0 := rfl
@[simp] theorem setLine_unit (s : State) (l : LineIx) (x : Line) (p0 : Port) : (s.setLine l x).unit p0 = s.unit p0 := rfl
@[simp] theorem setLine_faultContext (s : State) (l : LineIx) (x : Line) (p0 : Port) : (s.setLine l x).faultContext p0 = s.faultContext p0 := rfl
@[simp] theorem setLine_entry (s : State) (l : LineIx) (x : Line) (t0 : Tag) : (s.setLine l x).entry t0 = s.entry t0 := rfl
@[simp] theorem setLine_slot (s : State) (l : LineIx) (x : Line) (p0 : Port) : (s.setLine l x).slot p0 = s.slot p0 := rfl

@[simp] theorem setEntry_ports (s : State) (t : Tag) (x : Entry) : (s.setEntry t x).ports = s.ports := rfl
@[simp] theorem setEntry_catalogue (s : State) (t : Tag) (x : Entry) : (s.setEntry t x).catalogue = s.catalogue := rfl
@[simp] theorem setEntry_admission (s : State) (t : Tag) (x : Entry) : (s.setEntry t x).admission = s.admission := rfl
@[simp] theorem setEntry_lines (s : State) (t : Tag) (x : Entry) : (s.setEntry t x).lines = s.lines := rfl
@[simp] theorem setEntry_tally (s : State) (t : Tag) (x : Entry) : (s.setEntry t x).tally = s.tally := rfl
@[simp] theorem setEntry_vouchers (s : State) (t : Tag) (x : Entry) : (s.setEntry t x).vouchers = s.vouchers := rfl
@[simp] theorem setEntry_faults (s : State) (t : Tag) (x : Entry) : (s.setEntry t x).faults = s.faults := rfl
@[simp] theorem setEntry_cond (s : State) (t : Tag) (x : Entry) : (s.setEntry t x).cond = s.cond := rfl
@[simp] theorem setEntry_mgmt (s : State) (t : Tag) (x : Entry) : (s.setEntry t x).mgmt = s.mgmt := rfl
@[simp] theorem setEntry_store (s : State) (t : Tag) (x : Entry) : (s.setEntry t x).store = s.store := rfl
@[simp] theorem setEntry_mail (s : State) (t : Tag) (x : Entry) : (s.setEntry t x).mail = s.mail := rfl
@[simp] theorem setEntry_pending (s : State) (t : Tag) (x : Entry) : (s.setEntry t x).pending = s.pending := rfl
@[simp] theorem setEntry_port (s : State) (t : Tag) (x : Entry) (p0 : Port) : (s.setEntry t x).port p0 = s.port p0 := rfl
@[simp] theorem setEntry_role (s : State) (t : Tag) (x : Entry) (p0 : Port) : (s.setEntry t x).role p0 = s.role p0 := rfl
@[simp] theorem setEntry_up (s : State) (t : Tag) (x : Entry) (p0 : Port) : (s.setEntry t x).up p0 = s.up p0 := rfl
@[simp] theorem setEntry_context (s : State) (t : Tag) (x : Entry) (p0 : Port) : (s.setEntry t x).context p0 = s.context p0 := rfl
@[simp] theorem setEntry_session (s : State) (t : Tag) (x : Entry) (p0 : Port) : (s.setEntry t x).session p0 = s.session p0 := rfl
@[simp] theorem setEntry_unit (s : State) (t : Tag) (x : Entry) (p0 : Port) : (s.setEntry t x).unit p0 = s.unit p0 := rfl
@[simp] theorem setEntry_faultContext (s : State) (t : Tag) (x : Entry) (p0 : Port) : (s.setEntry t x).faultContext p0 = s.faultContext p0 := rfl
@[simp] theorem setEntry_line (s : State) (t : Tag) (x : Entry) (l0 : LineIx) : (s.setEntry t x).line l0 = s.line l0 := rfl
@[simp] theorem setEntry_slot (s : State) (t : Tag) (x : Entry) (p0 : Port) : (s.setEntry t x).slot p0 = s.slot p0 := rfl

@[simp] theorem setBacklog_ports (s : State) (p : Port) (x : List ClearFrame) : (s.setBacklog p x).ports = s.ports := rfl
@[simp] theorem setBacklog_catalogue (s : State) (p : Port) (x : List ClearFrame) : (s.setBacklog p x).catalogue = s.catalogue := rfl
@[simp] theorem setBacklog_admission (s : State) (p : Port) (x : List ClearFrame) : (s.setBacklog p x).admission = s.admission := rfl
@[simp] theorem setBacklog_lines (s : State) (p : Port) (x : List ClearFrame) : (s.setBacklog p x).lines = s.lines := rfl
@[simp] theorem setBacklog_tally (s : State) (p : Port) (x : List ClearFrame) : (s.setBacklog p x).tally = s.tally := rfl
@[simp] theorem setBacklog_vouchers (s : State) (p : Port) (x : List ClearFrame) : (s.setBacklog p x).vouchers = s.vouchers := rfl
@[simp] theorem setBacklog_faults (s : State) (p : Port) (x : List ClearFrame) : (s.setBacklog p x).faults = s.faults := rfl
@[simp] theorem setBacklog_cond (s : State) (p : Port) (x : List ClearFrame) : (s.setBacklog p x).cond = s.cond := rfl
@[simp] theorem setBacklog_mgmt (s : State) (p : Port) (x : List ClearFrame) : (s.setBacklog p x).mgmt = s.mgmt := rfl
@[simp] theorem setBacklog_store (s : State) (p : Port) (x : List ClearFrame) : (s.setBacklog p x).store = s.store := rfl
@[simp] theorem setBacklog_mail (s : State) (p : Port) (x : List ClearFrame) : (s.setBacklog p x).mail = s.mail := rfl
@[simp] theorem setBacklog_pending (s : State) (p : Port) (x : List ClearFrame) : (s.setBacklog p x).pending = s.pending := rfl
@[simp] theorem setBacklog_port (s : State) (p : Port) (x : List ClearFrame) (p0 : Port) : (s.setBacklog p x).port p0 = s.port p0 := rfl
@[simp] theorem setBacklog_role (s : State) (p : Port) (x : List ClearFrame) (p0 : Port) : (s.setBacklog p x).role p0 = s.role p0 := rfl
@[simp] theorem setBacklog_up (s : State) (p : Port) (x : List ClearFrame) (p0 : Port) : (s.setBacklog p x).up p0 = s.up p0 := rfl
@[simp] theorem setBacklog_context (s : State) (p : Port) (x : List ClearFrame) (p0 : Port) : (s.setBacklog p x).context p0 = s.context p0 := rfl
@[simp] theorem setBacklog_session (s : State) (p : Port) (x : List ClearFrame) (p0 : Port) : (s.setBacklog p x).session p0 = s.session p0 := rfl
@[simp] theorem setBacklog_unit (s : State) (p : Port) (x : List ClearFrame) (p0 : Port) : (s.setBacklog p x).unit p0 = s.unit p0 := rfl
@[simp] theorem setBacklog_faultContext (s : State) (p : Port) (x : List ClearFrame) (p0 : Port) : (s.setBacklog p x).faultContext p0 = s.faultContext p0 := rfl
@[simp] theorem setBacklog_line (s : State) (p : Port) (x : List ClearFrame) (l0 : LineIx) : (s.setBacklog p x).line l0 = s.line l0 := rfl
@[simp] theorem setBacklog_entry (s : State) (p : Port) (x : List ClearFrame) (t0 : Tag) : (s.setBacklog p x).entry t0 = s.entry t0 := rfl
@[simp] theorem setBacklog_slot (s : State) (p : Port) (x : List ClearFrame) (p0 : Port) : (s.setBacklog p x).slot p0 = s.slot p0 := rfl

@[simp] theorem setSlot_ports (s : State) (p : Port) (x : ControllerSlot) : (s.setSlot p x).ports = s.ports := rfl
@[simp] theorem setSlot_catalogue (s : State) (p : Port) (x : ControllerSlot) : (s.setSlot p x).catalogue = s.catalogue := rfl
@[simp] theorem setSlot_admission (s : State) (p : Port) (x : ControllerSlot) : (s.setSlot p x).admission = s.admission := rfl
@[simp] theorem setSlot_lines (s : State) (p : Port) (x : ControllerSlot) : (s.setSlot p x).lines = s.lines := rfl
@[simp] theorem setSlot_transit (s : State) (p : Port) (x : ControllerSlot) : (s.setSlot p x).transit = s.transit := rfl
@[simp] theorem setSlot_tally (s : State) (p : Port) (x : ControllerSlot) : (s.setSlot p x).tally = s.tally := rfl
@[simp] theorem setSlot_vouchers (s : State) (p : Port) (x : ControllerSlot) : (s.setSlot p x).vouchers = s.vouchers := rfl
@[simp] theorem setSlot_faults (s : State) (p : Port) (x : ControllerSlot) : (s.setSlot p x).faults = s.faults := rfl
@[simp] theorem setSlot_cond (s : State) (p : Port) (x : ControllerSlot) : (s.setSlot p x).cond = s.cond := rfl
@[simp] theorem setSlot_store (s : State) (p : Port) (x : ControllerSlot) : (s.setSlot p x).store = s.store := rfl
@[simp] theorem setSlot_mail (s : State) (p : Port) (x : ControllerSlot) : (s.setSlot p x).mail = s.mail := rfl
@[simp] theorem setSlot_pending (s : State) (p : Port) (x : ControllerSlot) : (s.setSlot p x).pending = s.pending := rfl
@[simp] theorem setSlot_port (s : State) (p : Port) (x : ControllerSlot) (p0 : Port) : (s.setSlot p x).port p0 = s.port p0 := rfl
@[simp] theorem setSlot_role (s : State) (p : Port) (x : ControllerSlot) (p0 : Port) : (s.setSlot p x).role p0 = s.role p0 := rfl
@[simp] theorem setSlot_up (s : State) (p : Port) (x : ControllerSlot) (p0 : Port) : (s.setSlot p x).up p0 = s.up p0 := rfl
@[simp] theorem setSlot_context (s : State) (p : Port) (x : ControllerSlot) (p0 : Port) : (s.setSlot p x).context p0 = s.context p0 := rfl
@[simp] theorem setSlot_session (s : State) (p : Port) (x : ControllerSlot) (p0 : Port) : (s.setSlot p x).session p0 = s.session p0 := rfl
@[simp] theorem setSlot_unit (s : State) (p : Port) (x : ControllerSlot) (p0 : Port) : (s.setSlot p x).unit p0 = s.unit p0 := rfl
@[simp] theorem setSlot_faultContext (s : State) (p : Port) (x : ControllerSlot) (p0 : Port) : (s.setSlot p x).faultContext p0 = s.faultContext p0 := rfl
@[simp] theorem setSlot_line (s : State) (p : Port) (x : ControllerSlot) (l0 : LineIx) : (s.setSlot p x).line l0 = s.line l0 := rfl
@[simp] theorem setSlot_entry (s : State) (p : Port) (x : ControllerSlot) (t0 : Tag) : (s.setSlot p x).entry t0 = s.entry t0 := rfl

@[simp] theorem post_ports (s : State) (m : Instr) : (s.post m).ports = s.ports := rfl
@[simp] theorem post_catalogue (s : State) (m : Instr) : (s.post m).catalogue = s.catalogue := rfl
@[simp] theorem post_admission (s : State) (m : Instr) : (s.post m).admission = s.admission := rfl
@[simp] theorem post_lines (s : State) (m : Instr) : (s.post m).lines = s.lines := rfl
@[simp] theorem post_transit (s : State) (m : Instr) : (s.post m).transit = s.transit := rfl
@[simp] theorem post_tally (s : State) (m : Instr) : (s.post m).tally = s.tally := rfl
@[simp] theorem post_vouchers (s : State) (m : Instr) : (s.post m).vouchers = s.vouchers := rfl
@[simp] theorem post_faults (s : State) (m : Instr) : (s.post m).faults = s.faults := rfl
@[simp] theorem post_cond (s : State) (m : Instr) : (s.post m).cond = s.cond := rfl
@[simp] theorem post_mgmt (s : State) (m : Instr) : (s.post m).mgmt = s.mgmt := rfl
@[simp] theorem post_store (s : State) (m : Instr) : (s.post m).store = s.store := rfl
@[simp] theorem post_pending (s : State) (m : Instr) : (s.post m).pending = s.pending := rfl
@[simp] theorem post_port (s : State) (m : Instr) (p0 : Port) : (s.post m).port p0 = s.port p0 := rfl
@[simp] theorem post_role (s : State) (m : Instr) (p0 : Port) : (s.post m).role p0 = s.role p0 := rfl
@[simp] theorem post_up (s : State) (m : Instr) (p0 : Port) : (s.post m).up p0 = s.up p0 := rfl
@[simp] theorem post_context (s : State) (m : Instr) (p0 : Port) : (s.post m).context p0 = s.context p0 := rfl
@[simp] theorem post_session (s : State) (m : Instr) (p0 : Port) : (s.post m).session p0 = s.session p0 := rfl
@[simp] theorem post_unit (s : State) (m : Instr) (p0 : Port) : (s.post m).unit p0 = s.unit p0 := rfl
@[simp] theorem post_faultContext (s : State) (m : Instr) (p0 : Port) : (s.post m).faultContext p0 = s.faultContext p0 := rfl
@[simp] theorem post_line (s : State) (m : Instr) (l0 : LineIx) : (s.post m).line l0 = s.line l0 := rfl
@[simp] theorem post_entry (s : State) (m : Instr) (t0 : Tag) : (s.post m).entry t0 = s.entry t0 := rfl
@[simp] theorem post_slot (s : State) (m : Instr) (p0 : Port) : (s.post m).slot p0 = s.slot p0 := rfl

@[simp] theorem request_ports (s : State) (c : Condition) : (s.request c).ports = s.ports := rfl
@[simp] theorem request_catalogue (s : State) (c : Condition) : (s.request c).catalogue = s.catalogue := rfl
@[simp] theorem request_admission (s : State) (c : Condition) : (s.request c).admission = s.admission := rfl
@[simp] theorem request_lines (s : State) (c : Condition) : (s.request c).lines = s.lines := rfl
@[simp] theorem request_transit (s : State) (c : Condition) : (s.request c).transit = s.transit := rfl
@[simp] theorem request_tally (s : State) (c : Condition) : (s.request c).tally = s.tally := rfl
@[simp] theorem request_vouchers (s : State) (c : Condition) : (s.request c).vouchers = s.vouchers := rfl
@[simp] theorem request_faults (s : State) (c : Condition) : (s.request c).faults = s.faults := rfl
@[simp] theorem request_cond (s : State) (c : Condition) : (s.request c).cond = s.cond := rfl
@[simp] theorem request_mgmt (s : State) (c : Condition) : (s.request c).mgmt = s.mgmt := rfl
@[simp] theorem request_store (s : State) (c : Condition) : (s.request c).store = s.store := rfl
@[simp] theorem request_pending (s : State) (c : Condition) : (s.request c).pending = s.pending := rfl
@[simp] theorem request_port (s : State) (c : Condition) (p0 : Port) : (s.request c).port p0 = s.port p0 := rfl
@[simp] theorem request_role (s : State) (c : Condition) (p0 : Port) : (s.request c).role p0 = s.role p0 := rfl
@[simp] theorem request_up (s : State) (c : Condition) (p0 : Port) : (s.request c).up p0 = s.up p0 := rfl
@[simp] theorem request_context (s : State) (c : Condition) (p0 : Port) : (s.request c).context p0 = s.context p0 := rfl
@[simp] theorem request_session (s : State) (c : Condition) (p0 : Port) : (s.request c).session p0 = s.session p0 := rfl
@[simp] theorem request_unit (s : State) (c : Condition) (p0 : Port) : (s.request c).unit p0 = s.unit p0 := rfl
@[simp] theorem request_faultContext (s : State) (c : Condition) (p0 : Port) : (s.request c).faultContext p0 = s.faultContext p0 := rfl
@[simp] theorem request_line (s : State) (c : Condition) (l0 : LineIx) : (s.request c).line l0 = s.line l0 := rfl
@[simp] theorem request_entry (s : State) (c : Condition) (t0 : Tag) : (s.request c).entry t0 = s.entry t0 := rfl
@[simp] theorem request_slot (s : State) (c : Condition) (p0 : Port) : (s.request c).slot p0 = s.slot p0 := rfl

@[simp] theorem enqueue_catalogue (s : State) (p : Port) (f : TxFrame) : (enqueue s p f).catalogue = s.catalogue := rfl
@[simp] theorem enqueue_admission (s : State) (p : Port) (f : TxFrame) : (enqueue s p f).admission = s.admission := rfl
@[simp] theorem enqueue_lines (s : State) (p : Port) (f : TxFrame) : (enqueue s p f).lines = s.lines := rfl
@[simp] theorem enqueue_transit (s : State) (p : Port) (f : TxFrame) : (enqueue s p f).transit = s.transit := rfl
@[simp] theorem enqueue_tally (s : State) (p : Port) (f : TxFrame) : (enqueue s p f).tally = s.tally := rfl
@[simp] theorem enqueue_vouchers (s : State) (p : Port) (f : TxFrame) : (enqueue s p f).vouchers = s.vouchers := rfl
@[simp] theorem enqueue_faults (s : State) (p : Port) (f : TxFrame) : (enqueue s p f).faults = s.faults := rfl
@[simp] theorem enqueue_cond (s : State) (p : Port) (f : TxFrame) : (enqueue s p f).cond = s.cond := rfl
@[simp] theorem enqueue_mgmt (s : State) (p : Port) (f : TxFrame) : (enqueue s p f).mgmt = s.mgmt := rfl
@[simp] theorem enqueue_store (s : State) (p : Port) (f : TxFrame) : (enqueue s p f).store = s.store := rfl
@[simp] theorem enqueue_mail (s : State) (p : Port) (f : TxFrame) : (enqueue s p f).mail = s.mail := rfl
@[simp] theorem enqueue_pending (s : State) (p : Port) (f : TxFrame) : (enqueue s p f).pending = s.pending := rfl
@[simp] theorem enqueue_context (s : State) (p : Port) (f : TxFrame) (p0 : Port) : (enqueue s p f).context p0 = s.context p0 := rfl
@[simp] theorem enqueue_session (s : State) (p : Port) (f : TxFrame) (p0 : Port) : (enqueue s p f).session p0 = s.session p0 := rfl
@[simp] theorem enqueue_unit (s : State) (p : Port) (f : TxFrame) (p0 : Port) : (enqueue s p f).unit p0 = s.unit p0 := rfl
@[simp] theorem enqueue_faultContext (s : State) (p : Port) (f : TxFrame) (p0 : Port) : (enqueue s p f).faultContext p0 = s.faultContext p0 := rfl
@[simp] theorem enqueue_line (s : State) (p : Port) (f : TxFrame) (l0 : LineIx) : (enqueue s p f).line l0 = s.line l0 := rfl
@[simp] theorem enqueue_entry (s : State) (p : Port) (f : TxFrame) (t0 : Tag) : (enqueue s p f).entry t0 = s.entry t0 := rfl
@[simp] theorem enqueue_slot (s : State) (p : Port) (f : TxFrame) (p0 : Port) : (enqueue s p f).slot p0 = s.slot p0 := rfl

@[simp] theorem setQueued_ports (s : State) (p : Port) (b : Bool) : (setQueued s p b).ports = s.ports := rfl
@[simp] theorem setQueued_catalogue (s : State) (p : Port) (b : Bool) : (setQueued s p b).catalogue = s.catalogue := rfl
@[simp] theorem setQueued_admission (s : State) (p : Port) (b : Bool) : (setQueued s p b).admission = s.admission := rfl
@[simp] theorem setQueued_lines (s : State) (p : Port) (b : Bool) : (setQueued s p b).lines = s.lines := rfl
@[simp] theorem setQueued_transit (s : State) (p : Port) (b : Bool) : (setQueued s p b).transit = s.transit := rfl
@[simp] theorem setQueued_tally (s : State) (p : Port) (b : Bool) : (setQueued s p b).tally = s.tally := rfl
@[simp] theorem setQueued_vouchers (s : State) (p : Port) (b : Bool) : (setQueued s p b).vouchers = s.vouchers := rfl
@[simp] theorem setQueued_faults (s : State) (p : Port) (b : Bool) : (setQueued s p b).faults = s.faults := rfl
@[simp] theorem setQueued_mgmt (s : State) (p : Port) (b : Bool) : (setQueued s p b).mgmt = s.mgmt := rfl
@[simp] theorem setQueued_store (s : State) (p : Port) (b : Bool) : (setQueued s p b).store = s.store := rfl
@[simp] theorem setQueued_mail (s : State) (p : Port) (b : Bool) : (setQueued s p b).mail = s.mail := rfl
@[simp] theorem setQueued_pending (s : State) (p : Port) (b : Bool) : (setQueued s p b).pending = s.pending := rfl
@[simp] theorem setQueued_port (s : State) (p : Port) (b : Bool) (p0 : Port) : (setQueued s p b).port p0 = s.port p0 := rfl
@[simp] theorem setQueued_role (s : State) (p : Port) (b : Bool) (p0 : Port) : (setQueued s p b).role p0 = s.role p0 := rfl
@[simp] theorem setQueued_up (s : State) (p : Port) (b : Bool) (p0 : Port) : (setQueued s p b).up p0 = s.up p0 := rfl
@[simp] theorem setQueued_context (s : State) (p : Port) (b : Bool) (p0 : Port) : (setQueued s p b).context p0 = s.context p0 := rfl
@[simp] theorem setQueued_session (s : State) (p : Port) (b : Bool) (p0 : Port) : (setQueued s p b).session p0 = s.session p0 := rfl
@[simp] theorem setQueued_unit (s : State) (p : Port) (b : Bool) (p0 : Port) : (setQueued s p b).unit p0 = s.unit p0 := rfl
@[simp] theorem setQueued_faultContext (s : State) (p : Port) (b : Bool) (p0 : Port) : (setQueued s p b).faultContext p0 = s.faultContext p0 := rfl
@[simp] theorem setQueued_line (s : State) (p : Port) (b : Bool) (l0 : LineIx) : (setQueued s p b).line l0 = s.line l0 := rfl
@[simp] theorem setQueued_entry (s : State) (p : Port) (b : Bool) (t0 : Tag) : (setQueued s p b).entry t0 = s.entry t0 := rfl
@[simp] theorem setQueued_slot (s : State) (p : Port) (b : Bool) (p0 : Port) : (setQueued s p b).slot p0 = s.slot p0 := rfl

@[simp] theorem setInput_ports (s : State) (i : SenseIx) (x : SenseInput) : (setInput s i x).ports = s.ports := rfl
@[simp] theorem setInput_catalogue (s : State) (i : SenseIx) (x : SenseInput) : (setInput s i x).catalogue = s.catalogue := rfl
@[simp] theorem setInput_admission (s : State) (i : SenseIx) (x : SenseInput) : (setInput s i x).admission = s.admission := rfl
@[simp] theorem setInput_lines (s : State) (i : SenseIx) (x : SenseInput) : (setInput s i x).lines = s.lines := rfl
@[simp] theorem setInput_transit (s : State) (i : SenseIx) (x : SenseInput) : (setInput s i x).transit = s.transit := rfl
@[simp] theorem setInput_tally (s : State) (i : SenseIx) (x : SenseInput) : (setInput s i x).tally = s.tally := rfl
@[simp] theorem setInput_vouchers (s : State) (i : SenseIx) (x : SenseInput) : (setInput s i x).vouchers = s.vouchers := rfl
@[simp] theorem setInput_faults (s : State) (i : SenseIx) (x : SenseInput) : (setInput s i x).faults = s.faults := rfl
@[simp] theorem setInput_mgmt (s : State) (i : SenseIx) (x : SenseInput) : (setInput s i x).mgmt = s.mgmt := rfl
@[simp] theorem setInput_store (s : State) (i : SenseIx) (x : SenseInput) : (setInput s i x).store = s.store := rfl
@[simp] theorem setInput_mail (s : State) (i : SenseIx) (x : SenseInput) : (setInput s i x).mail = s.mail := rfl
@[simp] theorem setInput_pending (s : State) (i : SenseIx) (x : SenseInput) : (setInput s i x).pending = s.pending := rfl
@[simp] theorem setInput_port (s : State) (i : SenseIx) (x : SenseInput) (p0 : Port) : (setInput s i x).port p0 = s.port p0 := rfl
@[simp] theorem setInput_role (s : State) (i : SenseIx) (x : SenseInput) (p0 : Port) : (setInput s i x).role p0 = s.role p0 := rfl
@[simp] theorem setInput_up (s : State) (i : SenseIx) (x : SenseInput) (p0 : Port) : (setInput s i x).up p0 = s.up p0 := rfl
@[simp] theorem setInput_context (s : State) (i : SenseIx) (x : SenseInput) (p0 : Port) : (setInput s i x).context p0 = s.context p0 := rfl
@[simp] theorem setInput_session (s : State) (i : SenseIx) (x : SenseInput) (p0 : Port) : (setInput s i x).session p0 = s.session p0 := rfl
@[simp] theorem setInput_unit (s : State) (i : SenseIx) (x : SenseInput) (p0 : Port) : (setInput s i x).unit p0 = s.unit p0 := rfl
@[simp] theorem setInput_faultContext (s : State) (i : SenseIx) (x : SenseInput) (p0 : Port) : (setInput s i x).faultContext p0 = s.faultContext p0 := rfl
@[simp] theorem setInput_line (s : State) (i : SenseIx) (x : SenseInput) (l0 : LineIx) : (setInput s i x).line l0 = s.line l0 := rfl
@[simp] theorem setInput_entry (s : State) (i : SenseIx) (x : SenseInput) (t0 : Tag) : (setInput s i x).entry t0 = s.entry t0 := rfl
@[simp] theorem setInput_slot (s : State) (i : SenseIx) (x : SenseInput) (p0 : Port) : (setInput s i x).slot p0 = s.slot p0 := rfl

@[simp] theorem withQueue_ports (s : State) (q : List HoldEntry) : (withQueue s q).ports = s.ports := rfl
@[simp] theorem withQueue_catalogue (s : State) (q : List HoldEntry) : (withQueue s q).catalogue = s.catalogue := rfl
@[simp] theorem withQueue_admission (s : State) (q : List HoldEntry) : (withQueue s q).admission = s.admission := rfl
@[simp] theorem withQueue_transit (s : State) (q : List HoldEntry) : (withQueue s q).transit = s.transit := rfl
@[simp] theorem withQueue_tally (s : State) (q : List HoldEntry) : (withQueue s q).tally = s.tally := rfl
@[simp] theorem withQueue_vouchers (s : State) (q : List HoldEntry) : (withQueue s q).vouchers = s.vouchers := rfl
@[simp] theorem withQueue_faults (s : State) (q : List HoldEntry) : (withQueue s q).faults = s.faults := rfl
@[simp] theorem withQueue_cond (s : State) (q : List HoldEntry) : (withQueue s q).cond = s.cond := rfl
@[simp] theorem withQueue_mgmt (s : State) (q : List HoldEntry) : (withQueue s q).mgmt = s.mgmt := rfl
@[simp] theorem withQueue_store (s : State) (q : List HoldEntry) : (withQueue s q).store = s.store := rfl
@[simp] theorem withQueue_mail (s : State) (q : List HoldEntry) : (withQueue s q).mail = s.mail := rfl
@[simp] theorem withQueue_pending (s : State) (q : List HoldEntry) : (withQueue s q).pending = s.pending := rfl
@[simp] theorem withQueue_port (s : State) (q : List HoldEntry) (p0 : Port) : (withQueue s q).port p0 = s.port p0 := rfl
@[simp] theorem withQueue_role (s : State) (q : List HoldEntry) (p0 : Port) : (withQueue s q).role p0 = s.role p0 := rfl
@[simp] theorem withQueue_up (s : State) (q : List HoldEntry) (p0 : Port) : (withQueue s q).up p0 = s.up p0 := rfl
@[simp] theorem withQueue_context (s : State) (q : List HoldEntry) (p0 : Port) : (withQueue s q).context p0 = s.context p0 := rfl
@[simp] theorem withQueue_session (s : State) (q : List HoldEntry) (p0 : Port) : (withQueue s q).session p0 = s.session p0 := rfl
@[simp] theorem withQueue_unit (s : State) (q : List HoldEntry) (p0 : Port) : (withQueue s q).unit p0 = s.unit p0 := rfl
@[simp] theorem withQueue_faultContext (s : State) (q : List HoldEntry) (p0 : Port) : (withQueue s q).faultContext p0 = s.faultContext p0 := rfl
@[simp] theorem withQueue_line (s : State) (q : List HoldEntry) (l0 : LineIx) : (withQueue s q).line l0 = s.line l0 := rfl
@[simp] theorem withQueue_entry (s : State) (q : List HoldEntry) (t0 : Tag) : (withQueue s q).entry t0 = s.entry t0 := rfl
@[simp] theorem withQueue_slot (s : State) (q : List HoldEntry) (p0 : Port) : (withQueue s q).slot p0 = s.slot p0 := rfl

@[simp] theorem withClosingWait_ports (s : State) (q : List Port) : (withClosingWait s q).ports = s.ports := rfl
@[simp] theorem withClosingWait_catalogue (s : State) (q : List Port) : (withClosingWait s q).catalogue = s.catalogue := rfl
@[simp] theorem withClosingWait_admission (s : State) (q : List Port) : (withClosingWait s q).admission = s.admission := rfl
@[simp] theorem withClosingWait_lines (s : State) (q : List Port) : (withClosingWait s q).lines = s.lines := rfl
@[simp] theorem withClosingWait_transit (s : State) (q : List Port) : (withClosingWait s q).transit = s.transit := rfl
@[simp] theorem withClosingWait_vouchers (s : State) (q : List Port) : (withClosingWait s q).vouchers = s.vouchers := rfl
@[simp] theorem withClosingWait_faults (s : State) (q : List Port) : (withClosingWait s q).faults = s.faults := rfl
@[simp] theorem withClosingWait_cond (s : State) (q : List Port) : (withClosingWait s q).cond = s.cond := rfl
@[simp] theorem withClosingWait_mgmt (s : State) (q : List Port) : (withClosingWait s q).mgmt = s.mgmt := rfl
@[simp] theorem withClosingWait_store (s : State) (q : List Port) : (withClosingWait s q).store = s.store := rfl
@[simp] theorem withClosingWait_mail (s : State) (q : List Port) : (withClosingWait s q).mail = s.mail := rfl
@[simp] theorem withClosingWait_pending (s : State) (q : List Port) : (withClosingWait s q).pending = s.pending := rfl
@[simp] theorem withClosingWait_port (s : State) (q : List Port) (p0 : Port) : (withClosingWait s q).port p0 = s.port p0 := rfl
@[simp] theorem withClosingWait_role (s : State) (q : List Port) (p0 : Port) : (withClosingWait s q).role p0 = s.role p0 := rfl
@[simp] theorem withClosingWait_up (s : State) (q : List Port) (p0 : Port) : (withClosingWait s q).up p0 = s.up p0 := rfl
@[simp] theorem withClosingWait_context (s : State) (q : List Port) (p0 : Port) : (withClosingWait s q).context p0 = s.context p0 := rfl
@[simp] theorem withClosingWait_session (s : State) (q : List Port) (p0 : Port) : (withClosingWait s q).session p0 = s.session p0 := rfl
@[simp] theorem withClosingWait_unit (s : State) (q : List Port) (p0 : Port) : (withClosingWait s q).unit p0 = s.unit p0 := rfl
@[simp] theorem withClosingWait_faultContext (s : State) (q : List Port) (p0 : Port) : (withClosingWait s q).faultContext p0 = s.faultContext p0 := rfl
@[simp] theorem withClosingWait_line (s : State) (q : List Port) (l0 : LineIx) : (withClosingWait s q).line l0 = s.line l0 := rfl
@[simp] theorem withClosingWait_entry (s : State) (q : List Port) (t0 : Tag) : (withClosingWait s q).entry t0 = s.entry t0 := rfl
@[simp] theorem withClosingWait_slot (s : State) (q : List Port) (p0 : Port) : (withClosingWait s q).slot p0 = s.slot p0 := rfl

end Sys2Proof.Machine
end

