-- ==== Sys2Proof/Laws/Calm.lean ====
section
/-! SUPPORT. What the operations of the blocks leave alone. `Calm s t` says, once for each shared operation, that t comes from s
with the catalogue, the link accounts, the store and the queue of waiting commands as they stand, with nothing posted, and
with the laws of Safety.lean kept. -/

namespace Sys2Proof.Machine

/-- A port with its transmit queue left out. -/
def LinkPort.account (l : LinkPort) : LinkPort := { l with tx := [] }

/-- Every transmit queue holds at most 16 frames, and none outside UP. -/
def TxLaw (s : State) : Prop :=
  ∀ p, ((s.port p).link ≠ .up → (s.port p).tx = []) ∧ (s.port p).tx.length ≤ 16

/-- No grant has taken a reserved count past its capacity, and no capacity has changed (R91). -/
def Budget (s t : State) : Prop :=
  ∀ g, (cell t.lines.segments g).capacity = (cell s.lines.segments g).capacity ∧
    ((cell t.lines.segments g).reserved ≤ (cell s.lines.segments g).reserved ∨
      (cell t.lines.segments g).reserved ≤ (cell s.lines.segments g).capacity)

/-- What an operation that touches neither the catalogue nor the link accounts keeps. -/
structure Calm (s t : State) : Prop where
  catalogue : t.catalogue = s.catalogue
  pending   : t.pending = s.pending
  store     : t.store = s.store
  account   : ∀ p, (t.port p).account = (s.port p).account
  tx        : TxLaw s → TxLaw t
  posts     : t.mail.filter isPosting = s.mail.filter isPosting
  vouchers  : VoucherLaw s → VoucherLaw t
  transit   : TransitLaw s → TransitLaw t
  money     : MoneyLaw s → MoneyLaw t
  hold      : HoldLaw s → HoldLaw t ∧ Budget s t

theorem Budget.refl (s : State) : Budget s s := fun _ => ⟨rfl, .inl (le_refl _)⟩

theorem Budget.trans {s t u : State} (a : Budget s t) (b : Budget t u) : Budget s u := by
  intro g
  obtain ⟨c1, r1⟩ := a g
  obtain ⟨c2, r2⟩ := b g
  refine ⟨c2.trans c1, ?_⟩
  rcases r2 with r2 | r2
  · rcases r1 with r1 | r1
    · exact .inl (r2.trans r1)
    · exact .inr (r2.trans r1)
  · exact .inr (c1 ▸ r2)

theorem Calm.refl (s : State) : Calm s s :=
  ⟨rfl, rfl, rfl, fun _ => rfl, id, rfl, id, id, id, fun h => ⟨h, .refl s⟩⟩

theorem Calm.trans {s t u : State} (a : Calm s t) (b : Calm t u) : Calm s u where
  catalogue := b.catalogue.trans a.catalogue
  pending := b.pending.trans a.pending
  store := b.store.trans a.store
  account p := (b.account p).trans (a.account p)
  tx h := b.tx (a.tx h)
  posts := b.posts.trans a.posts
  vouchers h := b.vouchers (a.vouchers h)
  transit h := b.transit (a.transit h)
  money h := b.money (a.money h)
  hold h := ⟨(b.hold (a.hold h).1).1, (a.hold h).2.trans (b.hold (a.hold h).1).2⟩

/-- A fold of calm steps is calm. -/
theorem calm_foldl {α : Type} {f : State → α → State} {s0 : State} (hf : ∀ {s x}, Calm s0 s → Calm s0 (f s x))
    {l : List α} {s : State} (h : Calm s0 s) : Calm s0 (l.foldl f s) := by
  induction l generalizing s with
  | nil => exact h
  | cons x xs ih => exact ih (hf h)

/-! ### What a port's account fixes -/

theorem Calm.link {s t : State} (h : Calm s t) (p : Port) : (t.port p).link = (s.port p).link :=
  show (t.port p).account.link = (s.port p).account.link from congrArg _ (h.account p)

theorem Calm.entry {s t : State} (h : Calm s t) (p : Port) : (t.port p).entry = (s.port p).entry :=
  show (t.port p).account.entry = (s.port p).account.entry from congrArg _ (h.account p)

theorem Calm.rx {s t : State} (h : Calm s t) (p : Port) : (t.port p).rx = (s.port p).rx :=
  show (t.port p).account.rx = (s.port p).account.rx from congrArg _ (h.account p)

theorem Calm.up {s t : State} (h : Calm s t) (p : Port) : t.up p = s.up p := by simp [State.up, h.link p]

theorem Calm.role {s t : State} (h : Calm s t) (p : Port) : t.role p = s.role p := by simp [State.role, h.entry p]

/-! ### Updates -/

section Updates
variable {s0 s : State}

/-- The context's law may rest on the laws of the state the whole operation starts from. -/
theorem calm_setContext {p : Port} {x : Option Context}
    (hx : MoneyLaw s0 → MoneyLaw s → ∀ c k, x = some c → c.credit = some k → CreditLaw k) (h : Calm s0 s) :
    Calm s0 (s.setContext p x) := by
  refine ⟨h.catalogue, h.pending, h.store, h.account, h.tx, h.posts, h.vouchers, h.transit, fun m0 => ?_, h.hold⟩
  have m := h.money m0
  refine ⟨m.1, ?_, m.2.2⟩
  intro q c k hc hk
  by_cases e : q = p
  · subst e
    rw [setContext_context_self] at hc
    exact hx m0 m c k hc hk
  · rw [setContext_context_ne _ _ e] at hc
    exact m.2.1 q c k hc hk

/-- The session's law may rest on the laws of the state the whole operation starts from. -/
theorem calm_setSession {p : Port} {x : Option Session}
    (hx : MoneyLaw s0 → MoneyLaw s → ∀ y, x = some y → SessionLaw y) (h : Calm s0 s) : Calm s0 (s.setSession p x) := by
  refine ⟨h.catalogue, h.pending, h.store, h.account, h.tx, h.posts, h.vouchers, h.transit, fun m0 => ?_, h.hold⟩
  have m := h.money m0
  refine ⟨?_, m.2⟩
  intro q y hy
  by_cases e : q = p
  · subst e
    rw [setSession_session_self] at hy
    exact hx m0 m y hy
  · rw [setSession_session_ne _ _ e] at hy
    exact m.1 q y hy

theorem calm_setUnit {p : Port} {x : Option CounterUnit} (hx : VoucherLaw s → ∀ u, x = some u → UnitLaw u)
    (h : Calm s0 s) : Calm s0 (s.setUnit p x) := by
  refine h.trans ⟨rfl, rfl, rfl, fun _ => rfl, id, rfl, fun v => ?_, id, id, fun m => ⟨m, .refl _⟩⟩
  intro q u hu
  by_cases e : q = p
  · subst e
    rw [setUnit_unit_self] at hu
    exact hx v u hu
  · rw [setUnit_unit_ne _ _ e] at hu
    exact v q u hu

theorem calm_setEntry {t : Tag} {x : Entry} (hx : TransitLaw s → EntryLaw x)
    (hr : MoneyLaw s → ∀ r, x.record = some r → CreditLaw r.credit) (h : Calm s0 s) : Calm s0 (s.setEntry t x) := by
  refine h.trans ⟨rfl, rfl, rfl, fun _ => rfl, id, rfl, id, fun v => ?_, fun m => ⟨m.1, m.2.1, ?_, m.2.2.2⟩,
    fun m => ⟨m, .refl _⟩⟩
  · intro u
    by_cases e : u = t
    · subst e; rw [setEntry_entry_self]; exact hx v
    · rw [setEntry_entry_ne _ _ e]; exact v u
  · intro u r hu
    by_cases e : u = t
    · subst e; rw [setEntry_entry_self] at hu; exact hr m r hu
    · rw [setEntry_entry_ne _ _ e] at hu; exact m.2.2.1 u r hu

theorem calm_setFaultContext {p : Port} {x : Option FaultContext} (h : Calm s0 s) : Calm s0 (s.setFaultContext p x) :=
  h.trans ⟨rfl, rfl, rfl, fun _ => rfl, id, rfl, id, id, id, fun m => ⟨m, .refl _⟩⟩

theorem calm_setBacklog {p : Port} {x : List ClearFrame} (h : Calm s0 s) : Calm s0 (s.setBacklog p x) :=
  h.trans ⟨rfl, rfl, rfl, fun _ => rfl, id, rfl, id, id, id, fun m => ⟨m, .refl _⟩⟩

theorem calm_mgmt {x : ManagementUnit} (h : Calm s0 s) : Calm s0 { s with mgmt := x } :=
  h.trans ⟨rfl, rfl, rfl, fun _ => rfl, id, rfl, id, id, id, fun m => ⟨m, .refl _⟩⟩

theorem calm_setSlot {p : Port} {x : ControllerSlot} (h : Calm s0 s) : Calm s0 (s.setSlot p x) := calm_mgmt h

theorem calm_cond {x : ConditionUnit} (h : Calm s0 s) : Calm s0 { s with cond := x } :=
  h.trans ⟨rfl, rfl, rfl, fun _ => rfl, id, rfl, id, id, id, fun m => ⟨m, .refl _⟩⟩

theorem calm_faults {x : FaultUnit} (h : Calm s0 s) : Calm s0 { s with faults := x } :=
  h.trans ⟨rfl, rfl, rfl, fun _ => rfl, id, rfl, id, id, id, fun m => ⟨m, .refl _⟩⟩

theorem calm_vouchers {x : VoucherUnit} (hx : x.units = s.vouchers.units) (h : Calm s0 s) :
    Calm s0 { s with vouchers := x } :=
  h.trans ⟨rfl, rfl, rfl, fun _ => rfl, id, rfl,
    fun v p u hu => v p u (by simpa [State.unit, hx] using hu), id, id, fun m => ⟨m, .refl _⟩⟩

theorem calm_roomStop {b : Bool} (h : Calm s0 s) : Calm s0 { s with admission := { s.admission with roomStop := b } } :=
  h.trans ⟨rfl, rfl, rfl, fun _ => rfl, id, rfl, id, id, id, fun m => ⟨m, .refl _⟩⟩

theorem calm_withClosingWait {q : List Port} (h : Calm s0 s) : Calm s0 (withClosingWait s q) :=
  h.trans ⟨rfl, rfl, rfl, fun _ => rfl, id, rfl, id, id, id, fun m => ⟨m, .refl _⟩⟩

/-- A message that is no posting, and whose credit has its split. -/
theorem calm_postMessage {m : Instr} (hp : isPosting m = false) (hm : MoneyLaw s0 → MessageLaw m) (h : Calm s0 s) :
    Calm s0 (s.post m) := by
  refine ⟨h.catalogue, h.pending, h.store, h.account, h.tx, ?_, h.vouchers, h.transit, fun m0 => ?_, h.hold⟩
  · rw [post_mail, List.filter_append, h.posts]
    simp [hp]
  · have v := h.money m0
    refine ⟨v.1, v.2.1, v.2.2.1, ?_, v.2.2.2.2⟩
    intro x hx
    rw [post_mail] at hx
    rcases List.mem_append.mp hx with hx | hx
    · exact v.2.2.2.1 x hx
    · rw [List.mem_singleton.mp hx]; exact hm m0

theorem calm_post {m : Instr} (hp : isPosting m = false) (hm : MessageLaw m) (h : Calm s0 s) : Calm s0 (s.post m) :=
  calm_postMessage hp (fun _ => hm) h

theorem calm_request {c : Condition} (h : Calm s0 s) : Calm s0 (s.request c) := calm_post rfl trivial h

/-- Messages taken away, none of them a posting. -/
theorem calm_mailFilter {f : Instr → Bool} (hf : ∀ m, f m = false → isPosting m = false) (h : Calm s0 s) :
    Calm s0 { s with mail := s.mail.filter f } := by
  refine h.trans ⟨rfl, rfl, rfl, fun _ => rfl, id, ?_, id, id,
    fun v => ⟨v.1, v.2.1, v.2.2.1, fun m hm => v.2.2.2.1 m (List.mem_filter.mp hm).1, v.2.2.2.2⟩, fun v => ⟨v, .refl _⟩⟩
  show (s.mail.filter f).filter isPosting = s.mail.filter isPosting
  rw [List.filter_filter]
  congr 1
  funext m
  cases e : f m
  · simp [hf m e]
  · simp

/-- Waiting messages, none of them a posting, taken in a calm way. -/
theorem calm_takeWaiting {mine : Instr → Bool} {take : State → Instr → State}
    (hm : ∀ m, mine m = true → isPosting m = false) (ht : ∀ {s m}, Calm s0 s → Calm s0 (take s m)) (h : Calm s0 s) :
    Calm s0 (takeWaiting mine take s) := by
  unfold takeWaiting
  dsimp only
  split
  · exact h
  · exact calm_foldl ht (calm_mailFilter (fun m e => hm m (by simpa using e)) h)

/-- A frame that joins a transmit queue after an accepted offer (R14). -/
theorem calm_enqueue {p : Port} {f : TxFrame} (ha : offerAnswer s p = .accepted) (h : Calm s0 s) :
    Calm s0 (enqueue s p f) := by
  have hup : (s.port p).link = .up ∧ (s.port p).tx.length < 16 := by
    unfold offerAnswer at ha
    split at ha
    · cases ha
    · split at ha
      · cases ha
      · rename_i a b
        exact ⟨Decidable.of_not_not a, Nat.lt_of_not_le b⟩
  refine h.trans ⟨rfl, rfl, rfl, fun q => ?_, fun v q => ?_, rfl, id, id, id, fun v => ⟨v, .refl _⟩⟩
  · by_cases e : q = p
    · subst e; simp [LinkPort.account]
    · simp [e]
  · by_cases e : q = p
    · subst e
      simp only [enqueue_port_self, List.length_append, List.length_singleton]
      exact ⟨fun n => absurd hup.1 n, hup.2⟩
    · rw [enqueue_port_ne _ _ e]; exact v q

end Updates

/-! ### Offers (R14) -/

section Offers
variable {s0 s : State}

theorem calm_offerList {α : Type} {frame : α → TxFrame} {p : Port} :
    ∀ {l : List α} {s : State}, Calm s0 s → Calm s0 (offerList frame p l s).2
  | [], _, h => h
  | x :: xs, s, h => by
    unfold offerList
    split
    · exact calm_offerList (calm_enqueue ‹_› h)
    · exact h
    · exact h

theorem calm_offerReport {α : Type} {frame : α → TxFrame} {p : Port} {l : List α} {x : α} (h : Calm s0 s) :
    Calm s0 (offerReport frame p l x s).2 := by
  unfold offerReport
  split
  · split
    · exact calm_enqueue ‹_› h
    · exact h
    · exact h
  · split <;> exact h

end Offers

/-! ### Conditions and outputs (R164 to R170) -/

section Conditions
variable {s0 s : State}

theorem calm_evalOutputs (h : Calm s0 s) : Calm s0 (evalOutputs s) := by
  unfold evalOutputs
  split
  · exact h
  · exact calm_cond h

theorem rewriteNotices_port (s : State) (p : Port) :
    (rewriteNotices s).port p = { s.port p with tx := (s.port p).tx.map (rewriteNotice s.cond.set) } := by
  simp [State.port, rewriteNotices]

theorem calm_rewriteNotices (h : Calm s0 s) : Calm s0 (rewriteNotices s) := by
  refine h.trans ⟨rfl, rfl, rfl, fun q => ?_, fun v q => ?_, rfl, id, id, id, fun v => ⟨v, .refl _⟩⟩
  · simp [rewriteNotices_port, LinkPort.account]
  · rw [rewriteNotices_port]
    refine ⟨fun n => ?_, ?_⟩
    · simp [(v q).1 n]
    · simpa using (v q).2

theorem calm_withConditions {c : ConditionSet} (h : Calm s0 s) : Calm s0 (withConditions s c) :=
  calm_rewriteNotices (calm_cond h)

theorem calm_setQueued {p : Port} {b : Bool} (h : Calm s0 s) : Calm s0 (setQueued s p b) := calm_cond h

theorem calm_noticeTo {p : Port} (h : Calm s0 s) : Calm s0 (noticeTo s p) := by
  unfold noticeTo
  split
  · exact h
  · split
    · exact calm_setQueued (calm_enqueue ‹_› h)
    · exact h
    · exact h

theorem calm_setCondition {c : Condition} (h : Calm s0 s) : Calm s0 (setCondition c s) := by
  unfold setCondition
  split
  · exact h
  · refine calm_evalOutputs ?_
    split
    · exact calm_withConditions h
    · exact calm_foldl calm_noticeTo (calm_withConditions h)

theorem calm_clearNamed {c : ConditionSet} (h : Calm s0 s) : Calm s0 (clearNamed c s) :=
  calm_evalOutputs (calm_withConditions h)

theorem calm_setInput {i : SenseIx} {x : SenseInput} (h : Calm s0 s) : Calm s0 (setInput s i x) := calm_cond h

theorem calm_countLatch {f : SenseFunction} (h : Calm s0 s) : Calm s0 (countLatch f s) := by
  cases f
  · exact h
  · simp only [countLatch, countBinLatch]
    split
    · exact calm_post rfl trivial (calm_cond h)
    · exact calm_cond h
  · simp only [countLatch, countRoomStop]
    split
    · exact calm_post rfl trivial (calm_cond h)
    · exact calm_cond h

theorem calm_uncountLatch {f : SenseFunction} (h : Calm s0 s) : Calm s0 (uncountLatch f s) := by
  cases f
  · exact h
  · simp only [uncountLatch, uncountBinLatch]
    split
    · exact calm_post rfl trivial (calm_cond h)
    · exact calm_cond h
  · simp only [uncountLatch, uncountRoomStop]
    split
    · exact calm_post rfl trivial (calm_cond h)
    · exact calm_cond h

theorem calm_latchInput {i : SenseIx} (h : Calm s0 s) : Calm s0 (latchInput i s) := by
  unfold latchInput
  refine calm_evalOutputs (calm_countLatch ?_)
  split
  · exact calm_setCondition (calm_setCondition (calm_setInput h))
  · exact calm_setCondition (calm_setInput h)

theorem calm_releaseInput {i : SenseIx} (h : Calm s0 s) : Calm s0 (releaseInput s i) := by
  unfold releaseInput
  split
  · exact calm_setInput (calm_uncountLatch h)
  · exact h

theorem calm_releaseInputs {b : BitVec 8} (h : Calm s0 s) : Calm s0 (releaseInputs b s) :=
  calm_evalOutputs (calm_foldl calm_releaseInput h)

end Conditions

end Sys2Proof.Machine
end

