-- ==== Sys2Proof/Laws/CalmLines.lean ====
section
/-! SUPPORT. What the operations of the line unit leave alone, and that they keep the hold queue's law and the segment budgets
(see Laws/Calm.lean). -/

namespace Sys2Proof.Machine

/-! ### Everything but the hold queue's law -/

/-- What `Calm` says, less the hold queue's law. -/
structure Quiet (s t : State) : Prop where
  catalogue : t.catalogue = s.catalogue
  pending   : t.pending = s.pending
  store     : t.store = s.store
  account   : ∀ p, (t.port p).account = (s.port p).account
  tx        : TxLaw s → TxLaw t
  posts     : t.mail.filter isPosting = s.mail.filter isPosting
  vouchers  : VoucherLaw s → VoucherLaw t
  transit   : TransitLaw s → TransitLaw t
  money     : MoneyLaw s → MoneyLaw t

theorem Calm.quiet {s t : State} (h : Calm s t) : Quiet s t :=
  ⟨h.catalogue, h.pending, h.store, h.account, h.tx, h.posts, h.vouchers, h.transit, h.money⟩

theorem Quiet.calm {s t : State} (h : Quiet s t) (k : HoldLaw s → HoldLaw t ∧ Budget s t) : Calm s t :=
  ⟨h.catalogue, h.pending, h.store, h.account, h.tx, h.posts, h.vouchers, h.transit, h.money, k⟩

theorem Quiet.trans {s t u : State} (a : Quiet s t) (b : Quiet t u) : Quiet s u where
  catalogue := b.catalogue.trans a.catalogue
  pending := b.pending.trans a.pending
  store := b.store.trans a.store
  account p := (b.account p).trans (a.account p)
  tx h := b.tx (a.tx h)
  posts := b.posts.trans a.posts
  vouchers h := b.vouchers (a.vouchers h)
  transit h := b.transit (a.transit h)
  money h := b.money (a.money h)

section Quiet
variable {s0 s : State} {l : LineIx}

theorem quiet_foldl {α : Type} {f : State → α → State} (hf : ∀ {s x}, Quiet s0 s → Quiet s0 (f s x))
    {l : List α} {s : State} (h : Quiet s0 s) : Quiet s0 (l.foldl f s) := by
  induction l generalizing s with
  | nil => exact h
  | cons x xs ih => exact ih (hf h)

theorem quiet_lines {u : LineUnit} (h : Quiet s0 s) : Quiet s0 { s with lines := u } :=
  h.trans ⟨rfl, rfl, rfl, fun _ => rfl, id, rfl, id, id, id⟩

theorem quiet_setLine {x : Line} (h : Quiet s0 s) : Quiet s0 (s.setLine l x) := quiet_lines h

theorem quiet_withQueue {q : List HoldEntry} (h : Quiet s0 s) : Quiet s0 (withQueue s q) := quiet_lines h

theorem quiet_post {m : Instr} (hp : isPosting m = false) (hm : MessageLaw m) (h : Quiet s0 s) : Quiet s0 (s.post m) :=
  h.trans (calm_post hp hm (.refl s)).quiet

theorem quiet_grant {t : Tag} {p : Port} {q : Byte} {n : Nat} (h : Quiet s0 s) : Quiet s0 (grant t p q l n s) :=
  quiet_post rfl trivial (quiet_lines h)

theorem quiet_walkEntry {w : Walk} {e : HoldEntry} (h : Quiet s0 w.state) : Quiet s0 (walkEntry w e).state := by
  unfold walkEntry
  split
  · exact h
  · split
    · exact h
    · split
      · exact h
      · split
        · exact quiet_post rfl trivial (quiet_grant h)
        · exact h

theorem quiet_walkFold {q : List HoldEntry} {w : Walk} (h : Quiet s0 w.state) : Quiet s0 (q.foldl walkEntry w).state := by
  induction q generalizing w with
  | nil => exact h
  | cons e es ih => exact ih (quiet_walkEntry h)

theorem quiet_walk (h : Quiet s0 s) : Quiet s0 (walk s) := quiet_withQueue (quiet_walkFold h)

theorem quiet_reselectEntry {w : Reselection} {e : HoldEntry} (h : Quiet s0 w.state) :
    Quiet s0 (reselectEntry l w e).state := by
  unfold reselectEntry
  split <;> exact quiet_post rfl trivial h

/-- One entry of a re-selection in turn (R100). -/
def reselectStep (l : LineIx) (which : HoldEntry → Bool) (w : Reselection) (e : HoldEntry) : Reselection :=
  if e.line = l ∧ which e = true then reselectEntry l w e else { w with queue := w.queue ++ [e] }

theorem reselect_eq (l : LineIx) (which : HoldEntry → Bool) (s : State) :
    reselect l which s = withQueue (s.lines.holdQueue.foldl (reselectStep l which) ⟨[], s⟩).state
      (s.lines.holdQueue.foldl (reselectStep l which) ⟨[], s⟩).queue := rfl

theorem quiet_reselectFold {f : HoldEntry → Bool} {q : List HoldEntry} {w : Reselection} (h : Quiet s0 w.state) :
    Quiet s0 (q.foldl (reselectStep l f) w).state := by
  induction q generalizing w with
  | nil => exact h
  | cons e es ih =>
    refine ih ?_
    unfold reselectStep
    split
    · exact quiet_reselectEntry h
    · exact h

theorem quiet_reselect {f : HoldEntry → Bool} (h : Quiet s0 s) : Quiet s0 (reselect l f s) := by
  rw [reselect_eq]
  exact quiet_withQueue (quiet_reselectFold h)

theorem quiet_stateConditions {n : LineState} (h : Quiet s0 s) : Quiet s0 (stateConditions n s) := by
  cases n
  · exact h
  · exact quiet_post rfl trivial h
  · exact quiet_post rfl trivial h
  · exact h

theorem quiet_rederive (h : Quiet s0 s) : Quiet s0 (rederive l s) := by
  have k : Quiet s0 (((stateConditions (derivedState (s.line l))
      (s.setLine l { s.line l with state := derivedState (s.line l) })).post
      (.lineStateReport l (derivedState (s.line l))))) :=
    quiet_post rfl trivial (quiet_stateConditions (quiet_setLine h))
  unfold rederive
  simp only
  split
  · exact h
  · split
    · split
      · exact k
      · exact quiet_walk (quiet_reselect k)
    · split
      · exact quiet_walk k
      · exact k

theorem quiet_withCauses {c : Causes} (h : Quiet s0 s) : Quiet s0 (withCauses l c s) := quiet_rederive (quiet_setLine h)

theorem quiet_renewSegments (h : Quiet s0 s) : Quiet s0 (renewSegments l s) := quiet_withQueue h

theorem quiet_applyLine {r : LineRecord} (h : Quiet s0 s) : Quiet s0 (applyLine l r s) :=
  quiet_walk (quiet_reselect (quiet_renewSegments (quiet_withCauses (quiet_setLine h))))

theorem quiet_capacityRequest {x : CapacityRequest} (h : Quiet s0 s) : Quiet s0 (capacityRequest x s).2 := by
  unfold capacityRequest queueOrDeny
  split
  · exact h
  · split
    · split
      · exact quiet_withQueue h
      · exact h
    · split
      · exact quiet_grant h
      · split
        · exact quiet_withQueue h
        · exact h

theorem quiet_release {t : Tag} {g : Gen} {n : Nat} {q : List SegIx} (h : Quiet s0 s) :
    Quiet s0 (release t g l n q s) := by
  unfold release
  simp only
  split
  · exact h
  · exact quiet_walk (quiet_lines h)

end Quiet

/-! ### Segments (R91 to R95) -/

/-- A list of distinct segments adjusted: each of them is passed through f once (R94, R95). -/
theorem cell_adjustSegments (f : Segment → Segment) {q : List SegIx} (hq : q.Nodup) (v : Vector Segment 12) (g : SegIx) :
    cell (adjustSegments f q v) g = if g ∈ q then f (cell v g) else cell v g := by
  induction q generalizing v with
  | nil => rfl
  | cons a as ih =>
    have hn := List.nodup_cons.mp hq
    show cell (adjustSegments f as (put v a (f (cell v a)))) g = _
    rw [ih hn.2]
    by_cases e : g = a
    · subst e; simp [hn.1]
    · simp [e]

/-- A lowered count stays within what it was, whatever the list. -/
theorem adjust_unreserve (n : Nat) (q : List SegIx) (v : Vector Segment 12) (g : SegIx) :
    (cell (adjustSegments (unreserve n) q v) g).capacity = (cell v g).capacity ∧
      (cell (adjustSegments (unreserve n) q v) g).reserved ≤ (cell v g).reserved := by
  induction q generalizing v with
  | nil => exact ⟨rfl, le_refl _⟩
  | cons a as ih =>
    obtain ⟨h1, h2⟩ := ih (put v a (unreserve n (cell v a)))
    have h3 : adjustSegments (unreserve n) (a :: as) v = adjustSegments (unreserve n) as (put v a (unreserve n (cell v a))) :=
      rfl
    rw [h3]
    by_cases e : g = a
    · subst e
      rw [cell_put_self] at h1 h2
      exact ⟨h1, h2.trans (Nat.sub_le _ _)⟩
    · rw [cell_put_ne _ _ e] at h1 h2
      exact ⟨h1, h2⟩

/-! ### The hold queue's law -/

/-- The law, less the segment lists of the entries of one line, whose record is being written (R83). -/
def HoldBut (d : Option LineIx) (s : State) : Prop :=
  (∀ l, (s.line l).record.segments.Nodup) ∧
  ∀ e ∈ s.lines.holdQueue, usable (s.line e.line) = true ∧
    (d ≠ some e.line → e.segments = (s.line e.line).record.segments)

theorem holdBut_none (s : State) : HoldBut none s ↔ HoldLaw s := by
  simp [HoldBut, HoldLaw]

/-- The lines' records and states, and the hold queue, stand as they were. -/
structure SameLines (s t : State) : Prop where
  record : ∀ l, (t.line l).record = (s.line l).record
  state  : ∀ l, (t.line l).state = (s.line l).state

theorem usable_congr {a b : Line} (h : a.state = b.state) : usable a = usable b := by simp [usable, h]

theorem SameLines.refl (s : State) : SameLines s s := ⟨fun _ => rfl, fun _ => rfl⟩

theorem SameLines.trans {s t u : State} (a : SameLines s t) (b : SameLines t u) : SameLines s u :=
  ⟨fun l => (b.record l).trans (a.record l), fun l => (b.state l).trans (a.state l)⟩

theorem SameLines.usable {s t : State} (h : SameLines s t) (l : LineIx) : usable (t.line l) = usable (s.line l) :=
  usable_congr (h.state l)

/-- The law passes to a state with the same lines and a queue of entries that keep it. -/
theorem HoldBut.same {d : Option LineIx} {s t : State} (h : HoldBut d s) (k : SameLines s t)
    (hq : ∀ e ∈ t.lines.holdQueue, e ∈ s.lines.holdQueue) : HoldBut d t := by
  refine ⟨fun l => k.record l ▸ h.1 l, fun e he => ?_⟩
  rw [k.usable, k.record]
  exact h.2 e (hq e he)

section Hold
variable {s : State} {l : LineIx} {d : Option LineIx}

theorem sameLines_setLine {x : Line} (hr : x.record = (s.line l).record) (hs : x.state = (s.line l).state) :
    SameLines s (s.setLine l x) := by
  refine ⟨fun m => ?_, fun m => ?_⟩ <;> by_cases e : m = l
  · subst e; simpa using hr
  · simp [e]
  · subst e; simpa using hs
  · simp [e]

theorem sameLines_grant {t : Tag} {p : Port} {q : Byte} {n : Nat} : SameLines s (grant t p q l n s) := by
  have h : ∀ m, (grant t p q l n s).line m = if m = l then { s.line l with live := (s.line l).live + 1 } else s.line m := by
    intro m
    simp [grant, State.line, State.post, cell_put]
  refine ⟨fun m => ?_, fun m => ?_⟩ <;> rw [h] <;> split <;> simp_all

theorem holdQueue_grant {t : Tag} {p : Port} {q : Byte} {n : Nat} :
    (grant t p q l n s).lines.holdQueue = s.lines.holdQueue := rfl

theorem fits_reserved {q : List SegIx} {n : Nat} (hf : fits s q n = true) {g : SegIx} (hg : g ∈ q) :
    (cell s.lines.segments g).reserved + n ≤ (cell s.lines.segments g).capacity := by
  simpa using List.all_eq_true.mp hf g hg

theorem budget_grant {t : Tag} {p : Port} {q : Byte} {n : Nat} (hd : (s.line l).record.segments.Nodup)
    (hf : fits s (s.line l).record.segments n = true) : Budget s (grant t p q l n s) := by
  intro g
  have h : cell (grant t p q l n s).lines.segments g =
      if g ∈ (s.line l).record.segments then reserve n (cell s.lines.segments g) else cell s.lines.segments g :=
    cell_adjustSegments _ hd _ _
  rw [h]
  split
  · exact ⟨rfl, .inr (fits_reserved hf ‹_›)⟩
  · exact ⟨rfl, .inl (le_refl _)⟩

/-- A walk so far: the lines and the queue stand, the entries left are entries of the queue, no budget is passed. -/
structure WalkLaw (s : State) (w : Walk) : Prop where
  same   : SameLines s w.state
  queue  : w.state.lines.holdQueue = s.lines.holdQueue
  left   : ∀ e ∈ w.left, e ∈ s.lines.holdQueue
  budget : Budget s w.state

theorem WalkLaw.keep {w w' : Walk} {e : HoldEntry} (h : WalkLaw s w) (he : e ∈ s.lines.holdQueue)
    (hs : w'.state = w.state) (hl : w'.left = w.left ++ [e]) : WalkLaw s w' := by
  refine ⟨hs ▸ h.same, hs ▸ h.queue, fun x hx => ?_, hs ▸ h.budget⟩
  rw [hl] at hx
  rcases List.mem_append.mp hx with hx | hx
  · exact h.left x hx
  · rw [List.mem_singleton.mp hx]; exact he

theorem walkEntry_law (hs : HoldLaw s) {w : Walk} {e : HoldEntry} (h : WalkLaw s w) (he : e ∈ s.lines.holdQueue) :
    WalkLaw s (walkEntry w e) := by
  unfold walkEntry
  split
  · exact h.keep he rfl rfl
  · split
    · exact h.keep he rfl rfl
    · rename_i t _
      split
      · exact h.keep he rfl rfl
      · split
        · rename_i hf
          have hr : (w.state.line e.line).record = (s.line e.line).record := h.same.record _
          have hd : (w.state.line e.line).record.segments.Nodup := hr ▸ hs.1 _
          have hf' : fits w.state (w.state.line e.line).record.segments e.pitch = true := by
            rw [hr, ← (hs.2 e he).2]; exact hf
          have g : SameLines w.state (grant t e.intake e.seq e.line e.pitch w.state) := sameLines_grant
          refine ⟨h.same.trans ⟨g.record, g.state⟩, h.queue, h.left, h.budget.trans (budget_grant (t := t) (p := e.intake) (q := e.seq) hd hf')⟩
        · exact h.keep he rfl rfl

theorem walkFold_law (hs : HoldLaw s) {q : List HoldEntry} (hq : ∀ e ∈ q, e ∈ s.lines.holdQueue) {w : Walk}
    (h : WalkLaw s w) : WalkLaw s (q.foldl walkEntry w) := by
  induction q generalizing w with
  | nil => exact h
  | cons e es ih =>
    exact ih (fun x hx => hq x (List.mem_cons_of_mem _ hx)) (walkEntry_law hs h (hq e (List.mem_cons_self ..)))

/-- A walk keeps the hold queue's law and every budget (R91, R97). -/
theorem hold_walk (h : HoldLaw s) : HoldLaw (walk s) ∧ Budget s (walk s) := by
  have k := walkFold_law h (q := s.lines.holdQueue) (w := ⟨[], [], false, s⟩) (fun _ x => x)
    ⟨.refl s, rfl, by simp, .refl s⟩
  refine ⟨(holdBut_none _).mp (((holdBut_none s).mpr h).same (t := walk s) ?_ k.left), k.budget⟩
  exact ⟨k.same.record, k.same.state⟩

theorem choosable_usable {o : Option LineIx} {m : Option Material} (h : choosable s o m l = true) :
    o ≠ some l ∧ usable (s.line l) = true := by
  simp only [choosable, Bool.and_eq_true, bne_iff_ne] at h
  exact ⟨h.1.1, h.1.2⟩

theorem selectLine_usable {o : Option LineIx} {k : Bool} {m : Option Material} {x : LineIx}
    (h : selectLine s o l k m = some x) : o ≠ some x ∧ usable (s.line x) = true := by
  unfold selectLine at h
  split at h
  · cases h; exact choosable_usable ‹_›
  · split at h
    · cases h
    · split at h
      · cases h
      · split at h
        · cases h; exact choosable_usable ‹_›
        · cases h

/-- A re-selection so far: the line unit stands as it was, and every entry of the queue rebuilt keeps the law, or stood in
the queue and is not among those re-selected. -/
structure ReselectLaw (s : State) (l : LineIx) (which : HoldEntry → Bool) (w : Reselection) : Prop where
  lines : w.state.lines = s.lines
  queue : ∀ e ∈ w.queue, (usable (s.line e.line) = true ∧ e.line ≠ l ∧ e.segments = (s.line e.line).record.segments) ∨
    (e ∈ s.lines.holdQueue ∧ ¬(e.line = l ∧ which e = true))

theorem reselectStep_law {f : HoldEntry → Bool} {w : Reselection} {e : HoldEntry} (h : ReselectLaw s l f w)
    (he : e ∈ s.lines.holdQueue) : ReselectLaw s l f (reselectStep l f w e) := by
  unfold reselectStep
  split
  · unfold reselectEntry
    split
    · rename_i m hm
      refine ⟨h.lines, fun x hx => ?_⟩
      rcases List.mem_append.mp hx with hx | hx
      · exact h.queue x hx
      · rw [List.mem_singleton.mp hx]
        have u := selectLine_usable hm
        have hl : w.state.line m = s.line m := by simp only [State.line, h.lines]
        exact .inl ⟨hl ▸ u.2, fun e => u.1 (e ▸ rfl), by rw [hl]⟩
    · exact ⟨h.lines, h.queue⟩
  · refine ⟨h.lines, fun x hx => ?_⟩
    rcases List.mem_append.mp hx with hx | hx
    · exact h.queue x hx
    · rw [List.mem_singleton.mp hx]; exact .inr ⟨he, ‹_›⟩

theorem reselectFold_law {f : HoldEntry → Bool} {q : List HoldEntry} (hq : ∀ e ∈ q, e ∈ s.lines.holdQueue)
    {w : Reselection} (h : ReselectLaw s l f w) : ReselectLaw s l f (q.foldl (reselectStep l f) w) := by
  induction q generalizing w with
  | nil => exact h
  | cons e es ih =>
    exact ih (fun x hx => hq x (List.mem_cons_of_mem _ hx)) (reselectStep_law h (hq e (List.mem_cons_self ..)))

/-- What the queue holds after a re-selection: entries moved to another usable line with its segments, and entries that
were not re-selected (R100). -/
theorem reselect_law (f : HoldEntry → Bool) :
    (reselect l f s).lines.lines = s.lines.lines ∧ (reselect l f s).lines.segments = s.lines.segments ∧
    ∀ e ∈ (reselect l f s).lines.holdQueue,
      (usable (s.line e.line) = true ∧ e.line ≠ l ∧ e.segments = (s.line e.line).record.segments) ∨
      (e ∈ s.lines.holdQueue ∧ ¬(e.line = l ∧ f e = true)) := by
  have k := reselectFold_law (l := l) (f := f) (q := s.lines.holdQueue) (w := ⟨[], s⟩) (fun _ x => x) ⟨rfl, by simp⟩
  rw [reselect_eq]
  have a : ∀ (x : State) q, (withQueue x q).lines.lines = x.lines.lines ∧
      (withQueue x q).lines.segments = x.lines.segments := fun _ _ => ⟨rfl, rfl⟩
  exact ⟨(a _ _).1.trans (congrArg LineUnit.lines k.lines), (a _ _).2.trans (congrArg LineUnit.segments k.lines), k.queue⟩

theorem line_of_lines {t : State} (h : t.lines.lines = s.lines.lines) (m : LineIx) : t.line m = s.line m := by
  simp only [State.line, h]

theorem budget_of_segments {t : State} (h : t.lines.segments = s.lines.segments) : Budget s t :=
  fun g => by rw [h]; exact ⟨rfl, .inl (le_refl _)⟩

/-- A re-selection keeps the law, when it takes every entry of a line that is not usable any more. -/
theorem hold_reselect {f : HoldEntry → Bool} (hn : ∀ m, (s.line m).record.segments.Nodup)
    (hq : ∀ e ∈ s.lines.holdQueue, (e.line = l ∧ f e = true) ∨
      (usable (s.line e.line) = true ∧ (d ≠ some e.line → e.segments = (s.line e.line).record.segments))) :
    HoldBut d (reselect l f s) ∧ Budget s (reselect l f s) := by
  obtain ⟨k1, k2, k3⟩ := reselect_law (s := s) (l := l) f
  refine ⟨⟨fun m => line_of_lines k1 m ▸ hn m, fun e he => ?_⟩, budget_of_segments k2⟩
  rw [line_of_lines k1]
  rcases k3 e he with h | h
  · exact ⟨h.1, fun _ => h.2.2⟩
  · rcases hq e h.1 with x | x
    · exact absurd x h.2
    · exact x

/-- A state that differs in messages alone from a line with a new state. -/
theorem lines_after {n : LineState} {m : Instr} {x : Line} :
    ((stateConditions n (s.setLine l x)).post m).lines = (s.setLine l x).lines := by
  cases n <;> rfl

/-- The state of a line derived again keeps the law and every budget; `d` may be the line itself (R85). -/
theorem hold_rederive (hd : d = none ∨ d = some l) (h : HoldBut d s) :
    HoldBut d (rederive l s) ∧ Budget s (rederive l s) := by
  unfold rederive
  simp only
  split
  · exact ⟨h, .refl s⟩
  · generalize hx : ({ s.line l with state := derivedState (s.line l) } : Line) = x
    have hr : x.record = (s.line l).record := by rw [← hx]
    generalize ht : (stateConditions (derivedState (s.line l)) (s.setLine l x)).post
      (.lineStateReport l (derivedState (s.line l))) = t
    have tl : t.lines = (s.setLine l x).lines := ht ▸ lines_after
    have tline : ∀ m, t.line m = if m = l then x else s.line m := by
      intro m
      have : t.line m = (s.setLine l x).line m := by simp only [State.line, tl]
      rw [this]
      by_cases e : m = l
      · subst e; simp
      · simp [e]
    have tq : t.lines.holdQueue = s.lines.holdQueue := by rw [tl]; rfl
    have tb : Budget s t := budget_of_segments (by rw [tl]; rfl)
    have tn : ∀ m, (t.line m).record.segments.Nodup := by
      intro m
      rw [tline]
      split
      · rw [hr]; exact h.1 l
      · exact h.1 m
    have far : ∀ e ∈ s.lines.holdQueue, e.line ≠ l → usable (t.line e.line) = true ∧
        (d ≠ some e.line → e.segments = (t.line e.line).record.segments) := by
      intro e he hl
      rw [tline, if_neg hl]
      exact h.2 e he
    split
    · split
      · rename_i hu
        refine ⟨⟨tn, fun e he => ?_⟩, tb⟩
        rw [tq] at he
        by_cases hl : e.line = l
        · rw [tline, if_pos hl, hr, ← hl]
          exact ⟨hu, (h.2 e he).2⟩
        · exact far e he hl
      · have k := hold_reselect (s := t) (l := l) (d := none) (f := fun _ => true) tn (fun e he => by
          rw [tq] at he
          by_cases hl : e.line = l
          · exact .inl ⟨hl, rfl⟩
          · have g := far e he hl
            refine .inr ⟨g.1, fun _ => g.2 ?_⟩
            rcases hd with hd | hd
            · simp [hd]
            · intro hc; rw [hd] at hc; exact hl (Option.some.inj hc).symm)
        have w := hold_walk ((holdBut_none _).mp k.1)
        refine ⟨⟨w.1.1, fun e he => ⟨(w.1.2 e he).1, fun _ => (w.1.2 e he).2⟩⟩, tb.trans (k.2.trans w.2)⟩
    · rename_i hu
      have none_l : ∀ e ∈ s.lines.holdQueue, e.line ≠ l := by
        intro e he hl
        exact hu (hl ▸ (h.2 e he).1)
      have all : HoldLaw t := by
        refine ⟨tn, fun e he => ?_⟩
        rw [tq] at he
        have g := far e he (none_l e he)
        refine ⟨g.1, g.2 ?_⟩
        rcases hd with hd | hd
        · simp [hd]
        · intro hc; rw [hd] at hc; exact none_l e he (Option.some.inj hc).symm
      split
      · have w := hold_walk all
        refine ⟨⟨w.1.1, fun e he => ⟨(w.1.2 e he).1, fun _ => (w.1.2 e he).2⟩⟩, tb.trans w.2⟩
      · exact ⟨⟨all.1, fun e he => ⟨(all.2 e he).1, fun _ => (all.2 e he).2⟩⟩, tb⟩

theorem hold_setLineSame {x : Line} (hr : x.record = (s.line l).record) (hs : x.state = (s.line l).state)
    (h : HoldBut d s) : HoldBut d (s.setLine l x) ∧ Budget s (s.setLine l x) :=
  ⟨h.same (sameLines_setLine hr hs) (fun _ k => k), budget_of_segments rfl⟩

theorem hold_withCauses {c : Causes} (hd : d = none ∨ d = some l) (h : HoldBut d s) :
    HoldBut d (withCauses l c s) ∧ Budget s (withCauses l c s) := by
  have a := hold_setLineSame (l := l) (x := { s.line l with causes := c }) rfl rfl h
  have b := hold_rederive hd a.1
  exact ⟨b.1, a.2.trans b.2⟩

/-- A record write keeps the law and every budget, when its segments are distinct (R83). -/
theorem hold_applyLine {r : LineRecord} (hr : r.segments.Nodup) (h : HoldLaw s) :
    HoldLaw (applyLine l r s) ∧ Budget s (applyLine l r s) := by
  unfold applyLine
  simp only
  generalize hx : ({ refill (s.line l) r with record := r } : Line) = x
  have hxr : x.record = r := by rw [← hx]
  have hxs : x.state = (s.line l).state := by
    rw [← hx]
    simp only [refill]
    split
    · rfl
    · split <;> rfl
  have a : HoldBut (some l) (s.setLine l x) := by
    refine ⟨fun m => ?_, fun e he => ?_⟩
    · by_cases e : m = l
      · subst e; rw [setLine_line_self, hxr]; exact hr
      · rw [setLine_line_ne _ _ e]; exact h.1 m
    · by_cases hl : e.line = l
      · rw [hl, setLine_line_self, usable_congr hxs, ← hl]
        exact ⟨(h.2 e he).1, fun n => absurd (by rw [hl]) n⟩
      · rw [setLine_line_ne _ _ hl]
        exact ⟨(h.2 e he).1, fun _ => (h.2 e he).2⟩
  have b := hold_withCauses (c := judgedCauses (s.setLine l x) x) (.inr rfl) a
  generalize withCauses l (judgedCauses (s.setLine l x) x) (s.setLine l x) = t at *
  have c : HoldLaw (renewSegments l t) := by
    refine ⟨b.1.1, fun e he => ?_⟩
    obtain ⟨y, hy, rfl⟩ := List.mem_map.mp he
    show usable (t.line _) = true ∧ _ = (t.line _).record.segments
    split
    · rename_i hl
      exact ⟨(b.1.2 y hy).1, by simp [hl]⟩
    · rename_i hl
      exact ⟨(b.1.2 y hy).1, (b.1.2 y hy).2 (fun k => hl (Option.some.inj k).symm)⟩
  have cb : Budget t (renewSegments l t) := budget_of_segments rfl
  generalize renewSegments l t = u at *
  have e := hold_reselect (s := u) (l := l) (d := none)
    (f := fun e => !usable (u.line l) || !accepts (u.line l) e.material) c.1
    (fun e he => .inr ⟨(c.2 e he).1, fun _ => (c.2 e he).2⟩)
  have w := hold_walk ((holdBut_none _).mp e.1)
  exact ⟨w.1, (budget_of_segments rfl : Budget s (s.setLine l x)).trans (b.2.trans (cb.trans (e.2.trans w.2)))⟩

theorem hold_withQueue {q : List HoldEntry} (h : HoldLaw s)
    (hq : ∀ e ∈ q, usable (s.line e.line) = true ∧ e.segments = (s.line e.line).record.segments) :
    HoldLaw (withQueue s q) ∧ Budget s (withQueue s q) := ⟨⟨h.1, hq⟩, budget_of_segments rfl⟩

theorem hold_queueOrDeny {x : CapacityRequest} (hu : usable (s.line l) = true) (h : HoldLaw s) :
    HoldLaw (queueOrDeny x l s).2 ∧ Budget s (queueOrDeny x l s).2 := by
  unfold queueOrDeny
  split
  · refine hold_withQueue h (fun e he => ?_)
    rcases List.mem_append.mp he with he | he
    · exact h.2 e he
    · rw [List.mem_singleton.mp he]; exact ⟨hu, rfl⟩
  · exact ⟨h, .refl s⟩

theorem hold_capacityRequest {x : CapacityRequest} (h : HoldLaw s) :
    HoldLaw (capacityRequest x s).2 ∧ Budget s (capacityRequest x s).2 := by
  unfold capacityRequest
  split
  · exact ⟨h, .refl s⟩
  · rename_i m hm
    have hu := (selectLine_usable hm).2
    split
    · exact hold_queueOrDeny hu h
    · split
      · rename_i hf
        simp only [Bool.and_eq_true] at hf
        exact ⟨(holdBut_none _).mp (((holdBut_none s).mpr h).same (sameLines_grant (l := m)) (fun _ k => k)),
          budget_grant (h.1 m) hf.1⟩
      · exact hold_queueOrDeny hu h

theorem hold_removeEntry {p : Port} (h : HoldLaw s) : HoldLaw (removeEntry p s) ∧ Budget s (removeEntry p s) := by
  have a := hold_withQueue (q := s.lines.holdQueue.eraseP fun e => e.intake == p) h
    (fun e he => h.2 e (List.mem_of_mem_eraseP he))
  have b := hold_walk a.1
  exact ⟨b.1, a.2.trans b.2⟩

theorem hold_release {t : Tag} {g : Gen} {n : Nat} {q : List SegIx} (h : HoldLaw s) :
    HoldLaw (release t g l n q s) ∧ Budget s (release t g l n q s) := by
  unfold release
  simp only
  split
  · exact ⟨h, .refl s⟩
  · generalize hu : ({ s.lines with
      segments := adjustSegments (unreserve n) q s.lines.segments
      tags := put s.lines.tags t ⟨true, (cell s.lines.tags t).gen⟩
      lines := put s.lines.lines l { s.line l with live := (s.line l).live - 1 } } : LineUnit) = u
    have hl : ∀ m, ({ s with lines := u } : State).line m =
        if m = l then { s.line l with live := (s.line l).live - 1 } else s.line m := by
      intro m
      simp [State.line, ← hu, cell_put]
    have a : HoldLaw ({ s with lines := u } : State) := by
      refine (holdBut_none _).mp (((holdBut_none s).mpr h).same ⟨fun m => ?_, fun m => ?_⟩ (fun e he => ?_))
      · rw [hl]; split <;> simp_all
      · rw [hl]; split <;> simp_all
      · rw [← hu] at he; exact he
    have b : Budget s ({ s with lines := u } : State) := by
      intro g
      have := adjust_unreserve n q s.lines.segments g
      rw [← hu]
      exact ⟨this.1, .inl this.2⟩
    have w := hold_walk a
    exact ⟨w.1, b.trans w.2⟩

end Hold

/-! ### Calm line operations -/

section Calm
variable {s0 s : State} {l : LineIx} {p : Port}

theorem calm_lineStep {t : State} (q : Quiet s t) (k : HoldLaw s → HoldLaw t ∧ Budget s t) (h : Calm s0 s) : Calm s0 t :=
  h.trans (q.calm k)

theorem quiet_refl (s : State) : Quiet s s := (Calm.refl s).quiet

theorem calm_walk (h : Calm s0 s) : Calm s0 (walk s) := calm_lineStep (quiet_walk (quiet_refl s)) hold_walk h

theorem calm_capacityRequest {x : CapacityRequest} (h : Calm s0 s) : Calm s0 (capacityRequest x s).2 :=
  calm_lineStep (quiet_capacityRequest (quiet_refl s)) hold_capacityRequest h

theorem calm_removeEntry (h : Calm s0 s) : Calm s0 (removeEntry p s) :=
  calm_lineStep (quiet_walk (quiet_withQueue (quiet_refl s))) hold_removeEntry h

theorem calm_takeRemovals (h : Calm s0 s) : Calm s0 (takeRemovals p s) := by
  unfold takeRemovals
  split
  · refine calm_removeEntry (calm_mailFilter (fun m hm => ?_) h)
    simp only [bne_eq_false_iff_eq] at hm
    rw [hm]; rfl
  · exact h

theorem calm_setLineSame {x : Line} (hr : x.record = (s.line l).record) (hs : x.state = (s.line l).state)
    (h : Calm s0 s) : Calm s0 (s.setLine l x) :=
  calm_lineStep (quiet_setLine (quiet_refl s)) (fun k => by
    have := hold_setLineSame hr hs ((holdBut_none s).mpr k)
    exact ⟨(holdBut_none _).mp this.1, this.2⟩) h

theorem calm_rederive (h : Calm s0 s) : Calm s0 (rederive l s) :=
  calm_lineStep (quiet_rederive (quiet_refl s)) (fun k => by
    have := hold_rederive (l := l) (.inl rfl) ((holdBut_none s).mpr k)
    exact ⟨(holdBut_none _).mp this.1, this.2⟩) h

theorem calm_withCauses {c : Causes} (h : Calm s0 s) : Calm s0 (withCauses l c s) :=
  calm_rederive (calm_setLineSame rfl rfl h)

theorem calm_fillLine {v : Nat} (h : Calm s0 s) : Calm s0 (fillLine v s l) := calm_rederive (calm_setLineSame rfl rfl h)

theorem calm_fill {n : Fin 256} (h : Calm s0 s) : Calm s0 (fill p n s) := calm_foldl calm_fillLine h

theorem calm_portEvent (h : Calm s0 s) : Calm s0 (portEvent p s) := calm_foldl calm_withCauses h

theorem calm_release {t : Tag} {g : Gen} {n : Nat} {q : List SegIx} (h : Calm s0 s) : Calm s0 (release t g l n q s) :=
  calm_lineStep (quiet_release (quiet_refl s)) hold_release h

theorem calm_applyLine {r : LineRecord} (hr : r.segments.Nodup) (h : Calm s0 s) : Calm s0 (applyLine l r s) :=
  calm_lineStep (quiet_applyLine (quiet_refl s)) (hold_applyLine hr) h

end Calm

end Sys2Proof.Machine
end

