-- ==== Sys2Proof/Laws/CalmBlocks.lean ====
section
/-! SUPPORT. What the operations of the voucher, fault, line, transit, tally and admission units leave alone: one lemma for
each, in the order of the blocks (see Laws/Calm.lean). -/

namespace Sys2Proof.Machine

/-! ### Vouchers (chapter 8) -/

section Vouchers
variable {s0 s : State} {p : Port}

theorem unitLaw_sent {u : CounterUnit} {r : VoucherRecord} {rest : List VoucherRecord} (h : UnitLaw u)
    (hq : u.queue = r :: rest) (v : CounterUnit) (hv : v.queue = r.asSent :: rest) : UnitLaw v := by
  obtain ⟨a, b, c⟩ := h
  rw [hq] at a b c
  refine ⟨by rw [hv]; exact a, by rw [hv]; exact b, ?_⟩
  rw [hv]
  intro x hx
  rcases List.mem_cons.mp hx with hx | hx
  · subst hx; exact c r (List.mem_cons_self ..)
  · exact c x (List.mem_cons_of_mem _ hx)

theorem unitLaw_rest {u : CounterUnit} {r : VoucherRecord} {rest : List VoucherRecord} (h : UnitLaw u)
    (hq : u.queue = r :: rest) (v : CounterUnit) (hv : v.queue = rest) : UnitLaw v := by
  obtain ⟨a, b, c⟩ := h
  rw [hq] at a b c
  refine ⟨?_, ?_, ?_⟩ <;> rw [hv]
  · simp at a; omega
  · intro x hx; exact b x (List.mem_of_mem_tail hx)
  · intro x hx; exact c x (List.mem_cons_of_mem _ hx)

theorem unitLaw_same {u : CounterUnit} (h : UnitLaw u) (v : CounterUnit) (hv : v.queue = u.queue) : UnitLaw v := by
  unfold UnitLaw at *
  rw [hv]
  exact h

theorem calm_sameQueue {u v : CounterUnit} (hu : s.unit p = some u) (hv : v.queue = u.queue) (h : Calm s0 s) :
    Calm s0 (s.setUnit p (some v)) :=
  calm_setUnit (fun l w hw => by cases hw; exact unitLaw_same (l p u hu) _ hv) h

theorem calm_sendHead (h : Calm s0 s) : Calm s0 (sendHead p s) := by
  unfold sendHead
  split
  · exact h
  · split
    · split
      · refine calm_setUnit (fun l w hw => ?_) (calm_enqueue ‹_› h)
        cases hw
        exact unitLaw_sent (l p _ (by simpa using ‹s.unit p = some _›)) ‹_› _ rfl
      · exact calm_sameQueue (by assumption) (by rfl) h
      · exact h
    · exact h

theorem calm_unitReady (h : Calm s0 s) : Calm s0 (unitReady p s) := by
  unfold unitReady
  split
  · exact h
  · exact calm_sendHead (calm_sameQueue (by assumption) (by rfl) h)

theorem recordLaw_new (x : VoucherRequest) (rates : Vector Nat 4) (n : Fin 65536) : RecordLaw (newRecord x rates n) := rfl

theorem unitLaw_joined {u : CounterUnit} (h : UnitLaw u) (hl : ¬ Config.voucherPlaces ≤ u.queue.length)
    {r : VoucherRecord} (hr : RecordLaw r) (hs : r.state = .queued) (v : CounterUnit) (hv : v.queue = u.queue ++ [r]) :
    UnitLaw v := by
  obtain ⟨a, b, c⟩ := h
  refine ⟨?_, ?_, ?_⟩ <;> rw [hv]
  · have : u.queue.length < 8 := Nat.lt_of_not_le hl
    simp; omega
  · cases e : u.queue with
    | nil => simp
    | cons y ys =>
      intro x hx
      rw [e] at b
      simp at hx b
      rcases hx with hx | hx
      · exact b x hx
      · subst hx; exact hs
  · intro x hx
    rcases List.mem_append.mp hx with hx | hx
    · exact c x hx
    · rw [List.mem_singleton.mp hx]; exact hr

theorem calm_createVoucher {x : VoucherRequest} (h : Calm s0 s) : Calm s0 (createVoucher x s).2 := by
  unfold createVoucher
  split
  · exact h
  · split
    · exact h
    · rename_i u hu hl
      have hj : Calm s0 (s.setUnit x.counter
          (some { u with queue := u.queue ++ [newRecord x s.catalogue.rates (nextNumber s)] })) :=
        calm_setUnit (fun l w hw => by
          cases hw
          exact unitLaw_joined (l x.counter u hu) hl (recordLaw_new ..) rfl _ rfl) h
      simp only
      split
      · exact calm_sendHead (calm_vouchers rfl hj)
      · exact calm_vouchers rfl hj

theorem calm_voucherReportTo {x : VoucherReport} (h : Calm s0 s) : Calm s0 (voucherReportTo x s p) :=
  calm_vouchers rfl (calm_offerReport h)

theorem calm_reportVoucher {x : VoucherReport} (h : Calm s0 s) : Calm s0 (reportVoucher x s) :=
  calm_foldl calm_voucherReportTo h

theorem calm_restartUnit (h : Calm s0 s) : Calm s0 (restartUnit p s) := by
  unfold restartUnit
  split
  · exact h
  · split
    · exact calm_unitReady h
    · exact calm_unitReady h
    · exact calm_unitReady h
    · exact h
    · exact h

theorem calm_resumeUnit (h : Calm s0 s) : Calm s0 (resumeUnit p s) := by
  unfold resumeUnit
  split
  · exact h
  · split
    · exact calm_unitReady h
    · exact calm_unitReady h
    · exact h
    · exact h
    · exact h

theorem calm_createUnit (h : Calm s0 s) : Calm s0 (createUnit p s) := by
  refine calm_post rfl trivial (calm_setUnit (fun _ w hw => ?_) h)
  cases hw
  exact ⟨by simp, by simp, by simp⟩

theorem calm_removeUnit (h : Calm s0 s) : Calm s0 (removeUnit p s) := by
  unfold removeUnit
  split
  · exact h
  · refine calm_setUnit (fun _ w hw => by cases hw) ?_
    split
    · exact calm_foldl calm_reportVoucher h
    · exact calm_request (calm_foldl calm_reportVoucher h)

theorem calm_voucherDone {n : Fin 65536} {x : VoucherResult} (h : Calm s0 s) : Calm s0 (voucherDone p n x s) := by
  unfold voucherDone
  split
  · exact calm_request h
  · split
    · split
      · rename_i u hu _ _ r rest _ hq _
        unfold voucherDoneTaken
        cases x
        · refine calm_unitReady (calm_post rfl trivial (calm_setUnit (fun l w hw => ?_) h))
          cases hw
          exact unitLaw_rest (l p u hu) hq _ rfl
        · exact calm_reportVoucher (calm_request (calm_sameQueue hu (by rfl) h))
        · refine calm_unitReady (calm_post rfl trivial (calm_request (calm_reportVoucher
            (calm_setUnit (fun l w hw => ?_) h))))
          cases hw
          exact unitLaw_rest (l p u hu) hq _ rfl
      · exact calm_request h
    · exact calm_request h

theorem calm_replyExpiry (h : Calm s0 s) : Calm s0 (replyExpiry p s) := by
  unfold replyExpiry
  split
  · exact h
  · split
    · split
      · exact calm_request (calm_sameQueue (by assumption) (by rfl) h)
      · exact calm_sameQueue (by assumption) (by rfl) h
    · exact h

theorem calm_counterPortReport {b : Bool} (h : Calm s0 s) : Calm s0 (counterPortReport p b s) := by
  unfold counterPortReport
  split
  · exact h
  · split
    · split
      · exact calm_unitReady h
      · exact h
    · exact calm_sameQueue (by assumption) (by rfl) h

end Vouchers

/-! ### Faults (chapter 9) -/

section Faults
variable {s0 s : State} {p : Port}

theorem calm_faultReportTo {e : ErrorRecord} (h : Calm s0 s) : Calm s0 (faultReportTo e s p) :=
  calm_faults (calm_offerReport h)

theorem calm_reportFault {e : ErrorRecord} (h : Calm s0 s) : Calm s0 (reportFault e s) :=
  calm_foldl calm_faultReportTo h

theorem calm_raiseFault {f : FaultRaise} (h : Calm s0 s) : Calm s0 (raiseFault p f s).2 := by
  unfold raiseFault
  split
  · exact h
  · simp only
    split
    · exact calm_reportFault (calm_setFaultContext h)
    · exact calm_setFaultContext h

theorem calm_headFault {n : FaultNo} {c : Byte} (h : Calm s0 s) : Calm s0 (headFault p n c s) := by
  unfold headFault
  split
  · exact h
  · exact calm_post rfl trivial (calm_raiseFault h)

theorem calm_clearFlag (h : Calm s0 s) : Calm s0 (clearFlag p s) := by
  unfold clearFlag
  split
  · exact h
  · exact calm_setFaultContext h

theorem calm_transitFault {k : TransitFaultKind} {t : Tag} {g : Gen} {q : Byte} (h : Calm s0 s) :
    Calm s0 (transitFault k t g p q s) := by
  unfold transitFault
  simp only
  split
  · exact calm_reportFault (calm_request h)
  · exact calm_request h

end Faults

end Sys2Proof.Machine
end

