-- ==== Sys2Proof/Laws/CalmTally.lean ====
section
/-! SUPPORT. What the operations of the tally unit leave alone: one lemma for each (see Laws/Calm.lean). -/

namespace Sys2Proof.Machine

section Tally
variable {s0 s : State} {p : Port}

/-! ### Sums -/

theorem sumSchemes_put (v : Vector Nat 4) (i : SchemeIx) (n : Nat) :
    sumSchemes (put v i (cell v i + n)) = sumSchemes v + n := by
  simp only [sumSchemes, cell_put]
  fin_cases i <;> simp <;> omega

/-- The subtotals gain the sum of the split (R123). -/
theorem sumSchemes_addSplit (l : List (SchemeIx × Nat)) (v : Vector Nat 4) :
    sumSchemes (l.foldl addSplit v) = sumSchemes v + (l.map (·.2)).sum := by
  induction l generalizing v with
  | nil => simp
  | cons x xs ih =>
    show sumSchemes (xs.foldl addSplit (addSplit v x)) = _
    rw [ih, addSplit, sumSchemes_put]
    simp; omega

theorem SessionLaw.same {x y : Session} (h : SessionLaw x) (ht : y.total = x.total) (hs : y.subtotals = x.subtotals)
    (hc : y.carried = x.carried) : SessionLaw y := by
  refine ⟨by rw [ht, hs]; exact h.1, fun g k => h.2 g (by rw [← hc]; exact k)⟩

theorem sessionLaw_new : SessionLaw .new := ⟨by decide, fun _ k => by simp [Session.new] at k⟩

theorem sessionLaw_closed (x : Session) : SessionLaw x.closed :=
  ⟨by simp [Session.closed, sumSchemes, cell], fun _ k => by simp [Session.closed] at k⟩

theorem sessionLaw_addPosting {x : Session} {g : Posting} (h : SessionLaw x) (hg : CreditLaw g.credit) :
    SessionLaw (addPosting x g) := by
  refine ⟨?_, fun k hk => h.2 k hk⟩
  show x.total + g.credit.credit = sumSchemes (g.credit.split.foldl addSplit x.subtotals)
  rw [sumSchemes_addSplit, h.1, show (g.credit.split.map (·.2)).sum = g.credit.credit from hg]

theorem sessionLaw_postInto {x : Session} {g : Posting} (h : SessionLaw x) (hg : CreditLaw g.credit) :
    SessionLaw (postInto s x g) := by
  unfold postInto
  simp only
  split
  · exact (sessionLaw_addPosting h hg).same rfl rfl rfl
  · exact (sessionLaw_addPosting h hg).same rfl rfl rfl
  · exact sessionLaw_addPosting h hg
  · exact sessionLaw_addPosting h hg

/-! ### Operations -/

theorem calm_sameMoney {x y : Session} (hx : s.session p = some x) (ht : y.total = x.total)
    (hs : y.subtotals = x.subtotals) (hc : y.carried = x.carried) (h : Calm s0 s) :
    Calm s0 (s.setSession p (some y)) :=
  calm_setSession (fun _ m z hz => by cases hz; exact (m.1 p x hx).same ht hs hc) h

theorem calm_offerTally (h : Calm s0 s) : Calm s0 (offerTally p s) := by
  unfold offerTally
  split
  · exact h
  · split
    · exact calm_sameMoney (by simpa using ‹s.session p = some _›) (by rfl) (by rfl) (by rfl) (calm_enqueue ‹_› h)
    · exact calm_sameMoney (by assumption) (by rfl) (by rfl) (by rfl) h
    · exact calm_sameMoney (by assumption) (by rfl) (by rfl) (by rfl) h

theorem calm_takePosting {g : Posting} (hg : MoneyLaw s0 → CreditLaw g.credit) (h : Calm s0 s) :
    Calm s0 (takePosting p g s) := by
  unfold takePosting
  split
  · exact h
  · rename_i x hx
    exact calm_offerTally (calm_setSession (fun m0 m y hy => by
      cases hy; exact sessionLaw_postInto (m.1 p x hx) (hg m0)) h)

theorem calm_enterClosingWait (h : Calm s0 s) : Calm s0 (enterClosingWait p s) := by
  unfold enterClosingWait
  split
  · exact h
  · split
    · exact h
    · exact calm_offerTally (calm_withClosingWait (calm_sameMoney (by assumption) (by rfl) (by rfl) (by rfl) h))

theorem calm_finishClose {x : Session} (h : Calm s0 s) : Calm s0 (finishClose p x s) := by
  unfold finishClose
  simp only
  have k : Calm s0 (withClosingWait (s.setSession p (some x.closed)) (s.tally.closingWait.filter (· != p))) :=
    calm_withClosingWait (calm_setSession (fun _ _ y hy => by cases hy; exact sessionLaw_closed x) h)
  have k2 : Calm s0 (if x.ctxWaiting then
      (withClosingWait (s.setSession p (some x.closed)) (s.tally.closingWait.filter (· != p))).post (.closeCompleted p)
      else withClosingWait (s.setSession p (some x.closed)) (s.tally.closingWait.filter (· != p))) := by
    split
    · exact calm_post rfl trivial k
    · exact k
  split
  · exact k2
  · exact calm_offerTally k2

theorem calm_attemptClose (h : Calm s0 s) : Calm s0 (attemptClose p s).2 := by
  unfold attemptClose
  split
  · exact h
  · split
    · exact calm_enterClosingWait h
    · split
      · exact calm_finishClose h
      · split
        · exact calm_enterClosingWait h
        · simp only
          split
          · exact calm_finishClose (calm_createVoucher h)
          · exact calm_enterClosingWait (calm_createVoucher h)

theorem calm_removeClosed (h : Calm s0 s) : Calm s0 (removeClosed p s) := by
  unfold removeClosed
  split
  · exact h
  · exact calm_setSession (fun _ _ y hy => by cases hy) h

theorem carried_law {g : Posting} (hg : carriedOf s p = some g) (m : MoneyLaw s) : CreditLaw g.credit := by
  unfold carriedOf at hg
  split at hg
  · cases hg
  · exact (m.1 p _ ‹_›).2 g hg

theorem calm_closeAttempt (h : Calm s0 s) : Calm s0 (closeAttempt p s).2 := by
  unfold closeAttempt
  simp only
  split
  · split
    · exact calm_removeClosed (calm_attemptClose h)
    · rename_i g hg
      have k := calm_takePosting (p := p) (g := g) (fun m => carried_law hg (h.money m)) (calm_attemptClose (p := p) h)
      split
      · exact k
      · split
        · exact calm_removeClosed (calm_attemptClose k)
        · exact calm_attemptClose k
  · exact calm_attemptClose h

theorem calm_retryClose (h : Calm s0 s) : Calm s0 (retryClose s p) := by
  unfold retryClose
  split
  · exact h
  · split
    · exact calm_closeAttempt h
    · exact h

theorem calm_markWaiting (h : Calm s0 s) : Calm s0 (markWaiting p s) := by
  unfold markWaiting
  split
  · exact h
  · exact calm_sameMoney (by assumption) (by rfl) (by rfl) (by rfl) h

theorem calm_testByClose (h : Calm s0 s) : Calm s0 (testByClose p s).2 := by
  unfold testByClose
  simp only
  split
  · exact calm_closeAttempt h
  · exact calm_markWaiting (calm_closeAttempt h)

theorem calm_sessionTest {c l : Nat} (h : Calm s0 s) : Calm s0 (sessionTest p c l s).2 := by
  unfold sessionTest
  split
  · exact h
  · rename_i x hx
    have k : Calm s0 (s.setSession p (some { x with limit := l })) := calm_sameMoney hx rfl rfl rfl h
    have branch : Calm s0 (if x.total + awaitedCredit x + c ≤ l then
          (TestAnswer.fits, s.setSession p (some { x with limit := l }))
        else if x.awaited.isSome then
          (TestAnswer.waiting, markWaiting p (enterClosingWait p (s.setSession p (some { x with limit := l }))))
        else testByClose p (s.setSession p (some { x with limit := l }))).2 := by
      split
      · exact k
      · split
        · exact calm_markWaiting (calm_enterClosingWait k)
        · exact calm_testByClose k
    simp only
    split
    · exact calm_markWaiting k
    · exact calm_testByClose k
    · exact branch
    · exact branch

theorem calm_dropNote {t : Tag} {q : Byte} {c : Nat} (h : Calm s0 s) : Calm s0 (dropNote p t q c s) := by
  unfold dropNote
  split
  · exact h
  · split <;> exact calm_sameMoney (by assumption) (by rfl) (by rfl) (by rfl) h

theorem calm_takeNote {m : Instr} (h : Calm s0 s) : Calm s0 (takeNote p s m) := by
  unfold takeNote
  split
  · split
    · exact calm_dropNote h
    · exact h
  · exact h

theorem calm_takeNotes (h : Calm s0 s) : Calm s0 (takeNotes p s) :=
  calm_takeWaiting (fun m hm => by
    unfold isNoteOf at hm
    split at hm
    · rfl
    · cases hm) (fun k => calm_takeNote k) h

theorem calm_restartIdle (h : Calm s0 s) : Calm s0 (restartIdle p s) := by
  unfold restartIdle
  split
  · exact h
  · split
    · exact calm_sameMoney (by assumption) (by rfl) (by rfl) (by rfl) h
    · exact h

theorem calm_postWaiting {x : Session} {g : Posting} (hx : s.session p = some x) (hg : MoneyLaw s0 → CreditLaw g.credit)
    (h : Calm s0 s) : Calm s0 (postWaiting p x g s) := by
  unfold postWaiting
  split
  · have k : Calm s0 (s.setSession p (some (addPosting x g))) := calm_setSession (fun m0 m y hy => by
      cases hy; exact sessionLaw_addPosting (m.1 p x hx) (hg m0)) h
    simp only
    split
    · exact calm_closeAttempt k
    · exact calm_offerTally (calm_closeAttempt k)
  · exact calm_setSession (fun m0 m y hy => by
      cases hy
      exact ⟨(m.1 p x hx).1, fun k hk => by cases hk; exact hg m0⟩) h

theorem calm_carry {g : Posting} (hg : MoneyLaw s0 → CreditLaw g.credit) (h : Calm s0 s) : Calm s0 (carry p g s) := by
  unfold carry
  split
  · exact h
  · rename_i x hx
    exact calm_setSession (fun m0 m y hy => by
      cases hy
      exact ⟨(m.1 p x hx).1, fun k hk => by cases hk; exact hg m0⟩) h

theorem calm_postPast {g : Posting} (hg : MoneyLaw s0 → CreditLaw g.credit) (h : Calm s0 s) :
    Calm s0 (postPast p g s) := by
  unfold postPast
  simp only
  split
  · exact calm_takePosting hg (calm_closeAttempt h)
  · exact calm_carry hg (calm_closeAttempt h)

theorem calm_takePostingEvent {g : Posting} (hg : MoneyLaw s0 → CreditLaw g.credit) (h : Calm s0 s) :
    Calm s0 (takePostingEvent g s) := by
  have branch : ∀ x : Session, Calm s0 (if x.limit < x.total + g.credit.credit then postPast g.intake g s
      else takePosting g.intake g s) := by
    intro x
    split
    · exact calm_postPast hg h
    · exact calm_takePosting hg h
  unfold takePostingEvent
  split
  · exact h
  · rename_i x hx
    split
    · exact calm_postWaiting hx hg h
    · exact branch x
    · exact branch x
    · exact branch x

theorem calm_enterClosePending {x : Session} (hx : s.session p = some x) (h : Calm s0 s) :
    Calm s0 (enterClosePending p x s) := calm_offerTally (calm_sameMoney hx rfl rfl rfl h)

theorem calm_applyFinish {x : Session} {c : CtxState} {b : Bool} (hx : s.session p = some x) (h : Calm s0 s) :
    Calm s0 (applyFinish p x c b s) := by
  have ask : Calm s0 (if b then s.post (.returnRequest p) else s) := by
    split
    · exact calm_post rfl trivial h
    · exact h
  unfold applyFinish
  split
  · exact h
  · exact h
  · split
    · exact calm_closeAttempt h
    · exact calm_closeAttempt h
    · exact calm_closeAttempt h
    · exact calm_closeAttempt h
    · exact calm_enterClosePending hx h
    · exact calm_enterClosePending hx h
    · exact ask
    · exact ask
  · split
    · exact ask
    all_goals exact h

theorem calm_returnAnswer {b : Bool} {c : CtxState} (h : Calm s0 s) : Calm s0 (returnAnswer p b c s) := by
  unfold returnAnswer
  split
  · exact h
  · split
    · split
      · exact calm_closeAttempt h
      · exact h
    · exact calm_applyFinish (by assumption) h

theorem calm_idleExpiry (h : Calm s0 s) : Calm s0 (idleExpiry p s) := by
  unfold idleExpiry
  split
  · exact h
  · split
    · split
      · split
        · split
          · exact calm_sameMoney (by assumption) (by rfl) (by rfl) (by rfl) h
          · exact calm_closeAttempt h
        · split
          · exact calm_sameMoney (by assumption) (by rfl) (by rfl) (by rfl) h
          · exact calm_closeAttempt h
        · split
          · exact calm_sameMoney (by assumption) (by rfl) (by rfl) (by rfl) h
          · exact calm_closeAttempt h
        all_goals exact calm_sameMoney (by assumption) (by rfl) (by rfl) (by rfl) h
      all_goals exact calm_sameMoney (by assumption) (by rfl) (by rfl) (by rfl) h
    · exact h

theorem calm_placeFreed (h : Calm s0 s) : Calm s0 (placeFreed p s) := calm_foldl calm_retryClose h

theorem calm_tallyReport {c : CtxState} (h : Calm s0 s) : Calm s0 (tallyReport p c s) := by
  unfold tallyReport
  split
  · exact h
  · simp only
    split
    · exact calm_closeAttempt (calm_sameMoney (by assumption) (by rfl) (by rfl) (by rfl) h)
    · exact calm_sameMoney (by assumption) (by rfl) (by rfl) (by rfl) h

theorem calm_createSession (h : Calm s0 s) : Calm s0 (createSession p s) := by
  unfold createSession
  split
  · exact calm_setSession (fun _ _ y hy => by cases hy; exact sessionLaw_new) h
  · exact calm_sameMoney (by assumption) (by rfl) (by rfl) (by rfl) h

theorem calm_removeSession (h : Calm s0 s) : Calm s0 (removeSession p s) := by
  unfold removeSession
  split
  · exact h
  · split
    · exact calm_setSession (fun _ _ y hy => by cases hy) h
    · exact calm_closeAttempt h
    · exact calm_closeAttempt h
    · exact h

theorem calm_clearOwed (h : Calm s0 s) : Calm s0 (clearOwed p s) := by
  unfold clearOwed
  split
  · exact h
  · exact calm_sameMoney (by assumption) (by rfl) (by rfl) (by rfl) h

end Tally

end Sys2Proof.Machine
end

