-- ==== Sys2Proof/Laws/CalmAdmission.lean ====
section
/-! SUPPORT. What the operations of the admission unit leave alone: one lemma for each (see Laws/Calm.lean). -/

namespace Sys2Proof.Machine

/-- A context whose credit has its split (R63). -/
def CtxLaw (c : Context) : Prop := ∀ k, c.credit = some k → CreditLaw k

section Admission
variable {s0 s : State} {p : Port}

theorem ctxLaw_of {c : Context} (hc : s.context p = some c) (m : MoneyLaw s) : CtxLaw c := fun k hk => m.2.1 p c k hc hk

theorem ctxLaw_blank (x : CtxState) : CtxLaw (.blank x) := fun _ k => by simp [Context.blank] at k

theorem creditLaw_zero : CreditLaw ⟨0, [], []⟩ := rfl

theorem CtxLaw.getD {c : Context} (h : CtxLaw c) : CreditLaw (c.credit.getD ⟨0, [], []⟩) := by
  cases e : c.credit with
  | none => exact creditLaw_zero
  | some k => exact h k e

theorem creditLaw_creditOf (a : ArticleCopy) (n : Nat) : CreditLaw (creditOf a n) := by
  unfold CreditLaw creditOf
  split
  · simp only
    split <;> simp
  · simp

theorem calm_setCtx {x : Context} (hx : MoneyLaw s0 → CtxLaw x) (h : Calm s0 s) : Calm s0 (s.setContext p (some x)) :=
  calm_setContext (fun m0 _ c k hc hk => by cases hc; exact hx m0 k hk) h

theorem calm_moveContext {c : Context} (hc : MoneyLaw s0 → CtxLaw c) (h : Calm s0 s) : Calm s0 (moveContext p c s) := by
  unfold moveContext
  split
  · exact h
  · rename_i old _
    have k : Calm s0 (s.setContext p (some { c with outbound := keptOutbound old.state c.state old.outbound })) :=
      calm_setCtx (fun m0 => hc m0) h
    simp only
    split
    · exact k
    · exact calm_post rfl trivial k

theorem calm_editContext {f : Context → Context} (hf : ∀ c, CtxLaw c → CtxLaw (f c)) (h : Calm s0 s) :
    Calm s0 (editContext p f s) := by
  unfold editContext
  split
  · exact h
  · exact calm_setCtx (fun m0 => hf _ (ctxLaw_of (by assumption) (h.money m0))) h

theorem calm_offerIntake {f : IntakeFrame} (h : Calm s0 s) : Calm s0 (offerIntake p f s) := by
  unfold offerIntake
  split
  · exact h
  · rename_i c hc
    have law : MoneyLaw s0 → CtxLaw c := fun m0 => ctxLaw_of hc (h.money m0)
    split
    · split
      · exact calm_enqueue ‹_› h
      · exact calm_setCtx (fun m0 => law m0) h
      · exact h
    · exact calm_setCtx (fun m0 => law m0) h

theorem calm_offerOutbound (h : Calm s0 s) : Calm s0 (offerOutbound p s) := by
  unfold offerOutbound
  split
  · exact h
  · rename_i c hc
    have law : MoneyLaw s0 → CtxLaw c := fun m0 => ctxLaw_of hc (h.money m0)
    exact calm_setCtx (fun m0 => law m0) (calm_offerList h)

theorem calm_offerStop {r : Option StopReason} (h : Calm s0 s) : Calm s0 (offerStop p r s) := by
  unfold offerStop
  split
  · exact h
  · exact calm_offerIntake h

theorem calm_cancelHeld {c : Context} (h : Calm s0 s) : Calm s0 (cancelHeld p c s) := by
  unfold cancelHeld
  split
  · exact calm_post rfl trivial h
  · split
    · exact h
    · exact calm_post rfl trivial h
  · split
    · exact h
    · exact calm_post rfl trivial h
  all_goals exact h

theorem calm_returnContainer {r : ReturnReason} (h : Calm s0 s) : Calm s0 (returnContainer p r s) := by
  unfold returnContainer
  split
  · exact h
  · rename_i c _
    have k : Calm s0 (moveContext p { Context.blank .returning with
        seq := c.seq, handoverTimer := startTimer s.mgmt.timers.handover } s) :=
      calm_moveContext (fun _ => ctxLaw_blank .returning) h
    simp only
    split
    · exact k
    · exact calm_offerIntake k

theorem calm_lockContext {n : FaultNo} (h : Calm s0 s) : Calm s0 (lockContext p n s) := by
  unfold lockContext
  split
  · exact h
  · exact calm_offerIntake (calm_moveContext (fun _ => ctxLaw_blank .locked) h)

theorem calm_stopContext {r : StopReason} (h : Calm s0 s) : Calm s0 (stopContext p r s) :=
  calm_moveContext (fun _ => ctxLaw_blank .stopped) h

theorem calm_clearContext (h : Calm s0 s) : Calm s0 (clearContext p s) := calm_moveContext (fun _ => ctxLaw_blank .idle) h

theorem calm_raiseFrom {n : FaultNo} {t : ErrorTable} {i : Nat} {g : Option TagGen} {b : Option HopSet} {q : Option Byte}
    (h : Calm s0 s) : Calm s0 (raiseFrom p n t i g b q s).2 := by
  unfold raiseFrom
  split
  · exact h
  · exact calm_raiseFault h

theorem calm_enterGating {c : Context} {l : LineIx} {n : Nat} {t : TagGen} (hc : MoneyLaw s0 → CtxLaw c) (h : Calm s0 s) :
    Calm s0 (enterGating p c l n t s) :=
  calm_moveContext (fun m0 => hc m0) (calm_postMessage rfl (fun m0 => (hc m0).getD) h)

theorem calm_enterHolding {c : Context} {l : LineIx} {n : Nat} {q : Byte} (hc : MoneyLaw s0 → CtxLaw c) (h : Calm s0 s) :
    Calm s0 (enterHolding p c l n q s) := calm_offerIntake (calm_moveContext (fun m0 => hc m0) h)

/-- A taker of outcomes that leaves alone what Calm says. -/
def CalmTaker (take : OutcomeTaker) : Prop := ∀ {s0 s : State} {p n o}, Calm s0 s → Calm s0 (take p n o s)

theorem calm_checkCapacity {take : OutcomeTaker} (ht : CalmTaker take) (h : Calm s0 s) :
    Calm s0 (checkCapacity take p s) := by
  unfold checkCapacity
  split
  · exact h
  · rename_i c hc
    have law : MoneyLaw s0 → CtxLaw c := fun m0 => ctxLaw_of hc (h.money m0)
    split
    · exact h
    · rename_i x _
      have k := calm_capacityRequest (x := capacityOf p c x (takeRemovals p s)) (calm_takeRemovals (p := p) h)
      simp only
      split
      · exact calm_enterGating law k
      · exact calm_enterHolding law k
      · exact ht (calm_raiseFrom k)
      · split
        · exact calm_returnContainer k
        · exact ht (calm_raiseFrom k)

theorem calm_pauseForCounter (h : Calm s0 s) : Calm s0 (pauseForCounter p s) := by
  unfold pauseForCounter
  split
  · exact h
  · rename_i c hc
    have law : MoneyLaw s0 → CtxLaw c := fun m0 => ctxLaw_of hc (h.money m0)
    have k : Calm s0 (moveContext p
        { c with state := .paused, pause := some .counterBusy, line := none, pitch := none, tag := none,
                 holdTimer := stopTimer } s) := calm_moveContext (fun m0 => law m0) h
    simp only
    split
    · exact k
    · exact calm_offerIntake k

theorem calm_checkSession {take : OutcomeTaker} {c l : Nat} (ht : CalmTaker take) (h : Calm s0 s) :
    Calm s0 (checkSession take p c l s) := by
  have k := calm_sessionTest (p := p) (c := c) (l := l) (calm_takeNotes (p := p) h)
  unfold checkSession
  simp only
  split
  · exact calm_checkCapacity ht k
  · exact calm_checkCapacity ht k
  · exact calm_pauseForCounter k

theorem calm_takeKept : CalmTaker takeKept := by
  intro s0 s p n o h
  cases o
  · exact h
  · exact calm_returnContainer h
  · exact calm_returnContainer h
  · exact calm_lockContext h
  · exact calm_stopContext h

theorem calm_routeKeep {l : LineIx} {n : FaultNo} (h : Calm s0 s) : Calm s0 (routeKeep p l n s) :=
  calm_checkSession calm_takeKept (calm_editContext (fun _ _ k hk => by cases hk; exact creditLaw_zero) h)

theorem calm_takeChamber : CalmTaker takeChamber := by
  intro s0 s p n o h
  unfold takeChamber
  split
  · split
    · exact h
    · split
      · exact calm_takeKept h
      · exact calm_routeKeep h
  · exact h
  all_goals exact calm_takeKept h

theorem calm_reject {n : FaultNo} {t : ErrorTable} {i : Nat} (h : Calm s0 s) : Calm s0 (reject p n t i s) :=
  calm_takeChamber (calm_raiseFrom h)

theorem calm_noteThen {n : FaultNo} {i : Nat} {next : State → State} (hn : ∀ {s0 s}, Calm s0 s → Calm s0 (next s))
    (h : Calm s0 s) : Calm s0 (noteThen p n i next s) := by
  unfold noteThen
  simp only
  split
  · exact calm_takeChamber (calm_raiseFrom h)
  · exact calm_takeChamber (calm_raiseFrom h)
  all_goals exact hn (calm_raiseFrom h)

theorem calm_checkCredit {a : ArticleCopy} {n : Nat} (h : Calm s0 s) : Calm s0 (checkCredit p a n s) := by
  unfold checkCredit
  simp only
  split
  · exact calm_reject h
  · exact calm_checkSession calm_takeChamber
      (calm_editContext (fun _ _ k hk => by cases hk; exact creditLaw_creditOf a n) h)

theorem calm_checkWeight {x : Sighting} {t : Int} {a : ArticleCopy} {n : Nat} (h : Calm s0 s) :
    Calm s0 (checkWeight p x t a n s) := by
  unfold checkWeight
  split
  · exact calm_reject h
  · exact calm_reject h
  · exact calm_noteThen (fun k => calm_checkCredit k) h
  · exact calm_checkCredit h

theorem calm_checkCount {x : Sighting} {t : Int} {a : ArticleCopy} (h : Calm s0 s) : Calm s0 (checkCount p x t a s) := by
  have k : Calm s0 (editContext p (fun c => { c with clampedCount := clampedCountOf x a.entry }) s) :=
    calm_editContext (fun _ l => l) h
  unfold checkCount
  simp only
  split
  · exact calm_noteThen (fun j => calm_checkWeight j) k
  · exact calm_checkWeight k

theorem calm_checkLookup {x : Sighting} {t : Int} (h : Calm s0 s) : Calm s0 (checkLookup p x t s) := by
  unfold checkLookup
  split
  · exact calm_reject h
  · rename_i a _
    have k : Calm s0 (editContext p (fun c => { c with article := some a }) s) := calm_editContext (fun _ l => l) h
    simp only
    split
    · exact calm_reject k
    · exact calm_checkCount k

theorem calm_runChecks (h : Calm s0 s) : Calm s0 (runChecks p s) := by
  unfold runChecks
  split
  · exact h
  · split
    · exact h
    · split
      · exact calm_reject h
      · exact calm_checkLookup h

theorem calm_unreserve {c : Context} (h : Calm s0 s) : Calm s0 (unreserve' p c s) :=
  calm_editContext (fun _ l => l) (calm_cancelHeld h)

theorem calm_shutdownStopped {c : Context} (h : Calm s0 s) : Calm s0 (shutdownStopped p c s) := by
  refine calm_stopContext ?_
  split
  · exact h
  · exact calm_post rfl trivial h

theorem calm_applyOutcome {n : FaultNo} {o : FaultResult} (h : Calm s0 s) : Calm s0 (applyOutcome p n o s) := by
  unfold applyOutcome
  split
  · exact h
  · split
    case h_1 | h_2 | h_3 =>
      cases o
      · exact h
      all_goals exact calm_takeChamber (calm_unreserve h)
    case h_4 | h_5 =>
      cases o
      · exact h
      · exact h
      · exact h
      · exact calm_lockContext (calm_cancelHeld h)
      · exact calm_stopContext (calm_cancelHeld h)
    · cases o
      · exact h
      · exact h
      · exact h
      · exact calm_lockContext h
      · exact calm_stopContext h
    · cases o
      · exact h
      · exact h
      · exact h
      · exact h
      · exact calm_stopContext h
    · cases o
      · exact h
      · exact h
      · exact h
      · exact h
      · exact calm_shutdownStopped h

theorem calm_sightingIdle {x : Sighting} (h : Calm s0 s) : Calm s0 (sightingIdle p x s) := by
  have k : Calm s0 (editContext p (fun c => { c with
    seq := some x.seq, sighting := some x, tareCopy := some (s.port p).entry.tare,
    holdCopy := some (s.port p).entry.holdLimit }) s) := calm_editContext (fun _ l => l) h
  unfold sightingIdle
  simp only
  split
  · split
    · exact k
    · rename_i c hc
      have law : MoneyLaw s0 → CtxLaw c := fun m0 => ctxLaw_of hc (k.money m0)
      exact calm_offerIntake (calm_moveContext (fun m0 => law m0) k)
  · exact calm_runChecks k

theorem calm_sightingBy {x : Sighting} (h : Calm s0 s) : Calm s0 (sightingBy p x s) := by
  have busy : ∀ c : Context, Calm s0 (if c.seq = some x.seq then s
      else applyOutcome p 15 (raiseFrom p 15 .none 0 none none c.seq s).1 (raiseFrom p 15 .none 0 none none c.seq s).2) := by
    intro c
    split
    · exact h
    · exact calm_applyOutcome (calm_raiseFrom h)
  unfold sightingBy
  split
  · exact h
  · rename_i c _
    split
    · exact calm_offerIntake h
    · exact calm_offerIntake h
    · exact calm_sightingIdle h
    all_goals exact busy c

theorem calm_sighting {x : Sighting} (h : Calm s0 s) : Calm s0 (sighting p x s) := by
  unfold sighting
  split
  · exact h
  · exact calm_sightingBy (calm_restartIdle h)

theorem calm_withdrawn {q : Byte} (h : Calm s0 s) : Calm s0 (withdrawn p q s) := by
  have k : ∀ c : Context, Calm s0 (if c.seq = some q then clearContext p (cancelHeld p c s) else s) := by
    intro c
    split
    · exact calm_clearContext (calm_cancelHeld h)
    · exact h
  unfold withdrawn
  split
  · exact h
  · rename_i c _
    split
    · exact k c
    · exact k c
    · exact k c
    · exact k c
    all_goals exact h

theorem calm_returned {q : Byte} (h : Calm s0 s) : Calm s0 (returned p q s) := by
  unfold returned
  split
  · exact h
  · split
    · exact calm_clearContext h
    · exact h

theorem calm_holdExpiry (h : Calm s0 s) : Calm s0 (holdExpiry p s) := by
  unfold holdExpiry
  split
  · exact h
  · split
    · exact calm_takeChamber (calm_raiseFrom (calm_unreserve h))
    · exact h

theorem calm_askFree {c : Context} (h : Calm s0 s) : Calm s0 (askFree c s) := by
  unfold askFree
  split
  · exact h
  · exact calm_post rfl trivial h

theorem calm_handoverExpiry (h : Calm s0 s) : Calm s0 (handoverExpiry p s) := by
  have stop : Calm s0 (editContext p (fun d => { d with handoverTimer := stopTimer }) s) :=
    calm_editContext (fun _ l => l) h
  unfold handoverExpiry
  split
  · exact h
  · split
    · split
      · exact calm_applyOutcome (calm_raiseFrom (calm_editContext (fun _ l => l) (calm_askFree h)))
      · exact calm_applyOutcome (calm_raiseFrom stop)
      · exact calm_editContext (fun _ _ k hk => by cases hk) (calm_askFree h)
      all_goals exact stop
    · exact h

theorem calm_grantNotice {q : Byte} {t : Tag} {g : Gen} {l : LineIx} {n : Nat} (h : Calm s0 s) :
    Calm s0 (grantNotice p q t g l n s) := by
  unfold grantNotice
  split
  · exact calm_post rfl trivial h
  · split
    · rename_i c hc _
      have law : MoneyLaw s0 → CtxLaw c := fun m0 => ctxLaw_of hc (h.money m0)
      exact calm_enterGating law h
    · exact calm_post rfl trivial h

theorem calm_reselectionNotice {q : Byte} {l : Option LineIx} {t : LineIx} (h : Calm s0 s) :
    Calm s0 (reselectionNotice p q l t s) := by
  unfold reselectionNotice
  split
  · exact h
  · rename_i c hc
    split
    · split
      · have law : MoneyLaw s0 → CtxLaw c := fun m0 => ctxLaw_of hc (h.money m0)
        exact calm_setCtx (fun m0 => law m0) h
      · have k : Calm s0 (editContext p (fun d => { d with line := none, pitch := none, holdTimer := stopTimer }) s) :=
          calm_editContext (fun _ l => l) h
        simp only
        split
        · exact calm_returnContainer k
        · exact calm_takeChamber (calm_raiseFrom k)
    · exact h

theorem calm_gatesSet {t : Tag} {g : Gen} (h : Calm s0 s) : Calm s0 (gatesSet p t g s) := by
  unfold gatesSet
  split
  · exact h
  · split
    · rename_i c hc _
      have law : MoneyLaw s0 → CtxLaw c := fun m0 => ctxLaw_of hc (h.money m0)
      exact calm_moveContext (fun m0 => law m0) h
    · exact h

theorem calm_gateFault {k : GateFaultKind} {t : Tag} {g : Gen} {b : HopSet} (h : Calm s0 s) :
    Calm s0 (gateFault p k t g b s) := by
  unfold gateFault
  simp only
  split
  · exact h
  · split
    · exact calm_takeChamber (calm_raiseFrom (calm_editContext (fun _ l => l) h))
    · exact calm_applyOutcome (calm_raiseFrom h)

theorem calm_sendDropNote {c : Context} {t : Tag} (h : Calm s0 s) : Calm s0 (sendDropNote p c t s) := by
  unfold sendDropNote
  split
  · exact h
  · exact calm_post rfl trivial h

theorem calm_dropReport {t : Tag} {g : Gen} (h : Calm s0 s) : Calm s0 (dropReport p t g s) := by
  unfold dropReport
  split
  · exact h
  · split
    · split
      · exact calm_clearContext (calm_sendDropNote h)
      · exact calm_editContext (fun _ _ k hk => by cases hk) (calm_sendDropNote h)
      all_goals exact h
    · exact h

theorem calm_returnRequest (h : Calm s0 s) : Calm s0 (returnRequest p s) := by
  unfold returnRequest
  split
  · exact h
  · split
    · exact calm_post rfl trivial (calm_returnContainer (calm_unreserve h))
    · exact calm_post rfl trivial h

theorem calm_closeCompleted (h : Calm s0 s) : Calm s0 (closeCompleted p s) := by
  unfold closeCompleted
  split
  · exact h
  · split
    · split
      · exact calm_checkCapacity calm_takeKept h
      · exact calm_checkCapacity calm_takeChamber h
    · exact h

theorem calm_resumeFromRoomStop (h : Calm s0 s) : Calm s0 (resumeFromRoomStop s p) := by
  unfold resumeFromRoomStop
  split
  · exact h
  · split
    · exact calm_runChecks h
    · exact h

theorem calm_roomStopReport {b : Bool} (h : Calm s0 s) : Calm s0 (roomStopReport b s) := by
  unfold roomStopReport
  simp only
  split
  · exact calm_roomStop h
  · exact calm_foldl calm_resumeFromRoomStop (calm_roomStop h)

theorem calm_tellHead {c : Context} (h : Calm s0 s) : Calm s0 (tellHead p c s) := by
  unfold tellHead
  split
  · exact calm_offerStop h
  · exact calm_offerIntake h
  · exact calm_offerIntake h
  all_goals exact h

theorem calm_intakeArrival {b : Bool} (h : Calm s0 s) : Calm s0 (intakeArrival p b s) := by
  unfold intakeArrival
  split
  · exact h
  · split
    · exact calm_applyOutcome (calm_raiseFrom h)
    · exact calm_tellHead h

theorem calm_intakeDeparture (h : Calm s0 s) : Calm s0 (intakeDeparture p s) := by
  have k : Calm s0 (editContext p (fun d => { d with outbound := [] }) s) := calm_editContext (fun _ l => l) h
  unfold intakeDeparture
  simp only
  split
  · exact k
  · rename_i c hc
    have law : MoneyLaw s0 → CtxLaw c := fun m0 => ctxLaw_of hc (k.money m0)
    split
    · exact k
    · exact calm_stopContext k
    · exact calm_moveContext (fun m0 => law m0) (calm_raiseFrom k)
    · exact calm_stopContext (calm_raiseFrom (calm_cancelHeld k))
    · exact calm_stopContext (calm_raiseFrom (calm_cancelHeld k))
    · exact calm_stopContext (calm_raiseFrom (calm_cancelHeld k))
    · exact calm_stopContext (calm_raiseFrom k)
    · exact calm_stopContext (calm_raiseFrom k)

theorem calm_resumeContext {c : Context} (h : Calm s0 s) : Calm s0 (resumeContext p c s).state := by
  unfold resumeContext
  split
  · split
    · exact h
    · split
      · exact h
      · exact calm_offerIntake (calm_clearContext h)
  · split
    · exact calm_offerIntake (calm_clearContext h)
    · exact calm_returnContainer (calm_offerIntake h)
  all_goals exact h

theorem calm_stopControl {c : Context} (h : Calm s0 s) : Calm s0 (stopControl p c s).state := by
  unfold stopControl
  split
  · exact calm_offerStop h
  all_goals exact calm_offerStop (p := p) (r := some .mgmt) (calm_stopContext (calm_cancelHeld h))

theorem calm_intakeControl {n : Nat} {act : Port → Context → State → Answer}
    (ha : ∀ p c, Calm s0 (act p c s).state) (h : Calm s0 s) : Calm s0 (intakeControl n act s).state := by
  unfold intakeControl
  split
  · exact h
  · split
    · exact h
    · split
      · exact ha _ _
      · exact h

theorem calm_createContext (h : Calm s0 s) : Calm s0 (createContext p s) :=
  calm_setCtx (fun _ => ctxLaw_blank .stopped) h

theorem calm_takeLinkReports (h : Calm s0 s) : Calm s0 (takeLinkReports p s) :=
  calm_takeWaiting (fun m hm => by
    unfold isLinkReport at hm
    split at hm
    · rfl
    · rfl
    · cases hm) (fun {s m} k => by
    unfold takeLinkReport
    split
    · split
      · exact calm_intakeArrival k
      · exact k
    · split
      · exact calm_intakeDeparture k
      · exact k
    · exact k) h

theorem calm_removeContext (h : Calm s0 s) : Calm s0 (removeContext p s) := by
  unfold removeContext
  split
  · exact h
  · exact calm_setContext (fun _ _ c _ hc => by cases hc) (calm_askFree h)

theorem calm_resetContext (h : Calm s0 s) : Calm s0 (resetContext s p) := by
  unfold resetContext
  split
  · exact h
  · exact calm_offerIntake (calm_editContext (fun _ l => l) (calm_moveContext (fun _ => ctxLaw_blank .stopped) h))

end Admission

end Sys2Proof.Machine
end

