-- ==== Sys2Proof/Laws/CalmTransit.lean ====
section
/-! SUPPORT. What the operations of the transit table and of the tally unit leave alone: one lemma for each (see
Laws/Calm.lean). -/

namespace Sys2Proof.Machine

/-! ### The transit table (chapter 6) -/

section Transit
variable {s0 s : State} {p : Port} {t : Tag} {e : Entry} {u : EntryUse}

theorem entryLaw_free (g : Gen) : EntryLaw (Entry.free g) := by
  simp [EntryLaw, Entry.free]

/-- The ack set, the refusal set and the route of a use carry the law of its entry over to another entry. -/
theorem EntryLaw.same {d : Entry} (h : EntryLaw e) (hf : d.state = .free ↔ e.state = .free) (hu : d.use = e.use)
    (hr : d.state = .releaseSent ∨ d.state = .moving ∨ d.heldRelease = true →
      e.state = .releaseSent ∨ e.state = .moving ∨ e.heldRelease = true) : EntryLaw d := by
  refine ⟨by rw [hf, hu]; exact h.1, fun u k => ?_⟩
  rw [hu] at k
  exact ⟨(h.2 u k).1, (h.2 u k).2.1, fun x => (h.2 u k).2.2 (hr x)⟩

theorem calm_sendClear {c : ClearFrame} (h : Calm s0 s) : Calm s0 (sendClear p c s) := by
  unfold sendClear
  simp only
  split
  · split
    · exact calm_enqueue ‹_› h
    · exact calm_setBacklog h
    · exact h
  · split <;> exact calm_setBacklog h

theorem calm_clearGates {g : Gen} {r : List Hop} (h : Calm s0 s) : Calm s0 (clearGates t g r s) :=
  calm_foldl calm_sendClear h

theorem calm_freeEntry {g : Gen} (h : Calm s0 s) : Calm s0 (freeEntry t g u s) :=
  calm_post rfl trivial (calm_setEntry (fun _ => entryLaw_free g) (fun _ r k => by simp [Entry.free] at k) h)

theorem calm_cancelEntry {g : Gen} (h : Calm s0 s) : Calm s0 (cancelEntry t g u s) := calm_freeEntry (calm_clearGates h)

theorem calm_cancelWithFault {g : Gen} {k : GateFaultKind} {b : HopSet} (h : Calm s0 s) :
    Calm s0 (cancelWithFault t g u k b s) := calm_post rfl trivial (calm_cancelEntry h)

theorem calm_loseEntry {g : Gen} {k : TransitFaultKind} (h : Calm s0 s) : Calm s0 (loseEntry t g u k s) :=
  calm_post rfl trivial (calm_freeEntry h)

theorem calm_offerGates {g : Gen} : ∀ {i : Nat} {r : List Hop} {s : State}, Calm s0 s → Calm s0 (offerGates t g i r s).2
  | _, [], _, h => h
  | i, x :: xs, s, h => by
    unfold offerGates
    split
    · split
      · exact calm_offerGates (calm_enqueue ‹_› h)
      · exact h
      · exact h
    · exact h

/-- The transit entries stand as they were after the GATE_SET frames are offered (R104). -/
theorem offerGates_transit {g : Gen} : ∀ {i : Nat} {r : List Hop} {s : State},
    (offerGates t g i r s).2.transit = s.transit
  | _, [], _ => rfl
  | i, x :: xs, s => by
    unfold offerGates
    split
    · split
      · exact offerGates_transit
      · rfl
      · rfl
    · rfl

theorem calm_takeClaim {c : Claim} (h : Calm s0 s) : Calm s0 (takeClaim c s) := by
  refine calm_setEntry (fun _ => ?_) (fun _ r k => by simp at k) h
  refine ⟨by simp, fun u hu => ?_⟩
  simp only [Option.some.injEq] at hu
  subst hu
  simp

theorem calm_takeRecord {g : Gen} {r : ContainerRecord} (hr : MoneyLaw s0 → CreditLaw r.cargo.credit) (h : Calm s0 s) :
    Calm s0 (takeRecord t g r s) := by
  unfold takeRecord
  simp only
  split
  · exact h
  · rename_i u hu
    split
    · have ho : ∀ v, (offerGates t g 0 u.route s).2.entry v = s.entry v := fun v => by
        simp only [State.entry, offerGates_transit]
      split
      · have k := calm_offerGates (t := t) (g := g) (i := 0) (r := u.route) h
        refine ⟨k.catalogue, k.pending, k.store, k.account, k.tx, k.posts, k.vouchers, fun v w => ?_, fun m => ?_, k.hold⟩
        · by_cases hw : w = t
          · subst hw
            rw [setEntry_entry_self]
            exact EntryLaw.same (e := s.entry w) (h.transit v w) Iff.rfl rfl id
          · rw [setEntry_entry_ne _ _ hw]; exact k.transit v w
        · have m1 := k.money m
          refine ⟨m1.1, m1.2.1, fun w y hy => ?_, m1.2.2.2⟩
          by_cases hw : w = t
          · subst hw
            rw [setEntry_entry_self] at hy
            simp only [Option.some.injEq] at hy
            subst hy
            exact hr m
          · rw [setEntry_entry_ne _ _ hw] at hy; exact m1.2.2.1 w y hy
      · exact calm_cancelWithFault (calm_offerGates h)
    · exact h

/-- A RELEASE offered: the entry's ack set is complete, and it holds the record the table holds (R107). -/
theorem calm_offerRelease (he : TransitLaw s → EntryLaw e) (hu : e.use = some u)
    (ha : TransitLaw s → u.ack = allHops u.route.length) (hr : e.record = (s.entry t).record) (h : Calm s0 s) :
    Calm s0 (offerRelease t e u s) := by
  have law : ∀ {d : Entry}, TransitLaw s → (d.state = .free ↔ False) → d.use = e.use → EntryLaw d := by
    intro d l hd hk
    refine ⟨⟨fun x => (hd.mp x).elim, fun x => ?_⟩, fun v hv => ?_⟩
    · rw [hk, hu] at x; cases x
    · rw [hk, hu] at hv
      cases hv
      exact ⟨((he l).2 u hu).1, ((he l).2 u hu).2.1, fun _ => ha l⟩
  have hf : TransitLaw s → (e.state = .free ↔ False) := fun l => by rw [(he l).1, hu]; simp
  have money : MoneyLaw s → ∀ r, e.record = some r → CreditLaw r.credit := fun m r k => m.2.2.1 t r (hr ▸ k)
  unfold offerRelease
  split
  · refine calm_post rfl trivial (calm_setEntry (s := enqueue s u.intake (.release t e.gen u.seq))
      (fun l => law l (by simp) rfl) (fun m => money m) ?_)
    exact calm_enqueue ‹_› h
  · exact calm_setEntry (fun l => law l (hf l) rfl) money h
  · exact calm_setEntry (fun l => law l (hf l) rfl) money h

theorem allHops_bit (n i : Nat) : (allHops n).getLsbD i = (decide (i < 6) && decide (i < n)) := by
  simp [allHops, BitVec.getLsbD_ofNat, Nat.testBit_two_pow_sub_one]

theorem addBit_within {n : Nat} (a : HopSet) {h : HopIx} (ha : a &&& ~~~(allHops n) = 0) (hn : h.val < n) :
    addBit a h.val &&& ~~~(allHops n) = 0 := by
  apply BitVec.eq_of_getLsbD_eq
  intro i hi
  have k := congrArg (fun b => b.getLsbD i) ha
  simp only [BitVec.getLsbD_and, BitVec.getLsbD_not, allHops_bit] at k
  simp only [addBit, BitVec.getLsbD_and, BitVec.getLsbD_or, BitVec.getLsbD_not, allHops_bit, BitVec.getLsbD_shiftLeft]
  by_cases hin : i < n
  · simp [hin]
  · rcases Nat.lt_or_gt_of_ne (show i ≠ h.val by omega) with c | c
    · simp_all
    · have : ¬ i < h.val := by omega
      simp_all
      omega

theorem ackNamesHop_lt {hop : HopIx} (h : ackNamesHop u p hop = true) : hop.val < u.route.length := by
  unfold ackNamesHop at h
  split at h
  · cases h
  · rename_i x hx
    exact (List.getElem?_eq_some_iff.mp hx).1

theorem setting_state (h : e.setting = true) : e.state = .gating := by
  simp only [Entry.setting, Bool.and_eq_true, beq_iff_eq] at h
  exact h.1

theorem calm_takeAck {hop : HopIx} {r : GateResult} (he : s.entry t = e) (hu : e.use = some u) (hs : e.setting = true)
    (hn : ackNamesHop u p hop = true) (h : Calm s0 s) : Calm s0 (takeAck t e u hop r s) := by
  have hst := setting_state hs
  unfold takeAck
  split
  · split
    · exact h
    · simp only
      have law : TransitLaw s → addBit u.ack hop.val &&& ~~~(allHops u.route.length) = 0 := fun l =>
        addBit_within u.ack (((he ▸ l t).2 u hu).1) (ackNamesHop_lt hn)
      split
      · rename_i ha
        refine calm_offerRelease (fun l => ⟨by simp [hst], fun v hv => ?_⟩) rfl (fun _ => ha)
          (by rw [he]) h
        simp only [Option.some.injEq] at hv
        subst hv
        exact ⟨law l, ((he ▸ l t).2 u hu).2.1, fun _ => ha⟩
      · rename_i hb ha
        refine calm_setEntry (fun l => ⟨by simp [hst], fun v hv => ?_⟩) (fun m r k => m.2.2.1 t r (by rw [he]; exact k)) h
        simp only [Option.some.injEq] at hv
        subst hv
        refine ⟨law l, ((he ▸ l t).2 u hu).2.1, fun x => ?_⟩
        exfalso
        have old := ((he ▸ l t).2 u hu).2.2
        simp only [hst] at x old
        have full := old x
        apply hb
        unfold hasBit
        rw [full, allHops_bit]
        simp [ackNamesHop_lt hn]
  · exact calm_cancelWithFault h
  · exact calm_cancelWithFault h
  · exact calm_cancelWithFault h

theorem calm_gateAck {g : Gen} {hop : HopIx} {r : GateResult} (h : Calm s0 s) : Calm s0 (gateAck p t g hop r s) := by
  unfold gateAck
  simp only
  split
  · exact calm_request h
  · rename_i u hu
    split
    · rename_i c
      exact calm_takeAck rfl hu c.2.1 c.2.2 h
    · exact calm_request h

theorem calm_gateAckExpiry (h : Calm s0 s) : Calm s0 (gateAckExpiry t s) := by
  unfold gateAckExpiry
  simp only
  split
  · exact h
  · split
    · exact calm_cancelWithFault h
    · exact h

theorem calm_cancelRequest {g : Gen} (h : Calm s0 s) : Calm s0 (cancelRequest t g s) := by
  unfold cancelRequest
  simp only
  split
  · exact h
  · split
    · exact calm_cancelEntry h
    · exact h

theorem calm_freeRequest {g : Gen} (h : Calm s0 s) : Calm s0 (freeRequest t g s) := by
  unfold freeRequest
  simp only
  split
  · exact h
  · split
    · exact calm_freeEntry h
    · exact h

theorem calm_sorterDownEntry (h : Calm s0 s) : Calm s0 (sorterDownEntry p s t) := by
  unfold sorterDownEntry
  simp only
  split
  · exact h
  · split
    · exact calm_cancelWithFault h
    · exact h

theorem calm_passage {g : Gen} {k : Gate} (h : Calm s0 s) : Calm s0 (passage p t g k s) := by
  unfold passage
  simp only
  split
  · exact calm_request h
  · split
    · split
      · exact calm_setEntry (fun l => (l t).same Iff.rfl rfl id) (fun m r x => m.2.2.1 t r x) h
      · exact calm_loseEntry h
    · exact calm_request h

theorem calm_arrival {g : Gen} (h : Calm s0 s) : Calm s0 (arrival p t g s) := by
  unfold arrival
  simp only
  split
  · exact calm_request h
  · split
    · split
      · exact calm_freeEntry h
      · exact calm_loseEntry h
    · exact calm_request h

theorem calm_transitExpiry (h : Calm s0 s) : Calm s0 (transitExpiry t s) := by
  unfold transitExpiry
  simp only
  split
  · exact h
  · split
    · exact calm_loseEntry h
    · exact h

theorem calm_reofferRelease (h : Calm s0 s) : Calm s0 (reofferRelease p s t) := by
  unfold reofferRelease
  simp only
  split
  · exact h
  · rename_i u hu
    split
    · rename_i c
      exact calm_offerRelease (fun l => l t) hu (fun l => ((l t).2 u hu).2.2 (.inr (.inr c.1))) rfl h
    · exact h

end Transit

end Sys2Proof.Machine
end

