-- ==== Sys2Proof/Laws/Decode.lean ====
section
/-! SUPPORT. What the readers of fixed operands answer (R173): where one answers a command, the operands have its one length, and
the command is made of their bytes. -/

namespace Sys2Proof.Machine

variable {x : List Byte} {i : Instr}

theorem oneByte_some {make : Byte → Instr} (h : oneByte make x = some i) : ∃ b, x = [b] ∧ i = make b := by
  unfold oneByte at h
  split at h <;> cases h
  exact ⟨_, rfl, rfl⟩

theorem noBytes_some {j : Instr} (h : noBytes j x = some i) : x = [] ∧ i = j := by
  unfold noBytes at h
  split at h <;> cases h
  exact ⟨rfl, rfl⟩

theorem oneWord_some {make : Nat → Instr} (h : oneWord make x = some i) : ∃ a b, x = [a, b] ∧ i = make (number [a, b]) := by
  unfold oneWord at h
  split at h <;> cases h
  exact ⟨_, _, rfl, rfl⟩

theorem conditionBytes_some {make : BitVec 24 → Instr} (h : conditionBytes make x = some i) :
    ∃ a b c, x = [a, b, c] ∧ i = make (a ++ b ++ c) := by
  unfold conditionBytes at h
  split at h <;> cases h
  exact ⟨_, _, _, rfl, rfl⟩

theorem classBytes_some {make : Fin 65536 → Nat → Instr} (h : classBytes make x = some i) :
    ∃ a b c, x = [a, b, c] ∧ i = make (word16 a b) c.toNat := by
  unfold classBytes at h
  split at h <;> cases h
  exact ⟨_, _, _, rfl, rfl⟩

theorem fourBytes_some {make : Byte → Byte → Byte → Byte → Instr} (h : fourBytes make x = some i) :
    ∃ a b c d, x = [a, b, c, d] ∧ i = make a b c d := by
  unfold fourBytes at h
  split at h <;> cases h
  exact ⟨_, _, _, _, rfl, rfl⟩

theorem whenFits_command {o : Option Instr} (h : whenFits o = .command i) : o = some i := by
  cases o <;> simp_all [whenFits, wrongLength]

end Sys2Proof.Machine
end

