-- ==== Sys2Proof/Laws/Steady.lean ====
section
/-! SUPPORT. What the operations of the links, of the dispatcher and of the management requests leave alone. `Steady s t` is Calm
without its account of the links, which Laws/Links.lean keeps. -/

namespace Sys2Proof.Machine

/-- What an operation keeps that leaves the catalogue and the store alone and posts nothing; the link accounts may change. -/
structure Steady (s t : State) : Prop where
  catalogue : t.catalogue = s.catalogue
  pending   : t.pending = s.pending
  store     : t.store = s.store
  posts     : t.mail.filter isPosting = s.mail.filter isPosting
  vouchers  : VoucherLaw s → VoucherLaw t
  transit   : TransitLaw s → TransitLaw t
  money     : MoneyLaw s → MoneyLaw t
  hold      : HoldLaw s → HoldLaw t ∧ Budget s t

theorem Calm.steady {s t : State} (h : Calm s t) : Steady s t :=
  ⟨h.catalogue, h.pending, h.store, h.posts, h.vouchers, h.transit, h.money, h.hold⟩

theorem Steady.refl (s : State) : Steady s s := (Calm.refl s).steady

theorem Steady.trans {s t u : State} (a : Steady s t) (b : Steady t u) : Steady s u where
  catalogue := b.catalogue.trans a.catalogue
  pending := b.pending.trans a.pending
  store := b.store.trans a.store
  posts := b.posts.trans a.posts
  vouchers h := b.vouchers (a.vouchers h)
  transit h := b.transit (a.transit h)
  money h := b.money (a.money h)
  hold h := ⟨(b.hold (a.hold h).1).1, (a.hold h).2.trans (b.hold (a.hold h).1).2⟩

/-- A calm operation after a steady one. -/
theorem Steady.calm {s t u : State} (a : Steady s t) (b : Calm t u) : Steady s u := a.trans b.steady

section Steady
variable {s0 s : State} {p : Port}

theorem steady_setPort {x : LinkPort} (h : Steady s0 s) : Steady s0 (s.setPort p x) :=
  h.trans ⟨rfl, rfl, rfl, rfl, id, id, id, fun m => ⟨m, .refl _⟩⟩

theorem steady_post {m : Instr} (hp : isPosting m = false) (hm : MessageLaw m) (h : Steady s0 s) : Steady s0 (s.post m) :=
  h.calm (calm_post hp hm (.refl _))

theorem steady_request {c : Condition} (h : Steady s0 s) : Steady s0 (s.request c) := h.calm (calm_request (.refl _))

theorem steady_enqueue {f : TxFrame} (h : Steady s0 s) : Steady s0 (enqueue s p f) := steady_setPort h

theorem steady_foldl {α : Type} {f : State → α → State} (hf : ∀ {s x}, Steady s0 s → Steady s0 (f s x))
    {l : List α} (h : Steady s0 s) : Steady s0 (l.foldl f s) := by
  induction l generalizing s with
  | nil => exact h
  | cons x xs ih => exact ih (hf h)

/-! ### Replies (R172, R182) -/

theorem calm_offerSlot (h : Calm s0 s) : Calm s0 (offerSlot p s) := by
  unfold offerSlot
  simp only
  split
  · exact h
  · split
    · exact calm_setSlot (calm_enqueue ‹_› h)
    · exact h
    · exact calm_setSlot h

theorem calm_settleOwed (h : Calm s0 s) : Calm s0 (settleOwed p s) := by
  unfold settleOwed
  simp only
  split
  · exact calm_offerSlot (calm_setSlot h)
  · exact h

theorem calm_offerReplies (h : Calm s0 s) : Calm s0 (offerReplies p s) := calm_settleOwed (calm_offerSlot h)

theorem calm_placeReply {r : Requester} {x : Status} {d : ReplyData} (h : Calm s0 s) : Calm s0 (placeReply r x d s) := by
  unfold placeReply
  simp only
  split
  · exact calm_setSlot h
  · exact calm_offerReplies (calm_setSlot h)

theorem calm_manage {r : Requester} {f : State → Answer} (hf : Calm s (f s).state) (h : Calm s0 s) :
    Calm s0 (manage r f s) := by
  unfold manage
  split
  · exact calm_placeReply (h.trans hf)
  · exact h

theorem steady_manage {r : Requester} {f : State → Answer} (hf : Steady s (f s).state) (h : Steady s0 s) :
    Steady s0 (manage r f s) := by
  unfold manage
  split
  · exact (h.trans hf).calm (calm_placeReply (.refl _))
  · exact h

/-! ### The head of a receive queue (R12, R28, R29, R31) -/

theorem steady_takeCount (h : Steady s0 s) : Steady s0 (takeCount p s) := by
  unfold takeCount returnCredit
  simp only
  split
  · exact steady_setPort (steady_setPort h)
  · exact steady_setPort h

theorem steady_dropHead (h : Steady s0 s) : Steady s0 (dropHead p s) := steady_takeCount (steady_setPort h)

theorem steady_enqueueAt {d : Fin 16} {f : TxFrame} (h : Steady s0 s) : Steady s0 (enqueueAt d f s) := by
  unfold enqueueAt
  split
  · exact h
  · exact steady_enqueue h

theorem steady_offerUndeliverable {f : RxFrame} (h : Steady s0 s) : Steady s0 (offerUndeliverable p f s) := by
  unfold offerUndeliverable
  split
  · exact steady_dropHead (steady_enqueue h)
  · exact steady_setPort h
  · exact steady_dropHead h

theorem steady_undeliverable {f : RxFrame} (h : Steady s0 s) : Steady s0 (undeliverable p f s) := by
  unfold undeliverable
  simp only
  split
  · exact steady_offerUndeliverable (steady_request h)
  · exact steady_dropHead (steady_request h)

theorem steady_offerPass {f : RxFrame} (h : Steady s0 s) : Steady s0 (offerPass p f s) := by
  unfold offerPass
  split
  · exact steady_dropHead (steady_enqueueAt h)
  · exact steady_setPort h
  · exact steady_undeliverable h

theorem steady_reoffer (h : Steady s0 s) : Steady s0 (reoffer p s) := by
  unfold reoffer
  split
  · exact steady_offerPass h
  · exact steady_offerUndeliverable h
  · exact h

theorem steady_endHolds (h : Steady s0 s) : Steady s0 (endHolds p s) := by
  refine steady_foldl (fun {s q} k => ?_) h
  unfold endHold
  split
  · split
    · exact steady_offerPass k
    · exact k
  · exact k

/-! ### Links (chapter 1) -/

theorem calm_emptyReports (h : Calm s0 s) : Calm s0 (emptyReports p s) :=
  calm_faults (x := { s.faults with reports := put s.faults.reports p [] })
    (calm_vouchers (x := { s.vouchers with reports := put s.vouchers.reports p [] }) rfl h)

theorem calm_dropReplies (h : Calm s0 s) : Calm s0 (dropReplies p s) := calm_mgmt (calm_setSlot h)

theorem calm_departureReports (h : Calm s0 s) : Calm s0 (departureReports p s) := by
  unfold departureReports
  split
  · exact h
  · exact calm_post rfl trivial (calm_evalOutputs (calm_clearOwed h))
  · exact calm_post rfl trivial (calm_post rfl trivial h)
  · exact calm_post rfl trivial h
  · exact calm_post rfl trivial h
  · exact calm_emptyReports (calm_dropReplies (calm_setQueued h))

theorem steady_departure (h : Steady s0 s) : Steady s0 (departure p s) :=
  (steady_endHolds (h.calm (calm_setBacklog (.refl _)))).calm (calm_departureReports (.refl _))

theorem steady_moveLink {f : LinkPort → LinkPort} (h : Steady s0 s) : Steady s0 (moveLink p f s) := by
  unfold moveLink
  simp only
  split
  · exact steady_departure (steady_setPort h)
  · exact steady_setPort h

theorem steady_addError (h : Steady s0 s) : Steady s0 (addError p s) := by
  unfold addError
  simp only
  split
  · exact steady_moveLink (steady_request (steady_setPort h))
  · exact steady_setPort h

theorem steady_goodFrame (h : Steady s0 s) : Steady s0 (goodFrame p s) := steady_setPort h

theorem calm_arrivalReports (h : Calm s0 s) : Calm s0 (arrivalReports p s) := by
  unfold arrivalReports
  split
  · exact h
  · exact calm_post rfl trivial (calm_evalOutputs h)
  · exact calm_post rfl trivial h
  · exact calm_post rfl trivial h
  · exact calm_post rfl trivial h
  · exact calm_setQueued h

theorem calm_restartReports (h : Calm s0 s) : Calm s0 (restartReports p s) := by
  unfold restartReports
  split
  · exact calm_post rfl trivial (calm_post rfl trivial h)
  · exact calm_post rfl trivial (calm_restartUnit h)
  all_goals exact calm_post rfl trivial h

theorem steady_takeAnnounced {a : Announced} (h : Steady s0 s) : Steady s0 (takeAnnounced p a s) := by
  have k : Steady s0 ((goodFrame p s).setPort p { (goodFrame p s).port p with stationCode := a.station }) :=
    steady_setPort (steady_goodFrame h)
  unfold takeAnnounced
  simp only
  split
  · exact steady_moveLink (steady_request k)
  · split
    · exact (steady_setPort k).calm (calm_restartReports (.refl _))
    · exact (steady_setPort k).calm (calm_arrivalReports (.refl _))

theorem steady_takeAnnounce {f : RxFrame} (h : Steady s0 s) : Steady s0 (takeAnnounce p f s) := by
  have k : Steady s0 (match announceOf f with
      | none => addError p s
      | some a => takeAnnounced p a s) := by
    split
    · exact steady_addError h
    · exact steady_takeAnnounced h
  unfold takeAnnounce
  split
  · exact k
  · exact k
  all_goals exact h

theorem steady_overrun (h : Steady s0 s) : Steady s0 (overrun p s) := steady_addError (steady_request h)

theorem steady_takeGrant (h : Steady s0 s) : Steady s0 (takeGrant p s) := by
  unfold takeGrant
  split
  · exact steady_takeCount h
  · exact h

theorem steady_useGrant (h : Steady s0 s) : Steady s0 (useGrant p s) := steady_setPort h

theorem steady_takeCredit {f : RxFrame} (h : Steady s0 s) : Steady s0 (takeCredit p f s) := by
  unfold takeCredit
  simp only
  split
  · exact steady_takeGrant (steady_addError (steady_useGrant h))
  · exact steady_takeGrant (steady_setPort (steady_goodFrame (steady_useGrant h)))

theorem steady_creditFrame {f : RxFrame} (h : Steady s0 s) : Steady s0 (creditFrame p f s) := by
  unfold creditFrame
  split
  · split
    · exact steady_overrun h
    · exact steady_takeCredit h
  · exact steady_goodFrame h
  all_goals exact h

theorem steady_checkFailed {b : List Byte} (h : Steady s0 s) : Steady s0 (checkFailed p b s) := by
  unfold checkFailed
  refine steady_addError ?_
  split
  · exact steady_request h
  · exact h

theorem steady_queueFrame {f : RxFrame} (h : Steady s0 s) : Steady s0 (queueFrame p f s) :=
  steady_setPort (steady_goodFrame (steady_useGrant h))

theorem steady_receiveUp {f : RxFrame} (h : Steady s0 s) : Steady s0 (receiveUp p f s) := by
  unfold receiveUp
  split
  · exact steady_takeAnnounce h
  · split
    · exact steady_creditFrame h
    · split
      · exact steady_overrun h
      · exact steady_queueFrame h

theorem steady_failUp {b : List Byte} (h : Steady s0 s) : Steady s0 (failUp p b s) := by
  unfold failUp
  split
  · exact steady_overrun h
  · exact steady_takeGrant (steady_checkFailed (steady_useGrant h))

theorem steady_frameArrival {b : List Byte} (h : Steady s0 s) : Steady s0 (frameArrival p b s) := by
  unfold frameArrival
  split
  · split
    · exact steady_failUp h
    · exact steady_receiveUp h
  · split
    · exact steady_checkFailed h
    · split
      · exact steady_takeAnnounce h
      · exact steady_goodFrame h
  all_goals exact h

theorem steady_signalDetect (h : Steady s0 s) : Steady s0 (signalDetect p s) := steady_setPort h

theorem steady_signalLoss (h : Steady s0 s) : Steady s0 (signalLoss p s) := by
  unfold signalLoss
  simp only
  split
  · exact steady_moveLink (steady_setPort h)
  · exact steady_moveLink (steady_setPort h)
  · exact steady_moveLink (steady_setPort h)
  all_goals exact steady_setPort h

theorem calm_notifyPlace (h : Calm s0 s) : Calm s0 (notifyPlace p s) :=
  calm_foldl (f := fun t o => t.post (.placeFree p o)) (fun k => calm_post rfl trivial k) h

theorem steady_frameTransmit (h : Steady s0 s) : Steady s0 (frameTransmit p s) := by
  unfold frameTransmit
  simp only
  split
  · split
    · exact h
    · refine Steady.calm ?_ (calm_notifyPlace (.refl _))
      split
      · exact (steady_setPort h).calm (calm_setQueued (.refl _))
      · exact steady_setPort h
  · exact h

/-! ### Port entries (R2, R3, R8) -/

theorem calm_removeRole {r : Role} (h : Calm s0 s) : Calm s0 (removeRole p r s) := by
  cases r
  · exact h
  · exact calm_setFaultContext (calm_removeSession (calm_removeContext (calm_takeLinkReports h)))
  · exact h
  · exact h
  · exact calm_removeUnit h
  · exact calm_emptyReports (calm_dropReplies (calm_setQueued h))

theorem calm_createRole {r : Role} (h : Calm s0 s) : Calm s0 (createRole p r s) := by
  cases r
  · exact h
  · exact calm_cond (calm_setFaultContext (calm_createSession (calm_createContext h)))
  · exact h
  · exact h
  · exact calm_createUnit h
  · exact h

theorem calm_changeRole {a b : Role} (h : Calm s0 s) : Calm s0 (changeRole p a b s) := by
  unfold changeRole
  split
  · exact h
  · exact calm_evalOutputs (calm_post rfl trivial (calm_createRole (calm_removeRole h)))

theorem steady_moveForWrite {a b : PortEntry} (h : Steady s0 s) : Steady s0 (moveForWrite p a b s) := by
  unfold moveForWrite
  split
  · exact steady_moveLink h
  · split
    · exact steady_moveLink h
    · exact h

theorem steady_applyEntry {e : PortEntry} (h : Steady s0 s) : Steady s0 (applyEntry p e s) := by
  unfold applyEntry
  dsimp only
  split
  · exact (steady_moveForWrite (steady_setPort h)).calm (calm_changeRole (.refl _))
  · exact (steady_moveForWrite (steady_setPort h)).calm (calm_retryClose (calm_changeRole (.refl _)))

theorem steady_portWrite {n : Nat} {x : PortFields} (h : Steady s0 s) : Steady s0 (portWrite n x s).state := by
  unfold portWrite
  split
  · exact h
  · split
    · exact h
    · split
      · exact h
      · split
        · exact h
        · exact steady_applyEntry h

theorem steady_adminWrite {n : Nat} {b : Bool} (h : Steady s0 s) : Steady s0 (adminWrite n b s).state := by
  unfold adminWrite
  split
  · exact h
  · exact steady_portWrite h

theorem steady_resetPort (h : Steady s0 s) : Steady s0 (resetPort p s) := by
  have k : Steady s0 (s.setBacklog p []) := h.calm (calm_setBacklog (.refl _))
  unfold resetPort
  simp only
  split <;> exact steady_moveLink k

theorem steady_portReset {n : Nat} (h : Steady s0 s) : Steady s0 (portReset n s).state := by
  unfold portReset
  split
  · exact h
  · exact steady_resetPort h

/-! ### The dispatcher (chapter 2) -/

theorem steady_refuse {c : Condition} (h : Steady s0 s) : Steady s0 (refuse p c s) := steady_dropHead (steady_request h)

theorem steady_decidePass {f : RxFrame} (h : Steady s0 s) : Steady s0 (decidePass p f s) := by
  unfold decidePass
  split
  · split
    · exact steady_refuse h
    · exact steady_offerPass h
  · split
    · exact steady_offerPass h
    · exact steady_refuse h

/-- A command that is no posting, and carries no credit: every command made from a frame is one (R25, R173). -/
def Harmless (i : Instr) : Prop := isPosting i = false ∧ MessageLaw i

theorem steady_harmless {i : Instr} (hi : Harmless i) (h : Steady s0 s) : Steady s0 (s.post i) := steady_post hi.1 hi.2 h

theorem harmless_oneByte {f : Byte → Instr} (hf : ∀ b, Harmless (f b)) {x : List Byte} {i : Instr}
    (h : oneByte f x = some i) : Harmless i := by
  obtain ⟨b, _, rfl⟩ := oneByte_some h
  exact hf b

theorem harmless_noBytes {j : Instr} (hj : Harmless j) {x : List Byte} {i : Instr} (h : noBytes j x = some i) :
    Harmless i := by
  obtain ⟨_, rfl⟩ := noBytes_some h
  exact hj

theorem harmless_station {k : Kind} {f : RxFrame} {i : Instr} (h : stationCommand p k f = some i) : Harmless i := by
  unfold stationCommand at h
  split at h
  · split at h
    · cases h
    · cases h; exact ⟨rfl, trivial⟩
  · exact harmless_oneByte (fun _ => by exact ⟨rfl, trivial⟩) h
  · exact harmless_oneByte (fun _ => by exact ⟨rfl, trivial⟩) h
  · exact harmless_oneByte (fun _ => by exact ⟨rfl, trivial⟩) h
  · exact harmless_noBytes (by exact ⟨rfl, trivial⟩) h
  · exact harmless_noBytes (by exact ⟨rfl, trivial⟩) h
  · unfold headFaultPayload at h
    split at h
    · split at h
      · cases h
      · split at h
        · cases h
        · cases h; exact ⟨rfl, trivial⟩
    · cases h
  · unfold gateAckPayload at h
    split at h
    · split at h
      · cases h; exact ⟨rfl, trivial⟩
      · cases h
    · cases h
  · unfold passagePayload at h
    split at h
    · split at h
      · cases h; exact ⟨rfl, trivial⟩
      · cases h
    · cases h
  · unfold arrivalPayload at h
    split at h
    · cases h; exact ⟨rfl, trivial⟩
    · cases h
  · exact harmless_oneByte (fun _ => by exact ⟨rfl, trivial⟩) h
  · unfold voucherDonePayload at h
    split at h
    · split at h
      · cases h
      · cases h; exact ⟨rfl, trivial⟩
    · cases h
  · cases h

/-- A request that is refused, or makes a harmless command. -/
def HarmlessRequest (q : Request) : Prop := ∀ i, q = .command i → Harmless i

theorem harmless_refused (x : Status) : HarmlessRequest (.refused x) := fun _ h => by cases h

theorem harmless_command {i : Instr} (hi : Harmless i) : HarmlessRequest (.command i) := fun _ h => by cases h; exact hi

theorem harmless_whenFits {x : Option Instr} (hx : ∀ i, x = some i → Harmless i) : HarmlessRequest (whenFits x) :=
  fun i h => hx i (whenFits_command h)

theorem harmless_made {α : Type} {x : Option α} {f : α → Instr} (hf : ∀ a, Harmless (f a)) :
    HarmlessRequest (whenFits (x.map f)) :=
  harmless_whenFits fun i h => by
    obtain ⟨a, _, rfl⟩ := Option.map_eq_some_iff.mp h
    exact hf a

theorem harmless_unknown (a b : Nat) : HarmlessRequest (unknownControl a b) := harmless_refused _

theorem harmless_control {f : Nat → Nat → Request} (hf : ∀ a b, HarmlessRequest (f a b)) (x : List Byte) :
    HarmlessRequest (controlRequest f x) := by
  unfold controlRequest
  split
  · exact hf _ _
  · exact harmless_refused _

theorem harmless_write (r : Requester) (t n : Nat) (x : List Byte) :
    HarmlessRequest (whenFits (writeCommand r t n x)) := by
  unfold writeCommand
  split
  case h_1 | h_7 | h_13 => exact harmless_made fun _ => by exact ⟨rfl, trivial⟩
  case h_14 => exact harmless_refused _
  case h_2 | h_3 => exact harmless_whenFits fun i h => by obtain ⟨_, _, _, rfl⟩ := oneWord_some h; exact ⟨rfl, trivial⟩
  case h_4 | h_6 | h_8 => exact harmless_whenFits fun i h => harmless_oneByte (fun _ => by exact ⟨rfl, trivial⟩) h
  case h_5 => exact harmless_whenFits fun i h => by obtain ⟨_, _, _, _, rfl⟩ := classBytes_some h; exact ⟨rfl, trivial⟩
  case h_12 => exact harmless_whenFits fun i h => by obtain ⟨_, _, _, _, rfl⟩ := conditionBytes_some h; exact ⟨rfl, trivial⟩
  all_goals exact harmless_whenFits fun i h => by obtain ⟨_, _, _, _, _, rfl⟩ := fourBytes_some h; exact ⟨rfl, trivial⟩

theorem harmless_read (r : Requester) (x : List Byte) : HarmlessRequest (readRequest r x) := by
  unfold readRequest
  split
  · exact harmless_refused _
  · split
    · exact harmless_refused _
    · split
      · refine harmless_command ?_
        split <;> exact ⟨rfl, trivial⟩
      · exact harmless_refused _

theorem harmless_writeRequest (r : Requester) (x : List Byte) : HarmlessRequest (writeRequest r x) := by
  unfold writeRequest
  split
  · exact harmless_refused _
  · split
    · exact harmless_refused _
    · split
      · exact harmless_refused _
      · exact harmless_write _ _ _ _

theorem harmless_state (r : Requester) (x : List Byte) : HarmlessRequest (stateRequest r x) := by
  unfold stateRequest
  split
  · exact harmless_refused _
  · split
    · exact harmless_refused _
    · split
      · exact harmless_command (by exact ⟨rfl, trivial⟩)
      · exact harmless_refused _

theorem harmless_intake (r : Requester) (a b : Nat) : HarmlessRequest (intakeRequest r a b) := by
  unfold intakeRequest
  split
  case h_4 => exact harmless_unknown _ _
  all_goals exact harmless_command (by exact ⟨rfl, trivial⟩)

theorem harmless_port (r : Requester) (a b : Nat) : HarmlessRequest (portRequest r a b) := by
  unfold portRequest
  split
  case h_4 => exact harmless_unknown _ _
  all_goals exact harmless_command (by exact ⟨rfl, trivial⟩)

theorem harmless_line (r : Requester) (a b : Nat) : HarmlessRequest (lineRequest r a b) := by
  unfold lineRequest
  split
  case h_3 => exact harmless_unknown _ _
  all_goals exact harmless_command (by exact ⟨rfl, trivial⟩)

theorem harmless_operation (r : Requester) (op : Nat) (x : List Byte) : HarmlessRequest (operationRequest r op x) := by
  unfold operationRequest
  split
  case h_1 => exact harmless_read r x
  case h_2 => exact harmless_writeRequest r x
  case h_3 | h_4 | h_5 | h_6 | h_9 => exact harmless_made fun _ => by exact ⟨rfl, trivial⟩
  case h_7 => exact harmless_whenFits fun i h => by obtain ⟨_, _, _, rfl⟩ := oneWord_some h; exact ⟨rfl, trivial⟩
  case h_8 | h_10 | h_18 | h_19 => exact harmless_whenFits fun i h => harmless_noBytes (by exact ⟨rfl, trivial⟩) h
  case h_11 => exact harmless_whenFits fun i h => by obtain ⟨_, _, _, _, rfl⟩ := conditionBytes_some h; exact ⟨rfl, trivial⟩
  case h_12 | h_16 => exact harmless_whenFits fun i h => harmless_oneByte (fun _ => by exact ⟨rfl, trivial⟩) h
  case h_13 => exact harmless_control (harmless_intake r) x
  case h_14 => exact harmless_control (harmless_port r) x
  case h_15 => exact harmless_control (harmless_line r) x
  case h_17 => exact harmless_state r x
  case h_20 => exact harmless_refused _

theorem harmless_request {r : Requester} {x : List Byte} {i : Instr} (h : requestOf r x = .command i) : Harmless i := by
  unfold requestOf at h
  split at h
  · cases h
  · exact harmless_operation _ _ _ i h

theorem steady_takeRequest {f : RxFrame} (h : Steady s0 s) : Steady s0 (takeRequest p f s) := by
  unfold takeRequest
  split
  · have k : Steady s0 ((dropHead p s).setSlot p { (dropHead p s).slot p with carried := .carrying }) :=
      (steady_dropHead h).calm (calm_setSlot (.refl _))
    simp only
    split
    · exact k.calm (calm_placeReply (.refl _))
    · exact steady_harmless (harmless_request (by assumption)) k
  · exact h

theorem steady_handOver {k : Kind} {f : RxFrame} (h : Steady s0 s) : Steady s0 (handOver p k f s) := by
  unfold handOver
  split
  · split
    · exact steady_refuse h
    · exact steady_takeRequest h
  · split
    · exact steady_refuse h
    · exact steady_harmless (harmless_station (by assumption)) (steady_dropHead h)

theorem steady_decideFrame {f : RxFrame} (h : Steady s0 s) : Steady s0 (decideFrame p f s) := by
  have pick : ∀ {c : Prop} [Decidable c] {a b : State}, Steady s0 a → Steady s0 b → Steady s0 (if c then a else b) := by
    intro c _ a b ha hb
    split
    · exact ha
    · exact hb
  unfold decideFrame
  cases kindOf f.kind with
  | none => exact steady_refuse h
  | some k =>
    exact pick (steady_refuse h) (pick (steady_decidePass h) (pick (steady_refuse h) (pick (steady_handOver h)
      (steady_refuse h))))

theorem steady_dispatchFrame (h : Steady s0 s) : Steady s0 (dispatchFrame p s) := by
  unfold dispatchFrame
  split
  · exact steady_decideFrame h
  · exact h

theorem steady_passFrame (h : Steady s0 s) : Steady s0 (passFrame p s) := by
  unfold passFrame
  split
  · split
    · exact steady_decidePass h
    · exact h
  · exact steady_reoffer h

/-! ### PLACE_FREE (R14) -/

theorem calm_offerTransit (h : Calm s0 s) : Calm s0 (offerTransit p s) :=
  calm_setBacklog (calm_offerList (calm_foldl calm_reofferRelease h))

theorem calm_offerOwedTally (h : Calm s0 s) : Calm s0 (offerOwedTally p s) := by
  unfold offerOwedTally
  split
  · exact h
  · split
    · exact calm_offerTally h
    · exact h

theorem calm_sendOwed (h : Calm s0 s) : Calm s0 (sendOwed p s) := by
  unfold sendOwed
  split
  · exact h
  · split
    · exact calm_sendHead h
    · exact h

theorem calm_offerVoucherReports (h : Calm s0 s) : Calm s0 (offerVoucherReports p s) :=
  calm_vouchers rfl (calm_offerList h)

theorem calm_offerFaultReports (h : Calm s0 s) : Calm s0 (offerFaultReports p s) := calm_faults (calm_offerList h)

theorem steady_placeFree {o : Owner} (h : Steady s0 s) : Steady s0 (placeFree p o s) := by
  cases o with
  | dispatcher q =>
    unfold placeFree
    simp only
    split
    · exact steady_reoffer h
    · exact h
  | management => exact h.calm (calm_offerReplies (.refl _))
  | admission => exact h.calm (calm_offerOutbound (.refl _))
  | transit => exact h.calm (calm_offerTransit (.refl _))
  | tally => exact h.calm (calm_offerOwedTally (.refl _))
  | counter => exact h.calm (calm_sendOwed (.refl _))
  | voucherReports => exact h.calm (calm_offerVoucherReports (.refl _))
  | faultReports => exact h.calm (calm_offerFaultReports (.refl _))

/-! ### State reports (R56) -/

theorem calm_lockReport {a b : CtxState} (h : Calm s0 s) : Calm s0 (lockReport a b s) := by
  unfold lockReport
  split
  · exact calm_request h
  · exact h

theorem steady_shutdownReport {x : CtxState} {r : Option StopReason} (h : Steady s0 s) :
    Steady s0 (shutdownReport p x r s) := by
  unfold shutdownReport
  split
  · exact steady_request (steady_applyEntry h)
  · exact h

theorem steady_stateReport {x : CtxState} {r : Option StopReason} {q : Option Byte} (h : Steady s0 s) :
    Steady s0 (stateReport p x r q s) := by
  refine Steady.calm ?_ (calm_evalOutputs (s0 := setReported p x (faultReportState p x r q (tallyReport p x s))) (.refl _))
  refine Steady.calm ?_ (calm_cond (.refl _))
  unfold faultReportState
  have k : Steady s0 (tallyReport p x s) := h.calm (calm_tallyReport (.refl _))
  split
  · exact k
  · exact steady_shutdownReport ((k.calm (calm_setFaultContext (.refl _))).calm (calm_lockReport (.refl _)))

end Steady

end Sys2Proof.Machine
end

