-- ==== Sys2Proof/Laws/Links.lean ====
section
/-! SUPPORT. The credit accounts of the links (R10 to R16): what each operation of a link port, of the dispatcher and of the
management requests does to them. `LinkBut k p s` is the law of Safety.lean with k places of port p on their way from granted
to taken, as they are while a frame is being taken. -/

namespace Sys2Proof.Machine

/-- A port's account, k places of which are counted nowhere for the moment. -/
def PortBut (k : Nat) (l : LinkPort) : Prop :=
  (l.link = .up → l.granted + l.rx.length + l.taken + k = 8 ∧ l.taken < 4 ∧ (l.rx = [] → l.taken = 0) ∧ l.tx.length ≤ 16) ∧
  (l.link ≠ .up → l.rx = [] ∧ l.tx = [] ∧ l.granted = 0 ∧ l.taken = 0 ∧ l.txCredit = 0 ∧ l.held = none) ∧
  l.errorScore ≤ 16 ∧ (l.link = .up ∨ l.link = .training → l.errorScore < 16) ∧ l.goodFrames ≤ 63 ∧ l.txCredit ≤ 255

theorem portBut_zero (l : LinkPort) : PortBut 0 l ↔ PortLaw l := Iff.rfl

/-- Every port keeps its account, port p with k places on their way. -/
def LinkBut (k : Nat) (p : Port) (s : State) : Prop := PortBut k (s.port p) ∧ ∀ q, q ≠ p → PortLaw (s.port q)

section Links
variable {s t : State} {p : Port} {k : Nat}

theorem linkBut_zero : LinkBut 0 p s ↔ LinkLaw s := by
  refine ⟨fun h q => ?_, fun h => ⟨h p, fun q _ => h q⟩⟩
  by_cases e : q = p
  · exact e ▸ h.1
  · exact h.2 q e

theorem PortBut.off {l : LinkPort} (h : PortBut k l) (hl : l.link ≠ .up) : PortLaw l :=
  ⟨fun x => absurd x hl, h.2⟩

/-- A calm operation keeps the accounts. -/
theorem LinkBut.calm (h : LinkBut k p s) (c : Calm s t) : LinkBut k p t := by
  have tx : TxLaw s := by
    intro q
    by_cases e : q = p
    · subst e
      refine ⟨fun n => (h.1.2.1 n).2.1, ?_⟩
      by_cases u : (s.port q).link = .up
      · exact (h.1.1 u).2.2.2
      · simp [(h.1.2.1 u).2.1]
    · have w := h.2 q e
      refine ⟨fun n => (w.2.1 n).2.1, ?_⟩
      by_cases u : (s.port q).link = .up
      · exact (w.1 u).2.2.2
      · simp [(w.2.1 u).2.1]
  have tx' := c.tx tx
  have one : ∀ {j : Nat} {q : Port}, PortBut j (s.port q) → PortBut j (t.port q) := by
    intro j q w
    have a := c.account q
    have f : ∀ {β : Type} (g : LinkPort → β), g (t.port q).account = g (s.port q).account := fun g => by rw [a]
    have e1 : (t.port q).link = (s.port q).link := f (·.link)
    have e2 : (t.port q).rx = (s.port q).rx := f (·.rx)
    have e3 : (t.port q).granted = (s.port q).granted := f (·.granted)
    have e4 : (t.port q).taken = (s.port q).taken := f (·.taken)
    have e5 : (t.port q).txCredit = (s.port q).txCredit := f (·.txCredit)
    have e6 : (t.port q).held = (s.port q).held := f (·.held)
    have e7 : (t.port q).errorScore = (s.port q).errorScore := f (·.errorScore)
    have e8 : (t.port q).goodFrames = (s.port q).goodFrames := f (·.goodFrames)
    obtain ⟨w1, w2, w3⟩ := w
    unfold PortBut
    rw [e1, e2, e3, e4, e5, e6, e7, e8]
    refine ⟨fun u => ?_, fun n => ?_, w3⟩
    · exact ⟨(w1 u).1, (w1 u).2.1, (w1 u).2.2.1, (tx' q).2⟩
    · exact ⟨(w2 n).1, (tx' q).1 (e1 ▸ n), (w2 n).2.2⟩
  exact ⟨one h.1, fun q e => (portBut_zero _).mp (one ((portBut_zero _).mpr (h.2 q e)))⟩

theorem LinkBut.setPort {x : LinkPort} {j : Nat} (h : LinkBut k p s) (hx : PortBut j x) : LinkBut j p (s.setPort p x) := by
  refine ⟨by rw [setPort_port_self]; exact hx, fun q e => ?_⟩
  rw [setPort_port_ne _ _ e]
  exact h.2 q e

theorem setPort_setPort (s : State) (p : Port) (x y : LinkPort) : (s.setPort p x).setPort p y = s.setPort p y := by
  simp only [State.setPort]
  congr 1
  refine cell_ext fun q => ?_
  simp only [cell_put]
  split <;> rfl

theorem linkLaw_setPort {x : LinkPort} (h : LinkLaw s) (hx : PortLaw x) : LinkLaw (s.setPort p x) :=
  linkBut_zero.mp (LinkBut.setPort (linkBut_zero.mpr h) hx)

theorem LinkLaw.calm (h : LinkLaw s) (c : Calm s t) : LinkLaw t :=
  linkBut_zero (p := 0) |>.mp ((linkBut_zero.mpr h).calm c)

/-! ### Ports entering a state (R4 to R7, R16) -/

theorem portLaw_flushed {l : LinkPort} (h : l.errorScore ≤ 16 ∧ l.goodFrames ≤ 63) {x : LinkState} (hx : x ≠ .up)
    (ht : x = .training → l.errorScore < 16) : PortLaw { flushed l with link := x } := by
  refine ⟨fun u => absurd u hx, fun _ => ⟨rfl, rfl, rfl, rfl, rfl, rfl⟩, h.1, fun u => ?_, h.2, by simp [flushed]⟩
  rcases u with u | u
  · exact absurd u hx
  · exact ht u

/-- What every way out of UP makes of a port with a score and a good-frame count in range. -/
def Enters (f : LinkPort → LinkPort) : Prop := ∀ l, l.errorScore ≤ 16 → l.goodFrames ≤ 63 → PortLaw (f l)

theorem enters_training : Enters enterTraining := fun l _ _ => by
  refine ⟨fun u => ?_, fun _ => ⟨rfl, rfl, rfl, rfl, rfl, rfl⟩, ?_, fun _ => ?_, ?_, ?_⟩ <;>
    simp_all [enterTraining, flushed]

theorem enters_down : Enters enterDown := fun l a b => by
  unfold enterDown
  split
  · exact enters_training _ a b
  · exact portLaw_flushed ⟨a, b⟩ (by decide) (by simp)

theorem enters_disabled : Enters enterDisabled := fun _ a b => portLaw_flushed ⟨a, b⟩ (by decide) (by simp)

theorem enters_faulted : Enters enterFaulted := fun _ a b => portLaw_flushed ⟨a, b⟩ (by decide) (by simp)

theorem enters_clear {f : LinkPort → LinkPort} (hf : Enters f) : Enters (fun l => f (clearScore l)) :=
  fun l _ _ => hf _ (by simp [clearScore]) (by simp [clearScore])

/-! ### The head of a receive queue (R12, R28, R29, R31) -/

theorem portBut_returned {l : LinkPort} {n : List TxFrame}
    (hu : l.link = .up → l.granted + l.rx.length + l.taken = 8 ∧ l.tx.length ≤ 16)
    (hn : l.link ≠ .up → l.rx = [] ∧ l.tx = [] ∧ l.granted = 0 ∧ l.taken = 0 ∧ l.txCredit = 0 ∧ l.held = none)
    (hr : l.errorScore ≤ 16 ∧ (l.link = .up ∨ l.link = .training → l.errorScore < 16) ∧ l.goodFrames ≤ 63 ∧
      l.txCredit ≤ 255) : PortLaw { l with granted := l.granted + l.taken, taken := 0, sent := n } := by
  refine ⟨fun u => ?_, fun x => ?_, hr⟩
  · have := hu u
    refine ⟨?_, by simp, fun _ => rfl, this.2⟩
    simp only
    omega
  · have := hn x
    refine ⟨this.1, this.2.1, ?_, rfl, this.2.2.2.2⟩
    simp only
    omega

/-- A port that returns no credit has taken fewer than 4, and none with an empty queue (R12). -/
theorem not_due {l : LinkPort} (h : ¬ creditDue l = true) : l.taken < 4 ∧ (l.taken = 0 ∨ l.rx ≠ []) := by
  simp only [creditDue, Bool.or_eq_true, decide_eq_true_eq, Bool.and_eq_true, List.isEmpty_iff, not_or, not_and] at h
  refine ⟨Nat.lt_of_not_le h.1, ?_⟩
  by_cases z : l.taken = 0
  · exact .inl z
  · exact .inr (h.2 (Nat.pos_of_ne_zero z))

/-- A frame taken from the head of the receive queue closes the account again (R12). -/
theorem linkLaw_dropHead (h : LinkLaw s) (hr : (s.port p).rx ≠ []) : LinkLaw (dropHead p s) := by
  have hu : (s.port p).link = .up := by
    by_contra n
    exact hr ((h p).2.1 n).1
  have w := (h p).1 hu
  have len : (s.port p).rx.tail.length + 1 = (s.port p).rx.length := by
    cases e : (s.port p).rx with
    | nil => exact absurd e hr
    | cons x xs => simp
  unfold dropHead
  unfold takeCount returnCredit
  simp only [setPort_port_self]
  split
  · rw [setPort_setPort, setPort_setPort]
    refine linkLaw_setPort h ?_
    refine portBut_returned
      (l := { s.port p with rx := (s.port p).rx.tail, held := none, taken := (s.port p).taken + 1 })
      (fun _ => ⟨?_, w.2.2.2⟩) (fun n => absurd hu n) (h p).2.2
    show (s.port p).granted + (s.port p).rx.tail.length + ((s.port p).taken + 1) = 8
    omega
  · rename_i hc
    rw [setPort_setPort]
    have hd := not_due hc
    refine linkLaw_setPort h ⟨fun _ => ⟨?_, hd.1, fun e => ?_, w.2.2.2⟩, fun n => absurd hu n, (h p).2.2⟩
    · show (s.port p).granted + (s.port p).rx.tail.length + ((s.port p).taken + 1) = 8
      omega
    · exact hd.2.resolve_right (absurd e)

theorem linkLaw_request {c : Condition} (h : LinkLaw s) : LinkLaw (s.request c) := h

theorem linkLaw_enqueue {f : TxFrame} {q : Port} (h : LinkLaw s) (ha : offerAnswer s q = .accepted) :
    LinkLaw (enqueue s q f) := h.calm (calm_enqueue ha (.refl _))

theorem rx_enqueue {f : TxFrame} {q : Port} : ((enqueue s q f).port p).rx = (s.port p).rx := by
  by_cases e : p = q
  · subst e; simp
  · simp [e]

theorem linkLaw_enqueueAt {d : Fin 16} {f : TxFrame} (h : LinkLaw s) (ha : addressAnswer s p d = .accepted) :
    LinkLaw (enqueueAt d f s) ∧ ((enqueueAt d f s).port p).rx = (s.port p).rx := by
  unfold addressAnswer at ha
  unfold enqueueAt
  split at ha
  · cases ha
  · split at ha
    · cases ha
    · exact ⟨linkLaw_enqueue h ha, rx_enqueue⟩

theorem linkLaw_holdHead {x : Held} (h : LinkLaw s) (hr : (s.port p).rx ≠ []) : LinkLaw (holdHead p x s) := by
  have hu : (s.port p).link = .up := by
    by_contra n
    exact hr ((h p).2.1 n).1
  exact linkLaw_setPort h ⟨(h p).1, fun n => absurd hu n, (h p).2.2⟩

theorem linkLaw_offerUndeliverable {f : RxFrame} (h : LinkLaw s) (hr : (s.port p).rx ≠ []) :
    LinkLaw (offerUndeliverable p f s) := by
  unfold offerUndeliverable
  split
  · exact linkLaw_dropHead (linkLaw_enqueue h (by assumption)) (by rw [rx_enqueue]; exact hr)
  · exact linkLaw_holdHead h hr
  · exact linkLaw_dropHead h hr

theorem linkLaw_offerPass {f : RxFrame} (h : LinkLaw s) (hr : (s.port p).rx ≠ []) : LinkLaw (offerPass p f s) := by
  unfold offerPass
  split
  · have k := linkLaw_enqueueAt (p := p) (f := .pass p f) h (by assumption)
    exact linkLaw_dropHead k.1 (by rw [k.2]; exact hr)
  · exact linkLaw_holdHead h hr
  · unfold undeliverable
    simp only
    split
    · exact linkLaw_offerUndeliverable (linkLaw_request h) hr
    · exact linkLaw_dropHead (linkLaw_request h) hr

theorem linkLaw_foldl {α : Type} {f : State → α → State} (hf : ∀ {s x}, LinkLaw s → LinkLaw (f s x)) {l : List α}
    (h : LinkLaw s) : LinkLaw (l.foldl f s) := by
  induction l generalizing s with
  | nil => exact h
  | cons x xs ih => exact ih (hf h)

theorem linkLaw_endHolds (h : LinkLaw s) : LinkLaw (endHolds p s) := by
  refine linkLaw_foldl (fun {s q} k => ?_) h
  unfold endHold
  split
  · split
    · exact linkLaw_offerPass k (by simp [*])
    · exact k
  · exact k

theorem link_returnCredit {q : Port} : ((returnCredit p s).port q).link = (s.port q).link := by
  unfold returnCredit
  simp only
  split
  · by_cases e : q = p
    · subst e; simp
    · simp [e]
  · rfl

theorem link_dropHead {q : Port} : ((dropHead p s).port q).link = (s.port q).link := by
  unfold dropHead takeCount
  rw [link_returnCredit]
  by_cases e : q = p
  · subst e; simp
  · simp [e]

theorem link_holdHead {x : Held} {q : Port} : ((holdHead p x s).port q).link = (s.port q).link := by
  by_cases e : q = p
  · subst e; simp [holdHead]
  · simp [holdHead, e]

theorem link_enqueue {f : TxFrame} {q r : Port} : ((enqueue s r f).port q).link = (s.port q).link := by
  by_cases e : q = r
  · subst e; simp
  · simp [e]

theorem link_enqueueAt {d : Fin 16} {f : TxFrame} {q : Port} : ((enqueueAt d f s).port q).link = (s.port q).link := by
  unfold enqueueAt
  split
  · rfl
  · exact link_enqueue

theorem link_offerUndeliverable {f : RxFrame} {q : Port} :
    ((offerUndeliverable p f s).port q).link = (s.port q).link := by
  unfold offerUndeliverable
  split
  · rw [link_dropHead, link_enqueue]
  · exact link_holdHead
  · exact link_dropHead

/-- Offering a PASS moves no port's link state (R28 to R31). -/
theorem link_offerPass {f : RxFrame} {q : Port} : ((offerPass p f s).port q).link = (s.port q).link := by
  unfold offerPass
  split
  · rw [link_dropHead, link_enqueueAt]
  · exact link_holdHead
  · unfold undeliverable
    simp only
    split
    · exact link_offerUndeliverable
    · exact link_dropHead

theorem link_endHolds {q : Port} : ((endHolds p s).port q).link = (s.port q).link := by
  unfold endHolds
  generalize indices 12 = l
  induction l generalizing s with
  | nil => rfl
  | cons x xs ih =>
    rw [List.foldl_cons, ih]
    unfold endHold
    split
    · split
      · exact link_offerPass
      · rfl
    · rfl

/-- What a port's departure does at the blocks moves no port's link state (R14). -/
theorem up_departure {q : Port} : (departure p s).up q = s.up q := by
  unfold departure
  rw [(calm_departureReports (.refl _)).up q]
  simp only [State.up, link_endHolds]
  rfl

theorem linkLaw_departure (h : LinkLaw s) : LinkLaw (departure p s) :=
  (linkLaw_endHolds (h.calm (calm_setBacklog (.refl _)))).calm (calm_departureReports (.refl _))

theorem linkBut_moveLink {f : LinkPort → LinkPort} (hf : Enters f) (ho : ∀ q, q ≠ p → PortLaw (s.port q))
    (hs : (s.port p).errorScore ≤ 16 ∧ (s.port p).goodFrames ≤ 63) : LinkLaw (moveLink p f s) := by
  have k : LinkLaw (s.setPort p (f (s.port p))) := by
    intro q
    by_cases e : q = p
    · subst e; rw [setPort_port_self]; exact hf _ hs.1 hs.2
    · rw [setPort_port_ne _ _ e]; exact ho q e
  unfold moveLink
  simp only
  split
  · exact linkLaw_departure k
  · exact k

theorem linkLaw_moveLink {f : LinkPort → LinkPort} (hf : Enters f) (h : LinkLaw s) : LinkLaw (moveLink p f s) :=
  linkBut_moveLink hf (fun q _ => h q) ⟨(h p).2.2.1, (h p).2.2.2.2.1⟩

theorem PortBut.score {l : LinkPort} (h : PortBut k l) : l.errorScore ≤ 16 ∧ l.goodFrames ≤ 63 := ⟨h.2.2.1, h.2.2.2.2.1⟩

/-! ### Scores and frames (R10 to R13) -/

/-- An error at a port keeps the accounts; a port that leaves UP by it has nothing on its way. -/
theorem linkBut_addError (h : LinkBut k p s) : LinkBut k p (addError p s) ∨ LinkLaw (addError p s) := by
  unfold addError
  simp only
  split
  · right
    refine linkBut_moveLink enters_faulted (fun q e => ?_) ?_
    · show PortLaw ((s.setPort p _).port q)
      rw [setPort_port_ne _ _ e]; exact h.2 q e
    · show ((s.setPort p _).port p).errorScore ≤ 16 ∧ ((s.setPort p _).port p).goodFrames ≤ 63
      rw [setPort_port_self]
      exact ⟨Nat.min_le_right _ _, h.1.score.2⟩
  · left
    rename_i hn
    refine h.setPort ⟨h.1.1, h.1.2.1, Nat.min_le_right _ _, fun u => ?_, h.1.2.2.2.2⟩
    have lt := h.1.2.2.2.1 u
    simp only [Config.scoreLimit, not_and] at hn
    have : ¬ 16 ≤ (s.port p).errorScore + 1 := fun x => hn x u
    show min ((s.port p).errorScore + 1) 16 < 16
    omega

theorem linkLaw_addError (h : LinkLaw s) : LinkLaw (addError p s) := by
  rcases linkBut_addError (p := p) (linkBut_zero.mpr h) with k | k
  · exact linkBut_zero.mp k
  · exact k

theorem portBut_countGood {l : LinkPort} (h : PortBut k l) : PortBut k (countGood l) := by
  unfold countGood
  have := h.score
  split
  · refine ⟨h.1, h.2.1, ?_, fun u => ?_, by simp, h.2.2.2.2.2⟩
    · show l.errorScore - 1 ≤ 16; omega
    · have := h.2.2.2.1 u
      show l.errorScore - 1 < 16; omega
  · rename_i hn
    refine ⟨h.1, h.2.1, h.2.2.1, h.2.2.2.1, ?_, h.2.2.2.2.2⟩
    simp only [Config.goodFrameSpan] at hn
    show l.goodFrames + 1 ≤ 63
    omega

theorem linkBut_goodFrame (h : LinkBut k p s) : LinkBut k p (goodFrame p s) := h.setPort (portBut_countGood h.1)

/-- The grant of one place is taken (R11, R12): the account closes. -/
theorem linkLaw_takeCount (h : LinkBut 1 p s) (hu : (s.port p).link = .up) : LinkLaw (takeCount p s) := by
  obtain ⟨a, b⟩ := h
  have w := a.1 hu
  have law : ∀ x : LinkPort, PortLaw x → LinkLaw (s.setPort p x) := fun x hx =>
    linkBut_zero.mp (LinkBut.setPort (k := 1) ⟨a, b⟩ hx)
  unfold takeCount returnCredit
  simp only [setPort_port_self]
  split
  · rw [setPort_setPort]
    refine law _ ?_
    refine portBut_returned (l := { s.port p with taken := (s.port p).taken + 1 }) (fun _ => ⟨?_, w.2.2.2⟩)
      (fun n => absurd hu n) a.2.2
    show (s.port p).granted + (s.port p).rx.length + ((s.port p).taken + 1) = 8
    omega
  · rename_i hc
    have hd := not_due hc
    refine law _ ⟨fun _ => ⟨?_, hd.1, fun e => ?_, w.2.2.2⟩, fun n => absurd hu n, a.2.2⟩
    · show (s.port p).granted + (s.port p).rx.length + ((s.port p).taken + 1) = 8
      omega
    · exact hd.2.resolve_right (absurd e)

theorem linkLaw_takeGrant (h : LinkBut 1 p s ∨ LinkLaw s) (hu : LinkLaw s → s.up p = false) : LinkLaw (takeGrant p s) := by
  unfold takeGrant
  split
  · rename_i u
    rcases h with h | h
    · exact linkLaw_takeCount h (by simpa [State.up] using u)
    · rw [hu h] at u; cases u
  · rename_i u
    rcases h with h | h
    · refine linkBut_zero (p := p) |>.mp ⟨h.1.off (by simpa [State.up] using u), h.2⟩
    · exact h

/-! ### Frames received (R5, R6, R9, R11, R13) -/

theorem portLaw_upPort {a : Announced} {l : LinkPort} (h : PortLaw l) (hl : l.link = .training) (ha : a.credits ≤ 15) :
    PortLaw (upPort a l) := by
  have n : l.link ≠ .up := by rw [hl]; decide
  have tx := (h.2.1 n).2.1
  refine ⟨fun _ => ⟨by simp [upPort, Config.rxPlaces], by simp [upPort], fun _ => rfl, ?_⟩, fun x => absurd rfl x,
    h.2.2.1, fun _ => h.2.2.2.1 (.inr hl), h.2.2.2.2.1, ?_⟩
  · show l.tx.length ≤ 16
    rw [tx]; simp
  · show a.credits ≤ 255; omega

theorem portLaw_restartedPort {a : Announced} {l : LinkPort} (h : PortLaw l) (hl : l.link = .up) (ha : a.credits ≤ 15) :
    PortLaw (restartedPort a l) := by
  have w := h.1 hl
  refine ⟨fun _ => ⟨?_, by simp [restartedPort], fun _ => rfl, w.2.2.2⟩, fun x => absurd hl x, h.2.2.1, h.2.2.2.1,
    h.2.2.2.2.1, ?_⟩
  · show Config.rxPlaces - l.rx.length + l.rx.length + 0 = 8
    simp only [Config.rxPlaces]
    omega
  · show a.credits ≤ 255; omega

theorem announceOf_credits {f : RxFrame} {a : Announced} (h : announceOf f = some a) : a.credits ≤ 15 := by
  unfold announceOf at h
  split at h
  · cases h
  · split at h
    · split at h
      · cases h
      · cases h
      · split at h
        · cases h
        · cases h
          exact Nat.le_of_not_lt (by assumption)
    · cases h

theorem linkLaw_takeAnnounced {a : Announced} (h : LinkLaw s) (hl : (s.port p).link = .training ∨ (s.port p).link = .up)
    (ha : a.credits ≤ 15) : LinkLaw (takeAnnounced p a s) := by
  have g : LinkLaw (goodFrame p s) := linkBut_zero.mp (linkBut_goodFrame (linkBut_zero.mpr h))
  have gl : ((goodFrame p s).port p).link = (s.port p).link := by
    simp only [goodFrame, setPort_port_self, countGood]
    split <;> rfl
  have k : LinkLaw ((goodFrame p s).setPort p { (goodFrame p s).port p with stationCode := a.station }) :=
    linkLaw_setPort g (g p)
  have kp : ((goodFrame p s).setPort p { (goodFrame p s).port p with stationCode := a.station }).port p =
      { (goodFrame p s).port p with stationCode := a.station } := setPort_port_self ..
  unfold takeAnnounced
  simp only
  split
  · exact linkLaw_moveLink enters_faulted (linkLaw_request k)
  · split
    · rename_i hu
      refine LinkLaw.calm ?_ (calm_restartReports (.refl _))
      refine linkLaw_setPort k (portLaw_restartedPort (k p) ?_ ha)
      rw [kp]
      show ((goodFrame p s).port p).link = .up
      rw [gl]
      simpa [State.up] using hu
    · rename_i hu
      refine LinkLaw.calm ?_ (calm_arrivalReports (.refl _))
      refine linkLaw_setPort k (portLaw_upPort (k p) ?_ ha)
      rw [kp]
      show ((goodFrame p s).port p).link = .training
      rw [gl]
      exact hl.resolve_right (by simpa [State.up] using hu)

theorem linkLaw_takeAnnounce {f : RxFrame} (h : LinkLaw s) : LinkLaw (takeAnnounce p f s) := by
  have k : (s.port p).link = .training ∨ (s.port p).link = .up → LinkLaw (match announceOf f with
      | none => addError p s
      | some a => takeAnnounced p a s) := by
    intro hl
    split
    · exact linkLaw_addError h
    · exact linkLaw_takeAnnounced h hl (announceOf_credits (by assumption))
  unfold takeAnnounce
  split
  · exact k (.inl (by assumption))
  · exact k (.inr (by assumption))
  all_goals exact h

theorem linkLaw_overrun (h : LinkLaw s) : LinkLaw (overrun p s) := linkLaw_addError (linkLaw_request h)

theorem linkBut_useGrant (h : LinkLaw s) (hu : (s.port p).link = .up) (hg : (s.port p).granted ≠ 0) :
    LinkBut 1 p (useGrant p s) := by
  refine LinkBut.setPort (linkBut_zero.mpr h) ⟨fun _ => ?_, fun n => absurd hu n, (h p).2.2⟩
  have w := (h p).1 hu
  refine ⟨?_, w.2⟩
  show (s.port p).granted - 1 + (s.port p).rx.length + (s.port p).taken + 1 = 8
  omega

theorem useGrant_link : ((useGrant p s).port p).link = (s.port p).link := by simp [useGrant]

/-- After an error a port is UP as it was, or has left UP (R10). -/
theorem linkLaw_afterError (h : LinkBut 1 p s) : LinkLaw (takeGrant p (addError p s)) := by
  unfold addError
  simp only
  split
  · rename_i hc
    have k : LinkLaw (moveLink p enterFaulted
        ((s.setPort p { s.port p with errorScore := min ((s.port p).errorScore + 1) Config.scoreLimit }).request
          .linkFault)) := by
      refine linkBut_moveLink enters_faulted (fun q e => ?_) ?_
      · show PortLaw ((s.setPort p _).port q)
        rw [setPort_port_ne _ _ e]; exact h.2 q e
      · show ((s.setPort p _).port p).errorScore ≤ 16 ∧ ((s.setPort p _).port p).goodFrames ≤ 63
        rw [setPort_port_self]
        exact ⟨Nat.min_le_right _ _, h.1.score.2⟩
    refine linkLaw_takeGrant (.inr k) (fun _ => ?_)
    unfold moveLink
    simp only
    split
    · rw [up_departure]; simp [State.up, enterFaulted]
    · simp [State.up, enterFaulted]
  · rename_i hn
    refine linkLaw_takeGrant (.inl ?_) (fun k => ?_)
    · refine h.setPort ⟨h.1.1, h.1.2.1, Nat.min_le_right _ _, fun u => ?_, h.1.2.2.2.2⟩
      have lt := h.1.2.2.2.1 u
      simp only [Config.scoreLimit, not_and] at hn
      have : ¬ 16 ≤ (s.port p).errorScore + 1 := fun x => hn x u
      show min ((s.port p).errorScore + 1) 16 < 16
      omega
    · by_contra x
      have u : (s.port p).link = .up := by simpa [State.up] using x
      have a := h.1.1 u
      have b := (k p).1 (by simpa [setPort_port_self] using u)
      rw [setPort_port_self] at b
      have b1 : (s.port p).granted + (s.port p).rx.length + (s.port p).taken = 8 := b.1
      omega

theorem linkLaw_takeCredit {f : RxFrame} (h : LinkLaw s) (hu : (s.port p).link = .up) (hg : (s.port p).granted ≠ 0) :
    LinkLaw (takeCredit p f s) := by
  have k := linkBut_useGrant h hu hg
  unfold takeCredit
  simp only
  split
  · exact linkLaw_afterError k
  · rename_i n _
    have g := linkBut_goodFrame k
    have gl : ((goodFrame p (useGrant p s)).port p).link = .up := by
      rw [← hu, ← useGrant_link (s := s) (p := p)]
      simp only [goodFrame, setPort_port_self, countGood]
      split <;> rfl
    have c : LinkBut 1 p ((goodFrame p (useGrant p s)).setPort p (addCredit n ((goodFrame p (useGrant p s)).port p))) := by
      refine g.setPort ⟨g.1.1, fun x => absurd gl x, g.1.2.2.1, g.1.2.2.2.1, g.1.2.2.2.2.1, ?_⟩
      exact Nat.min_le_right _ _
    refine linkLaw_takeGrant (.inl c) (fun l => ?_)
    exfalso
    have a := c.1.1 (by rw [setPort_port_self]; exact gl)
    have b := (l p).1 (by rw [setPort_port_self]; exact gl)
    omega

theorem linkLaw_creditFrame {f : RxFrame} (h : LinkLaw s) : LinkLaw (creditFrame p f s) := by
  unfold creditFrame
  split
  · split
    · exact linkLaw_overrun h
    · exact linkLaw_takeCredit h (by assumption) (by assumption)
  · exact linkBut_zero.mp (linkBut_goodFrame (linkBut_zero.mpr h))
  all_goals exact h

theorem linkLaw_queueFrame {f : RxFrame} (h : LinkLaw s) (hu : (s.port p).link = .up) (hg : (s.port p).granted ≠ 0) :
    LinkLaw (queueFrame p f s) := by
  have g := linkBut_goodFrame (linkBut_useGrant h hu hg)
  have gl : ((goodFrame p (useGrant p s)).port p).link = .up := by
    rw [← hu, ← useGrant_link (s := s) (p := p)]
    simp only [goodFrame, setPort_port_self, countGood]
    split <;> rfl
  have w := g.1.1 gl
  refine linkBut_zero.mp (g.setPort (j := 0) ⟨fun _ => ⟨?_, w.2.1, fun e => by simp at e, w.2.2.2⟩, fun x => absurd gl x,
    g.1.2.2⟩)
  simp only [List.length_append, List.length_singleton]
  omega

theorem linkLaw_receiveUp {f : RxFrame} (h : LinkLaw s) (hu : (s.port p).link = .up) : LinkLaw (receiveUp p f s) := by
  unfold receiveUp
  split
  · exact linkLaw_takeAnnounce h
  · split
    · exact linkLaw_creditFrame h
    · split
      · exact linkLaw_overrun h
      · exact linkLaw_queueFrame h hu (by assumption)

theorem linkLaw_failUp {b : List Byte} (h : LinkLaw s) (hu : (s.port p).link = .up) : LinkLaw (failUp p b s) := by
  unfold failUp
  split
  · exact linkLaw_overrun h
  · have k := linkBut_useGrant h hu (by assumption)
    unfold checkFailed
    split
    · exact linkLaw_afterError (s := (useGrant p s).request .mgmtCheck) k
    · exact linkLaw_afterError k

theorem linkLaw_frameArrival {b : List Byte} (h : LinkLaw s) : LinkLaw (frameArrival p b s) := by
  unfold frameArrival
  split
  · split
    · exact linkLaw_failUp h (by assumption)
    · exact linkLaw_receiveUp h (by assumption)
  · split
    · unfold checkFailed
      refine linkLaw_addError ?_
      split
      · exact linkLaw_request h
      · exact h
    · split
      · exact linkLaw_takeAnnounce h
      · exact linkBut_zero.mp (linkBut_goodFrame (linkBut_zero.mpr h))
  all_goals exact h

theorem linkLaw_signalDetect (h : LinkLaw s) : LinkLaw (signalDetect p s) := by
  unfold signalDetect
  simp only
  refine linkLaw_setPort h ?_
  split
  · exact enters_training _ (h p).2.2.1 (h p).2.2.2.2.1
  · exact h p

theorem linkLaw_signalLoss (h : LinkLaw s) : LinkLaw (signalLoss p s) := by
  have k : LinkLaw (s.setPort p { s.port p with carrier := false }) := linkLaw_setPort h (h p)
  unfold signalLoss
  simp only
  split
  case h_1 | h_2 | h_3 => exact linkLaw_moveLink enters_down k
  all_goals exact k

theorem linkLaw_frameTransmit (h : LinkLaw s) : LinkLaw (frameTransmit p s) := by
  unfold frameTransmit
  simp only
  split
  · rename_i f rest hu htx
    split
    · exact h
    · have w := (h p).1 hu
      have k : LinkLaw (s.setPort p
          { s.port p with tx := rest, txCredit := (s.port p).txCredit - 1, sent := (s.port p).sent ++ [f] }) := by
        refine linkLaw_setPort h ⟨fun _ => ⟨w.1, w.2.1, w.2.2.1, ?_⟩, fun x => absurd hu x, (h p).2.2.1, (h p).2.2.2.1,
          (h p).2.2.2.2.1, ?_⟩
        · have : (s.port p).tx.length ≤ 16 := w.2.2.2
          rw [htx] at this
          simp at this
          show rest.length ≤ 16
          omega
        · have := (h p).2.2.2.2.2
          show (s.port p).txCredit - 1 ≤ 255
          omega
      refine LinkLaw.calm ?_ (calm_notifyPlace (.refl _))
      split
      · exact LinkLaw.calm k (calm_setQueued (.refl _))
      · exact k
  · exact h

/-! ### Port entries (R2, R3, R8) -/

theorem linkLaw_moveForWrite {a b : PortEntry} (h : LinkLaw s) : LinkLaw (moveForWrite p a b s) := by
  unfold moveForWrite
  split
  · exact linkLaw_moveLink enters_disabled h
  · split
    · exact linkLaw_moveLink enters_down h
    · exact h

theorem linkLaw_applyEntry {e : PortEntry} (h : LinkLaw s) : LinkLaw (applyEntry p e s) := by
  have k := linkLaw_moveForWrite (p := p) (a := (s.port p).entry) (b := e)
    (linkLaw_setPort (p := p) (x := { s.port p with entry := e }) h (h p))
  unfold applyEntry
  dsimp only
  split
  · exact LinkLaw.calm k (calm_changeRole (.refl _))
  · exact LinkLaw.calm k (calm_retryClose (calm_changeRole (.refl _)))

theorem linkLaw_portWrite {n : Nat} {x : PortFields} (h : LinkLaw s) : LinkLaw (portWrite n x s).state := by
  unfold portWrite
  split
  · exact h
  · split
    · exact h
    · split
      · exact h
      · split
        · exact h
        · exact linkLaw_applyEntry h

theorem linkLaw_adminWrite {n : Nat} {b : Bool} (h : LinkLaw s) : LinkLaw (adminWrite n b s).state := by
  unfold adminWrite
  split
  · exact h
  · exact linkLaw_portWrite h

theorem linkLaw_portReset {n : Nat} (h : LinkLaw s) : LinkLaw (portReset n s).state := by
  unfold portReset
  split
  · exact h
  · rename_i q _
    show LinkLaw (resetPort q s)
    have k : LinkLaw (s.setBacklog q []) := h
    unfold resetPort
    simp only
    split
    · exact linkLaw_moveLink (enters_clear enters_disabled) k
    all_goals exact linkLaw_moveLink (enters_clear enters_down) k

theorem linkLaw_manage {r : Requester} {f : State → Answer} (hf : LinkLaw (f s).state) (h : LinkLaw s) :
    LinkLaw (manage r f s) := by
  unfold manage
  split
  · exact hf.calm (calm_placeReply (.refl _))
  · exact h

/-! ### The dispatcher (chapter 2) -/

theorem linkLaw_refuse {c : Condition} (h : LinkLaw s) (hr : (s.port p).rx ≠ []) : LinkLaw (refuse p c s) :=
  linkLaw_dropHead (linkLaw_request h) hr

theorem linkLaw_decidePass {f : RxFrame} (h : LinkLaw s) (hr : (s.port p).rx ≠ []) : LinkLaw (decidePass p f s) := by
  unfold decidePass
  split
  · split
    · exact linkLaw_refuse h hr
    · exact linkLaw_offerPass h hr
  · split
    · exact linkLaw_offerPass h hr
    · exact linkLaw_refuse h hr

theorem linkLaw_reoffer (h : LinkLaw s) : LinkLaw (reoffer p s) := by
  unfold reoffer
  split
  · exact linkLaw_offerPass h (by simp [*])
  · exact linkLaw_offerUndeliverable h (by simp [*])
  · exact h

theorem linkLaw_takeRequest {f : RxFrame} (h : LinkLaw s) (hr : (s.port p).rx ≠ []) : LinkLaw (takeRequest p f s) := by
  unfold takeRequest
  split
  · have k : LinkLaw ((dropHead p s).setSlot p { (dropHead p s).slot p with carried := .carrying }) :=
      (linkLaw_dropHead h hr).calm (calm_setSlot (.refl _))
    simp only
    split
    · exact k.calm (calm_placeReply (.refl _))
    · exact k
  · exact h

theorem linkLaw_handOver {k : Kind} {f : RxFrame} (h : LinkLaw s) (hr : (s.port p).rx ≠ []) :
    LinkLaw (handOver p k f s) := by
  unfold handOver
  split
  · split
    · exact linkLaw_refuse h hr
    · exact linkLaw_takeRequest h hr
  · split
    · exact linkLaw_refuse h hr
    · exact linkLaw_dropHead h hr

theorem linkLaw_decideFrame {f : RxFrame} (h : LinkLaw s) (hr : (s.port p).rx ≠ []) : LinkLaw (decideFrame p f s) := by
  have pick : ∀ {c : Prop} [Decidable c] {a b : State}, LinkLaw a → LinkLaw b → LinkLaw (if c then a else b) := by
    intro c _ a b ha hb
    split
    · exact ha
    · exact hb
  unfold decideFrame
  cases kindOf f.kind with
  | none => exact linkLaw_refuse h hr
  | some k =>
    exact pick (linkLaw_refuse h hr) (pick (linkLaw_decidePass h hr) (pick (linkLaw_refuse h hr)
      (pick (linkLaw_handOver h hr) (linkLaw_refuse h hr))))

theorem linkLaw_dispatchFrame (h : LinkLaw s) : LinkLaw (dispatchFrame p s) := by
  unfold dispatchFrame
  split
  · exact linkLaw_decideFrame h (by simp [*])
  · exact h

theorem linkLaw_passFrame (h : LinkLaw s) : LinkLaw (passFrame p s) := by
  unfold passFrame
  split
  · split
    · exact linkLaw_decidePass h (by simp [*])
    · exact h
  · exact linkLaw_reoffer h

theorem linkLaw_placeFree {o : Owner} (h : LinkLaw s) : LinkLaw (placeFree p o s) := by
  cases o with
  | dispatcher q =>
    unfold placeFree
    simp only
    split
    · exact linkLaw_reoffer h
    · exact h
  | management => exact h.calm (calm_offerReplies (.refl _))
  | admission => exact h.calm (calm_offerOutbound (.refl _))
  | transit => exact h.calm (calm_offerTransit (.refl _))
  | tally => exact h.calm (calm_offerOwedTally (.refl _))
  | counter => exact h.calm (calm_sendOwed (.refl _))
  | voucherReports => exact h.calm (calm_offerVoucherReports (.refl _))
  | faultReports => exact h.calm (calm_offerFaultReports (.refl _))

/-! ### State reports (R56) -/

theorem linkLaw_stateReport {x : CtxState} {r : Option StopReason} {q : Option Byte} (h : LinkLaw s) :
    LinkLaw (stateReport p x r q s) := by
  refine LinkLaw.calm ?_ (calm_evalOutputs (s0 := setReported p x (faultReportState p x r q (tallyReport p x s))) (.refl _))
  refine LinkLaw.calm ?_ (calm_cond (.refl _))
  unfold faultReportState
  have k : LinkLaw (tallyReport p x s) := h.calm (calm_tallyReport (.refl _))
  split
  · exact k
  · unfold shutdownReport
    have m : ∀ c : FaultContext, LinkLaw (lockReport c.reported x
        ((tallyReport p x s).setFaultContext p (some { c with reported := x, seq := q }))) := fun c =>
      (k.calm (calm_setFaultContext (.refl _))).calm (calm_lockReport (.refl _))
    split
    · exact linkLaw_request (linkLaw_applyEntry (m _))
    · exact m _

end Links

end Sys2Proof.Machine
end

