-- ==== Sys2Proof/Laws/Ops.lean ====
section
/-! SUPPORT. What the shared operations do, one lemma each: setting a cell to what it holds, an offer by its answer,
messages taken out of turn, and a management request that is taken at once. -/

namespace Sys2Proof.Machine

variable {s t : State} {p q : Port}

/-! ### Setting a cell to what it holds, and setting one twice -/

@[simp] theorem setPort_port_eta (s : State) (p : Port) : s.setPort p (s.port p) = s := by simp [State.setPort, State.port]

@[simp] theorem setSlot_slot_eta (s : State) (p : Port) : s.setSlot p (s.slot p) = s := by simp [State.setSlot, State.slot]

@[simp] theorem put_put {α : Type} {n : Nat} (v : Vector α n) (i : Fin n) (x y : α) : put (put v i x) i y = put v i y :=
  cell_ext fun j => by simp only [cell_put]; split <;> rfl

theorem setSlot_setSlot (s : State) (p : Port) (x y : ControllerSlot) : (s.setSlot p x).setSlot p y = s.setSlot p y := by
  simp [State.setSlot]

theorem setContext_setContext (s : State) (p : Port) (x y : Option Context) :
    (s.setContext p x).setContext p y = s.setContext p y := by
  simp [State.setContext]

theorem setSession_setSession (s : State) (p : Port) (x y : Option Session) :
    (s.setSession p x).setSession p y = s.setSession p y := by
  simp [State.setSession]

theorem setUnit_setUnit (s : State) (p : Port) (x y : Option CounterUnit) : (s.setUnit p x).setUnit p y = s.setUnit p y := by
  simp [State.setUnit]

/-! ### Offers (R14) -/

theorem offerAnswer_accepted : offerAnswer s p = .accepted ↔ (s.port p).link = .up ∧ (s.port p).tx.length < 16 := by
  unfold offerAnswer
  by_cases h : (s.port p).link = .up
  · by_cases k : Config.txPlaces ≤ (s.port p).tx.length
    · have : ¬ (s.port p).tx.length < 16 := by simpa [Config.txPlaces] using k
      simp [h, k, this]
    · have : (s.port p).tx.length < 16 := by simpa [Config.txPlaces] using k
      simp [h, k, this]
  · simp [h]

theorem offerAnswer_notUp : offerAnswer s p = .notUp ↔ (s.port p).link ≠ .up := by
  unfold offerAnswer
  by_cases h : (s.port p).link = .up
  · by_cases k : Config.txPlaces ≤ (s.port p).tx.length <;> simp [h, k]
  · simp [h]

/-! ### Messages taken out of turn (log entry 2) -/

/-- With no message of its kind waiting, nothing is taken. -/
theorem takeWaiting_none {mine : Instr → Bool} {take : State → Instr → State} (h : ∀ m ∈ s.mail, mine m = false) :
    takeWaiting mine take s = s := by
  have f : s.mail.filter mine = [] := by simpa using h
  simp [takeWaiting, f]

/-- With one message of its kind waiting, that one leaves the messages and is taken. -/
theorem takeWaiting_one {mine : Instr → Bool} {take : State → Instr → State} {a b : List Instr} {m : Instr}
    (hs : s.mail = a ++ m :: b) (hm : mine m = true) (h : ∀ x ∈ a ++ b, mine x = false) :
    takeWaiting mine take s = take { s with mail := a ++ b } m := by
  have fa : a.filter mine = [] := by simpa using fun x hx => h x (by simp [hx])
  have fb : b.filter mine = [] := by simpa using fun x hx => h x (by simp [hx])
  have ka : a.filter (fun x => !mine x) = a := List.filter_eq_self.mpr fun x hx => by simp [h x (by simp [hx])]
  have kb : b.filter (fun x => !mine x) = b := List.filter_eq_self.mpr fun x hx => by simp [h x (by simp [hx])]
  simp [takeWaiting, hs, List.filter_append, fa, fb, ka, kb, hm]

/-! ### Management requests (R172) -/

theorem takesRequest_of_serves (h : ServesRequests s p) : takesRequest s p = true := by
  obtain ⟨hr, -, -, hs, hm⟩ := h
  simp [takesRequest, hr, hs, hm, ControllerSlot.empty]

theorem mayTake_of_serves (h : ServesRequests s p) : mayTake s p = true := by
  simp [mayTake, takesRequest_of_serves h, h.2.2.2.1, ControllerSlot.empty]

theorem offerAnswer_of_serves (h : ServesRequests s p) : offerAnswer s p = .accepted :=
  offerAnswer_accepted.mpr ⟨by simpa [State.up] using h.2.1, h.2.2.1⟩

/-- A reply for an empty slot of a port that is UP with a free place joins the transmit queue at once, and the slot is empty
again. -/
theorem placeReply_empty {r : Requester} {st : Status} {d : ReplyData} (hs : s.slot r.port = .empty)
    (ha : offerAnswer s r.port = .accepted) : placeReply r st d s = enqueue s r.port (.mgmtReply ⟨r.tag, st, d⟩) := by
  have h2 : ∀ x, offerAnswer (s.setSlot r.port x) r.port = .accepted := fun _ => ha
  have h3 : ∀ x f, enqueue (s.setSlot r.port x) r.port f = (enqueue s r.port f).setSlot r.port x := fun _ _ => rfl
  have h4 : ∀ f, (enqueue s r.port f).slot r.port = s.slot r.port := fun _ => rfl
  have h5 : (enqueue s r.port (.mgmtReply ⟨r.tag, st, d⟩)).setSlot r.port .empty =
      enqueue s r.port (.mgmtReply ⟨r.tag, st, d⟩) := by
    have := setSlot_slot_eta (enqueue s r.port (.mgmtReply ⟨r.tag, st, d⟩)) r.port
    rwa [h4, hs] at this
  simp only [placeReply, hs, ControllerSlot.empty, offerReplies, offerSlot, settleOwed, setSlot_slot_self, h2, h3,
    setSlot_setSlot]
  simpa [ControllerSlot.empty] using h5

/-- What a management request does when its port is served: the owner's effect, and its answer as a reply at the tail of the
port's transmit queue, provided the owner leaves that port its slot and a place. -/
theorem manage_serves {r : Requester} {owner : State → Answer} (h : ServesRequests s r.port)
    (hs : (owner s).state.slot r.port = s.slot r.port) (ha : offerAnswer (owner s).state r.port = .accepted) :
    manage r owner s =
      enqueue (owner s).state r.port (.mgmtReply ⟨r.tag, (owner s).status, (owner s).data⟩) := by
  simp only [manage, mayTake_of_serves h, if_true]
  exact placeReply_empty (hs.trans h.2.2.2.1) ha

/-- A request that is not taken changes nothing. -/
theorem manage_refused {r : Requester} {owner : State → Answer} (h : mayTake s r.port = false) : manage r owner s = s := by
  simp [manage, h]

end Sys2Proof.Machine
end

