-- ==== Sys2Proof/WellFormed.lean ====
section
/-! DEFINITION. Which commands are well formed: the ranges of the fields that the manual bounds and the types of `Instr` do not.
A management request is well formed when every field fits the bytes R173 gives it. -/

namespace Sys2Proof.WellFormed

/-- A number of one byte (R173). -/
def byte (n : Nat) : Bool := decide (n < 256)
/-- A number of two bytes (R173). -/
def word (n : Nat) : Bool := decide (n < 65536)
/-- A number of three bytes (R173). -/
def triple (n : Nat) : Bool := decide (n < 16777216)

/-- A frame with a payload of at most 48 bytes (section 2.1) and a given kind code. -/
def frameOf (kind : Byte) (f : RxFrame) : Bool := f.kind == kind && decide (f.payload.length ≤ 48)

/-- A SIGHTING carries a bottle count for a crate alone (R21). -/
def sighting (x : Sighting) : Bool := x.count.isNone || x.shape == .crate

/-- A pitch of 1 to 15 (R90). -/
def pitch (n : Nat) : Bool := decide (1 ≤ n ∧ n ≤ 15)

/-- A segment list of 1 to 4 distinct numbers (R81). -/
def segments (l : List SegIx) : Bool := decide (1 ≤ l.length ∧ l.length ≤ 4 ∧ l.Nodup)

/-- A claim's copies of a line record (R81, R94). -/
def claim (c : Claim) : Bool :=
  decide (1 ≤ c.route.length ∧ c.route.length ≤ 6) && segments c.segments && pitch c.pitch &&
    decide (500 ≤ c.limit ∧ c.limit ≤ 60000)

/-- A credit with its split and class counts: 0 to 2 pairs, and a split that adds up to the credit (R63, R102). -/
def credit (c : ContainerCredit) : Bool :=
  decide (c.credit ≤ 999999) && decide (c.split.length ≤ 2) && decide (c.classes.length ≤ 2) &&
    decide ((c.split.map (·.2)).sum = c.credit)

/-- A state report carries a stop reason in STOPPED alone (R56, R57). -/
def report (state : CtxState) (reason : Option StopReason) : Bool := reason.isSome == (state == .stopped)

/-- A voucher request within the ranges of a session, its total the sum of its subtotals (R121, R138). -/
def voucher (x : VoucherRequest) : Bool :=
  decide (x.total ≤ 999999) && decide (x.containers ≤ 65535) && decide (x.kept ≤ 65535) &&
    decide (x.subtotals.toList.sum = x.total)

/-- The written fields of a port entry (R1, R173). -/
def portFields (x : PortFields) : Bool :=
  byte x.role && byte x.admin && byte x.counterPort && triple x.creditLimit &&
    decide (-32768 ≤ x.tare ∧ x.tare < 32768) && word x.holdLimit

/-- The written fields of a line record (R81, R173). -/
def lineFields (x : LineFields) : Bool :=
  byte x.route.length && (x.route.all fun h => byte h.1 && byte h.2.1 && byte h.2.2) && byte x.segments.length &&
    x.segments.all byte && byte x.binPort && byte x.overflow && byte x.nearFull && byte x.full && word x.transitLimit

/-- A crate part (R34, R173). -/
def crateFields (x : CrateFields) : Bool :=
  byte x.contentClass && byte x.capacity && word x.bottleMin && word x.bottleMax

/-- An article entry: the crate part follows exactly when the shape is CRATE (R173). -/
def articleFields (x : ArticleFields) : Bool :=
  byte x.depositClass && byte x.material && byte x.shape && byte x.line && (x.crate.isSome == (x.shape == 3)) &&
    match x.crate with
    | none => true
    | some k => crateFields k

/-- The written fields of a disposition (R150, R173). -/
def dispositionFields (x : DispositionFields) : Bool := byte x.action && byte x.keepLine && byte x.cls && byte x.report

/-- The written fields of a sense entry (R163, R173). -/
def senseFields (x : SenseFields) : Bool := byte x.function && byte x.line && word x.debounce

/-- The written fields of an output entry (R166, R173). -/
def outputFields (x : OutputFields) : Bool := byte x.function && byte x.operand && byte x.polarity && byte x.manual

end Sys2Proof.WellFormed

namespace Sys2Proof

open Sys2Proof.WellFormed in
/-- A well-formed command. -/
def wellFormed : Instr → Bool
  | .powerOnReset => true
  | .storeReadDone _ => true
  | .signalDetect _ => true
  | .signalLoss _ => true
  | .frameArrival _ _ => true
  | .announce _ f => frameOf 0x01 f
  | .credit _ f => frameOf 0x02 f
  | .frameTransmit _ => true
  | .placeFree _ _ => true
  | .frameDispatch _ => true
  | .pass _ => true
  | .sighting _ x => WellFormed.sighting x
  | .faultOutcome _ _ _ => true
  | .withdrawn _ _ => true
  | .returned _ _ => true
  | .dropped _ _ => true
  | .present _ => true
  | .finish _ => true
  | .headFault _ n _ => decide (22 ≤ n.val)
  | .gateAck _ _ _ _ _ => true
  | .passage _ _ _ _ => true
  | .arrival _ _ _ => true
  | .fill _ _ => true
  | .voucherDone _ _ _ => true
  | .holdTimerExpiry _ => true
  | .handoverTimerExpiry _ => true
  | .gateAckTimerExpiry _ => true
  | .transitTimerExpiry _ => true
  | .idleTimerExpiry _ => true
  | .replyTimerExpiry _ => true
  | .senseAssert _ => true
  | .senseRelease _ => true
  | .debounceTimerExpiry _ => true
  | .claim c => WellFormed.claim c
  | .containerRecord _ _ r => WellFormed.credit r.cargo.credit
  | .grantNotice _ _ _ _ _ n => pitch n
  | .reselectionNotice _ _ _ _ => true
  | .removalRequest _ => true
  | .releaseNotice _ _ _ n l => pitch n && segments l
  | .cancelRequest _ _ => true
  | .freeRequest _ _ => true
  | .gatesSetReport _ _ _ => true
  | .gateFault _ _ _ _ _ => true
  | .dropReport _ _ _ => true
  | .posting g => WellFormed.credit g.credit
  | .dropNote _ _ _ n => decide (n ≤ 999999)
  | .stateReport _ state reason _ => report state reason
  | .returnRequest _ => true
  | .returnAnswer _ _ _ => true
  | .closeCompleted _ => true
  | .roomStopReport _ => true
  | .binFullReport _ _ => true
  | .flagClear _ => true
  | .transitFault _ _ _ _ _ => true
  | .voucherRequest x => voucher x
  | .voucherPlaceFreed _ => true
  | .intakeDeparture _ => true
  | .intakeArrival _ _ => true
  | .portEventReport _ => true
  | .sorterDownReport _ => true
  | .counterPortReport _ _ => true
  | .conditionRequest _ => true
  | .lineStateReport _ _ => true
  | .readEntry _ table index => byte table && byte index
  | .lockRecordRead _ index => byte index
  | .portWrite _ index x => byte index && portFields x
  | .timerWrite _ index value => byte index && word value
  | .materialWrite _ index value => byte index && word value
  | .pitchWrite _ index value => byte index && byte value
  | .classWrite _ index _ scheme => byte index && byte scheme
  | .schemeWrite _ index rate => byte index && byte rate
  | .lineWrite _ index x => byte index && lineFields x
  | .segmentWrite _ index capacity => byte index && byte capacity
  | .dispositionWrite _ index x => byte index && dispositionFields x
  | .senseWrite _ index x => byte index && senseFields x
  | .outputWrite _ index x => byte index && outputFields x
  | .maskWrite _ index _ => byte index
  | .lockRecordWrite _ index _ => byte index
  | .articleInsert _ x => articleFields x
  | .articleReplace _ x => articleFields x
  | .articleDelete _ _ => true
  | .articleFind _ _ => true
  | .articleRead _ position => word position
  | .articleClear _ => true
  | .unlock _ _ => true
  | .relock _ => true
  | .clearConditions _ _ => true
  | .clearSense _ _ => true
  | .intakeResume _ port => byte port
  | .intakeStopControl _ port => byte port
  | .clearFault _ port => byte port
  | .portEnable _ port => byte port
  | .portDisable _ port => byte port
  | .portReset _ port => byte port
  | .lineEnable _ line => byte line
  | .lineDisable _ line => byte line
  | .counterResume _ port => byte port
  | .readState _ target index part => byte target && byte index && byte part
  | .softReset _ => true
  | .storeSave _ => true
  | .storeSaveDone _ => true

end Sys2Proof
end

