-- ==== Sys2Proof/Laws/PerInstr.lean ====
section
/-! SUPPORT. What the decoders make is well formed: the lemmas of the two decoders, and for each command the statement that the
frame or the request that spells it fits its bytes. -/

namespace Sys2Proof.Laws
open Sys2Proof.Machine

theorem toNat_byte (b : Byte) : WellFormed.byte b.toNat = true := decide_eq_true b.isLt

theorem byte_val {n : Nat} (h : n < 256) : WellFormed.byte n = true := decide_eq_true h

theorem number_two (a b : Byte) : number [a, b] < 65536 := by
  have := a.isLt; have := b.isLt; simp only [number, List.foldl]; omega

theorem number_three (a b c : Byte) : number [a, b, c] < 16777216 := by
  have := a.isLt; have := b.isLt; have := c.isLt; simp only [number, List.foldl]; omega

theorem takeHops_fits : ∀ (n : Nat) (l : List Byte) x, takeHops n l = some x →
    x.1.length = n ∧ (x.1.all fun h => WellFormed.byte h.1 && WellFormed.byte h.2.1 && WellFormed.byte h.2.2) = true
  | 0, _, _, h => by simp only [takeHops, Option.some.injEq] at h; subst h; exact ⟨rfl, rfl⟩
  | n + 1, p :: g :: q :: rest, x, h => by
    simp only [takeHops] at h
    split at h
    · cases h
    · rename_i y hy
      obtain ⟨h1, h2⟩ := takeHops_fits n rest y hy
      simp only [Option.some.injEq] at h; subst h
      exact ⟨by simp [h1], by simp [toNat_byte]; simpa using h2⟩
  | n + 1, [], _, h => by simp [takeHops] at h
  | n + 1, [_], _, h => by simp [takeHops] at h
  | n + 1, [_, _], _, h => by simp [takeHops] at h

theorem takeNumbers_fits : ∀ (n : Nat) (l : List Byte) x, takeNumbers n l = some x →
    x.1.length = n ∧ x.1.all WellFormed.byte = true
  | 0, _, _, h => by simp only [takeNumbers, Option.some.injEq] at h; subst h; exact ⟨rfl, rfl⟩
  | n + 1, b :: rest, x, h => by
    simp only [takeNumbers] at h
    split at h
    · cases h
    · rename_i y hy
      obtain ⟨h1, h2⟩ := takeNumbers_fits n rest y hy
      simp only [Option.some.injEq] at h; subst h
      exact ⟨by simp [h1], by simp [toNat_byte]; simpa using h2⟩
  | n + 1, [], _, h => by simp [takeNumbers] at h

theorem portFieldsOf_fits (l : List Byte) (x : PortFields) (h : portFieldsOf l = some x) :
    WellFormed.portFields x = true := by
  unfold portFieldsOf at h
  split at h
  · rename_i r a c l2 l1 l0 t1 t0 h1 h0
    cases h
    have := (t1 ++ t0).le_toInt
    have := (t1 ++ t0).toInt_lt
    have := number_three l2 l1 l0
    have := number_two h1 h0
    simp only [WellFormed.portFields, toNat_byte, WellFormed.triple, WellFormed.word, Bool.true_and, Bool.and_eq_true,
      decide_eq_true_eq]
    omega
  · cases h

theorem lineTail_fits {route : List (Nat × Nat × Nat)} {segments : List Nat} {l : List Byte} {x : LineFields}
    (hr : WellFormed.byte route.length = true)
    (ha : (route.all fun h => WellFormed.byte h.1 && WellFormed.byte h.2.1 && WellFormed.byte h.2.2) = true)
    (hs : WellFormed.byte segments.length = true) (hb : segments.all WellFormed.byte = true)
    (h : lineTail route segments l = some x) : WellFormed.lineFields x = true := by
  unfold lineTail at h
  split at h
  · cases h
    simp only [WellFormed.lineFields, hr, ha, hs, hb, toNat_byte, WellFormed.word, number_two, decide_true, Bool.and_true]
  · cases h

theorem lineFieldsOf_fits (l : List Byte) (x : LineFields) (h : lineFieldsOf l = some x) :
    WellFormed.lineFields x = true := by
  cases l with
  | nil => cases h
  | cons n rest =>
    simp only [lineFieldsOf] at h
    split at h
    · cases h
    rename_i a ha
    obtain ⟨h1, h2⟩ := takeHops_fits _ _ _ ha
    generalize a.2 = tail at h
    cases tail with
    | nil => cases h
    | cons m rest =>
      simp only [lineSegments] at h
      split at h
      · cases h
      rename_i b hb
      obtain ⟨h3, h4⟩ := takeNumbers_fits _ _ _ hb
      exact lineTail_fits (h1 ▸ toNat_byte n) h2 (h3 ▸ toNat_byte m) h4 h

theorem articleFieldsOf_fits (l : List Byte) (x : ArticleFields) (h : articleFieldsOf l = some x) :
    WellFormed.articleFields x = true := by
  unfold articleFieldsOf at h
  split at h
  · split at h
    · cases h
    · rename_i sh _ _ _ _ _ _ rest k hk
      cases h
      unfold crateFieldsOf at hk
      split at hk
      · split at hk <;> cases hk
        rename_i hs
        simp [WellFormed.articleFields, toNat_byte, hs]
      · split at hk <;> cases hk
        rename_i hs
        simp [WellFormed.articleFields, WellFormed.crateFields, toNat_byte, WellFormed.word, hs, number_two]
        rfl
      · cases hk
  · cases h

theorem writeCommand_fits (r : Requester) (t i : Nat) (hi : i < 256) (l : List Byte) (c : Instr)
    (h : writeCommand r t i l = some c) : wellFormed c = true := by
  have h0 := byte_val hi
  unfold writeCommand at h
  split at h
  · obtain ⟨x, hx, rfl⟩ := Option.map_eq_some_iff.mp h
    simp [wellFormed, h0, portFieldsOf_fits _ _ hx]
  · obtain ⟨a, b, rfl, rfl⟩ := oneWord_some h
    simp [wellFormed, h0, WellFormed.word, number_two]
  · obtain ⟨a, b, rfl, rfl⟩ := oneWord_some h
    simp [wellFormed, h0, WellFormed.word, number_two]
  · obtain ⟨a, rfl, rfl⟩ := oneByte_some h
    simp [wellFormed, h0, toNat_byte]
  · obtain ⟨a, b, k, rfl, rfl⟩ := classBytes_some h
    simp [wellFormed, h0, toNat_byte]
  · obtain ⟨a, rfl, rfl⟩ := oneByte_some h
    simp [wellFormed, h0, toNat_byte]
  · obtain ⟨x, hx, rfl⟩ := Option.map_eq_some_iff.mp h
    simp [wellFormed, h0, lineFieldsOf_fits _ _ hx]
  · obtain ⟨a, rfl, rfl⟩ := oneByte_some h
    simp [wellFormed, h0, toNat_byte]
  · obtain ⟨a, b, k, d, rfl, rfl⟩ := fourBytes_some h
    simp [wellFormed, h0, toNat_byte, WellFormed.dispositionFields]
  · obtain ⟨a, b, k, d, rfl, rfl⟩ := fourBytes_some h
    simp [wellFormed, h0, toNat_byte, WellFormed.senseFields, WellFormed.word, number_two]
  · obtain ⟨a, b, k, d, rfl, rfl⟩ := fourBytes_some h
    simp [wellFormed, h0, toNat_byte, WellFormed.outputFields]
  · obtain ⟨a, b, k, rfl, rfl⟩ := conditionBytes_some h
    simp [wellFormed, h0]
  · obtain ⟨x, hx, rfl⟩ := Option.map_eq_some_iff.mp h
    simp [wellFormed, h0]
  · cases h

theorem readRequest_wellFormed {r : Requester} {l : List Byte} {c : Instr} (h : readRequest r l = .command c) :
    wellFormed c = true := by
  unfold readRequest at h
  split at h
  · cases h
  split at h
  · cases h
  split at h
  · cases h
    split <;> simp [wellFormed, toNat_byte]
  · cases h

theorem writeRequest_wellFormed {r : Requester} {l : List Byte} {c : Instr} (h : writeRequest r l = .command c) :
    wellFormed c = true := by
  unfold writeRequest at h
  split at h
  · cases h
  split at h
  · cases h
  split at h
  · cases h
  · exact writeCommand_fits _ _ _ (BitVec.isLt _) _ _ (whenFits_command h)

theorem stateRequest_wellFormed {r : Requester} {l : List Byte} {c : Instr} (h : stateRequest r l = .command c) :
    wellFormed c = true := by
  unfold stateRequest at h
  split at h
  · cases h
  split at h
  · cases h
  split at h
  · cases h
    simp [wellFormed, toNat_byte]
  · cases h

theorem controlRequest_wellFormed {make : Nat → Nat → Request} {l : List Byte} {c : Instr}
    (hm : ∀ n op, WellFormed.byte n = true → make n op = .command c → wellFormed c = true)
    (h : controlRequest make l = .command c) : wellFormed c = true := by
  unfold controlRequest at h
  split at h
  · exact hm _ _ (toNat_byte _) h
  · cases h

theorem operationRequest_wellFormed {r : Requester} {x : List Byte} {c : Instr} :
    ∀ op, operationRequest r op x = .command c → wellFormed c = true
  | 0, h => readRequest_wellFormed h
  | 1, h => writeRequest_wellFormed h
  | 2, h => by
    obtain ⟨y, hy, rfl⟩ := Option.map_eq_some_iff.mp (whenFits_command h)
    exact articleFieldsOf_fits _ _ hy
  | 3, h => by
    obtain ⟨y, hy, rfl⟩ := Option.map_eq_some_iff.mp (whenFits_command h)
    exact articleFieldsOf_fits _ _ hy
  | 4, h => by obtain ⟨y, hy, rfl⟩ := Option.map_eq_some_iff.mp (whenFits_command h); rfl
  | 5, h => by obtain ⟨y, hy, rfl⟩ := Option.map_eq_some_iff.mp (whenFits_command h); rfl
  | 6, h => by
    obtain _ | ⟨a, _ | ⟨b, _ | ⟨d, y⟩⟩⟩ := x <;> cases h
    exact decide_eq_true (number_two a b)
  | 7, h => by obtain _ | ⟨a, y⟩ := x <;> cases h; rfl
  | 8, h => by obtain ⟨y, hy, rfl⟩ := Option.map_eq_some_iff.mp (whenFits_command h); rfl
  | 9, h => by obtain _ | ⟨a, y⟩ := x <;> cases h; rfl
  | 10, h => by obtain _ | ⟨a, _ | ⟨b, _ | ⟨d, _ | ⟨e, y⟩⟩⟩⟩ := x <;> cases h; rfl
  | 11, h => by obtain _ | ⟨a, _ | ⟨b, y⟩⟩ := x <;> cases h; rfl
  | 12, h => controlRequest_wellFormed (fun n op hn h => by
      unfold intakeRequest at h; split at h <;> cases h <;> exact hn) h
  | 13, h => controlRequest_wellFormed (fun n op hn h => by
      unfold portRequest at h; split at h <;> cases h <;> exact hn) h
  | 14, h => controlRequest_wellFormed (fun n op hn h => by
      unfold lineRequest at h; split at h <;> cases h <;> exact hn) h
  | 15, h => by obtain _ | ⟨a, _ | ⟨b, y⟩⟩ := x <;> cases h; exact toNat_byte a
  | 16, h => stateRequest_wellFormed h
  | 17, h => by obtain _ | ⟨a, y⟩ := x <;> cases h; rfl
  | 18, h => by obtain _ | ⟨a, y⟩ := x <;> cases h; rfl
  | n + 19, h => nomatch (show Request.refused .badValue = .command c from h)

/-- A management request that a payload spells is well formed. -/
theorem requestOf_wellFormed (r : Requester) (l : List Byte) (c : Instr) (h : requestOf r l = .command c) :
    wellFormed c = true := by
  cases l with
  | nil => cases h
  | cons op x => exact operationRequest_wellFormed _ h

theorem sightingOf_wellFormed {q c sh m k w n x} (h : sightingOf q c sh m k w n = some x) :
    WellFormed.sighting x = true := by
  unfold sightingOf at h
  split at h
  · rename_i s _ _ _ _ _
    cases h
    by_cases hs : s = .crate <;> simp [WellFormed.sighting, hs]
  · cases h

/-- The command that a station frame makes is well formed. -/
theorem stationCommand_wellFormed (p : Port) (k : Kind) (f : RxFrame) (c : Instr) (h : stationCommand p k f = some c) :
    wellFormed c = true := by
  unfold stationCommand at h
  split at h
  · split at h
    · cases h
    · rename_i x hx
      cases h
      unfold sightingPayload at hx
      split at hx
      · exact sightingOf_wellFormed hx
      · exact sightingOf_wellFormed hx
      · cases hx
  all_goals try (simp only [oneByte, noBytes] at h; split at h <;> cases h <;> rfl)
  · unfold headFaultPayload at h
    repeat (split at h <;> try cases h)
    rename_i hk
    simp [wellFormed]; omega
  · unfold gateAckPayload at h
    repeat (split at h <;> try cases h)
    rfl
  · unfold passagePayload at h
    repeat (split at h <;> try cases h)
    rfl
  · unfold arrivalPayload at h
    repeat (split at h <;> try cases h)
    rfl
  · unfold voucherDonePayload at h
    repeat (split at h <;> try cases h)
    rfl
  · cases h

/-- A command that a station frame or a management request spells is well formed. -/
def Family.Statement (i : Instr) : Prop :=
  (∀ p k f, stationCommand p k f = some i → wellFormed i = true) ∧
    ∀ r l, requestOf r l = .command i → wellFormed i = true

theorem decoded_wellFormed (i : Instr) : Family.Statement i :=
  ⟨fun p k f h => stationCommand_wellFormed p k f i h, fun r l h => requestOf_wellFormed r l i h⟩

theorem Family.powerOnReset : Family.Statement .powerOnReset := decoded_wellFormed _
theorem Family.storeReadDone (fitted : Option ConfigStore) : Family.Statement (.storeReadDone fitted) := decoded_wellFormed _
theorem Family.signalDetect (p : Port) : Family.Statement (.signalDetect p) := decoded_wellFormed _
theorem Family.signalLoss (p : Port) : Family.Statement (.signalLoss p) := decoded_wellFormed _
theorem Family.frameArrival (p : Port) (bytes : List Byte) : Family.Statement (.frameArrival p bytes) := decoded_wellFormed _
theorem Family.announce (p : Port) (f : RxFrame) : Family.Statement (.announce p f) := decoded_wellFormed _
theorem Family.credit (p : Port) (f : RxFrame) : Family.Statement (.credit p f) := decoded_wellFormed _
theorem Family.frameTransmit (p : Port) : Family.Statement (.frameTransmit p) := decoded_wellFormed _
theorem Family.placeFree (p : Port) (o : Owner) : Family.Statement (.placeFree p o) := decoded_wellFormed _
theorem Family.frameDispatch (p : Port) : Family.Statement (.frameDispatch p) := decoded_wellFormed _
theorem Family.pass (p : Port) : Family.Statement (.pass p) := decoded_wellFormed _
theorem Family.sighting (p : Port) (x : Sighting) : Family.Statement (.sighting p x) := decoded_wellFormed _
theorem Family.faultOutcome (p : Port) (n : FaultNo) (o : FaultResult) :
    Family.Statement (.faultOutcome p n o) := decoded_wellFormed _
theorem Family.withdrawn (p : Port) (seq : Byte) : Family.Statement (.withdrawn p seq) := decoded_wellFormed _
theorem Family.returned (p : Port) (seq : Byte) : Family.Statement (.returned p seq) := decoded_wellFormed _
theorem Family.dropped (p : Port) (seq : Byte) : Family.Statement (.dropped p seq) := decoded_wellFormed _
theorem Family.present (p : Port) : Family.Statement (.present p) := decoded_wellFormed _
theorem Family.finish (p : Port) : Family.Statement (.finish p) := decoded_wellFormed _
theorem Family.headFault (p : Port) (n : FaultNo) (code : Byte) : Family.Statement (.headFault p n code) := decoded_wellFormed _
theorem Family.gateAck (p : Port) (tag : Tag) (gen : Gen) (hop : HopIx) (result : GateResult) :
    Family.Statement (.gateAck p tag gen hop result) := decoded_wellFormed _
theorem Family.passage (p : Port) (tag : Tag) (gen : Gen) (gate : Gate) :
    Family.Statement (.passage p tag gen gate) := decoded_wellFormed _
theorem Family.arrival (p : Port) (tag : Tag) (gen : Gen) : Family.Statement (.arrival p tag gen) := decoded_wellFormed _
theorem Family.fill (p : Port) (percent : Fin 256) : Family.Statement (.fill p percent) := decoded_wellFormed _
theorem Family.voucherDone (p : Port) (number : Fin 65536) (result : VoucherResult) :
    Family.Statement (.voucherDone p number result) := decoded_wellFormed _
theorem Family.holdTimerExpiry (p : Port) : Family.Statement (.holdTimerExpiry p) := decoded_wellFormed _
theorem Family.handoverTimerExpiry (p : Port) : Family.Statement (.handoverTimerExpiry p) := decoded_wellFormed _
theorem Family.gateAckTimerExpiry (tag : Tag) : Family.Statement (.gateAckTimerExpiry tag) := decoded_wellFormed _
theorem Family.transitTimerExpiry (tag : Tag) : Family.Statement (.transitTimerExpiry tag) := decoded_wellFormed _
theorem Family.idleTimerExpiry (p : Port) : Family.Statement (.idleTimerExpiry p) := decoded_wellFormed _
theorem Family.replyTimerExpiry (p : Port) : Family.Statement (.replyTimerExpiry p) := decoded_wellFormed _
theorem Family.senseAssert (i : SenseIx) : Family.Statement (.senseAssert i) := decoded_wellFormed _
theorem Family.senseRelease (i : SenseIx) : Family.Statement (.senseRelease i) := decoded_wellFormed _
theorem Family.debounceTimerExpiry (i : SenseIx) : Family.Statement (.debounceTimerExpiry i) := decoded_wellFormed _
theorem Family.claim (c : Claim) : Family.Statement (.claim c) := decoded_wellFormed _
theorem Family.containerRecord (tag : Tag) (gen : Gen) (r : ContainerRecord) :
    Family.Statement (.containerRecord tag gen r) := decoded_wellFormed _
theorem Family.grantNotice (p : Port) (seq : Byte) (tag : Tag) (gen : Gen) (line : LineIx) (pitch : Nat) :
    Family.Statement (.grantNotice p seq tag gen line pitch) := decoded_wellFormed _
theorem Family.reselectionNotice (p : Port) (seq : Byte) (line : Option LineIx) (tried : LineIx) :
    Family.Statement (.reselectionNotice p seq line tried) := decoded_wellFormed _
theorem Family.removalRequest (p : Port) : Family.Statement (.removalRequest p) := decoded_wellFormed _
theorem Family.releaseNotice (tag : Tag) (gen : Gen) (line : LineIx) (pitch : Nat) (segments : List SegIx) :
    Family.Statement (.releaseNotice tag gen line pitch segments) := decoded_wellFormed _
theorem Family.cancelRequest (tag : Tag) (gen : Gen) : Family.Statement (.cancelRequest tag gen) := decoded_wellFormed _
theorem Family.freeRequest (tag : Tag) (gen : Gen) : Family.Statement (.freeRequest tag gen) := decoded_wellFormed _
theorem Family.gatesSetReport (p : Port) (tag : Tag) (gen : Gen) :
    Family.Statement (.gatesSetReport p tag gen) := decoded_wellFormed _
theorem Family.gateFault (p : Port) (kind : GateFaultKind) (tag : Tag) (gen : Gen) (hops : HopSet) :
    Family.Statement (.gateFault p kind tag gen hops) := decoded_wellFormed _
theorem Family.dropReport (p : Port) (tag : Tag) (gen : Gen) : Family.Statement (.dropReport p tag gen) := decoded_wellFormed _
theorem Family.posting (x : Posting) : Family.Statement (.posting x) := decoded_wellFormed _
theorem Family.dropNote (p : Port) (tag : Tag) (seq : Byte) (credit : Nat) :
    Family.Statement (.dropNote p tag seq credit) := decoded_wellFormed _
theorem Family.stateReport (p : Port) (state : CtxState) (reason : Option StopReason) (seq : Option Byte) :
    Family.Statement (.stateReport p state reason seq) := decoded_wellFormed _
theorem Family.returnRequest (p : Port) : Family.Statement (.returnRequest p) := decoded_wellFormed _
theorem Family.returnAnswer (p : Port) (returned : Bool) (state : CtxState) :
    Family.Statement (.returnAnswer p returned state) := decoded_wellFormed _
theorem Family.closeCompleted (p : Port) : Family.Statement (.closeCompleted p) := decoded_wellFormed _
theorem Family.roomStopReport (first : Bool) : Family.Statement (.roomStopReport first) := decoded_wellFormed _
theorem Family.binFullReport (line : LineIx) (first : Bool) :
    Family.Statement (.binFullReport line first) := decoded_wellFormed _
theorem Family.flagClear (p : Port) : Family.Statement (.flagClear p) := decoded_wellFormed _
theorem Family.transitFault (kind : TransitFaultKind) (tag : Tag) (gen : Gen) (intake : Port) (seq : Byte) :
    Family.Statement (.transitFault kind tag gen intake seq) := decoded_wellFormed _
theorem Family.voucherRequest (x : VoucherRequest) : Family.Statement (.voucherRequest x) := decoded_wellFormed _
theorem Family.voucherPlaceFreed (p : Port) : Family.Statement (.voucherPlaceFreed p) := decoded_wellFormed _
theorem Family.intakeDeparture (p : Port) : Family.Statement (.intakeDeparture p) := decoded_wellFormed _
theorem Family.intakeArrival (p : Port) (restart : Bool) : Family.Statement (.intakeArrival p restart) := decoded_wellFormed _
theorem Family.portEventReport (p : Port) : Family.Statement (.portEventReport p) := decoded_wellFormed _
theorem Family.sorterDownReport (p : Port) : Family.Statement (.sorterDownReport p) := decoded_wellFormed _
theorem Family.counterPortReport (p : Port) (up : Bool) : Family.Statement (.counterPortReport p up) := decoded_wellFormed _
theorem Family.conditionRequest (c : Condition) : Family.Statement (.conditionRequest c) := decoded_wellFormed _
theorem Family.lineStateReport (line : LineIx) (state : LineState) :
    Family.Statement (.lineStateReport line state) := decoded_wellFormed _
theorem Family.readEntry (r : Requester) (table index : Nat) :
    Family.Statement (.readEntry r table index) := decoded_wellFormed _
theorem Family.lockRecordRead (r : Requester) (index : Nat) : Family.Statement (.lockRecordRead r index) := decoded_wellFormed _
theorem Family.portWrite (r : Requester) (index : Nat) (x : PortFields) :
    Family.Statement (.portWrite r index x) := decoded_wellFormed _
theorem Family.timerWrite (r : Requester) (index value : Nat) :
    Family.Statement (.timerWrite r index value) := decoded_wellFormed _
theorem Family.materialWrite (r : Requester) (index value : Nat) :
    Family.Statement (.materialWrite r index value) := decoded_wellFormed _
theorem Family.pitchWrite (r : Requester) (index value : Nat) :
    Family.Statement (.pitchWrite r index value) := decoded_wellFormed _
theorem Family.classWrite (r : Requester) (index : Nat) (deposit : Fin 65536) (scheme : Nat) :
    Family.Statement (.classWrite r index deposit scheme) := decoded_wellFormed _
theorem Family.schemeWrite (r : Requester) (index rate : Nat) :
    Family.Statement (.schemeWrite r index rate) := decoded_wellFormed _
theorem Family.lineWrite (r : Requester) (index : Nat) (x : LineFields) :
    Family.Statement (.lineWrite r index x) := decoded_wellFormed _
theorem Family.segmentWrite (r : Requester) (index capacity : Nat) :
    Family.Statement (.segmentWrite r index capacity) := decoded_wellFormed _
theorem Family.dispositionWrite (r : Requester) (index : Nat) (x : DispositionFields) :
    Family.Statement (.dispositionWrite r index x) := decoded_wellFormed _
theorem Family.senseWrite (r : Requester) (index : Nat) (x : SenseFields) :
    Family.Statement (.senseWrite r index x) := decoded_wellFormed _
theorem Family.outputWrite (r : Requester) (index : Nat) (x : OutputFields) :
    Family.Statement (.outputWrite r index x) := decoded_wellFormed _
theorem Family.maskWrite (r : Requester) (index : Nat) (bits : BitVec 24) :
    Family.Statement (.maskWrite r index bits) := decoded_wellFormed _
theorem Family.lockRecordWrite (r : Requester) (index : Nat) (code : Key) :
    Family.Statement (.lockRecordWrite r index code) := decoded_wellFormed _
theorem Family.articleInsert (r : Requester) (x : ArticleFields) : Family.Statement (.articleInsert r x) := decoded_wellFormed _
theorem Family.articleReplace (r : Requester) (x : ArticleFields) :
    Family.Statement (.articleReplace r x) := decoded_wellFormed _
theorem Family.articleDelete (r : Requester) (code : ArticleCode) :
    Family.Statement (.articleDelete r code) := decoded_wellFormed _
theorem Family.articleFind (r : Requester) (code : ArticleCode) : Family.Statement (.articleFind r code) := decoded_wellFormed _
theorem Family.articleRead (r : Requester) (position : Nat) : Family.Statement (.articleRead r position) := decoded_wellFormed _
theorem Family.articleClear (r : Requester) : Family.Statement (.articleClear r) := decoded_wellFormed _
theorem Family.unlock (r : Requester) (key : Key) : Family.Statement (.unlock r key) := decoded_wellFormed _
theorem Family.relock (r : Requester) : Family.Statement (.relock r) := decoded_wellFormed _
theorem Family.clearConditions (r : Requester) (bits : BitVec 24) :
    Family.Statement (.clearConditions r bits) := decoded_wellFormed _
theorem Family.clearSense (r : Requester) (inputs : BitVec 8) : Family.Statement (.clearSense r inputs) := decoded_wellFormed _
theorem Family.intakeResume (r : Requester) (port : Nat) : Family.Statement (.intakeResume r port) := decoded_wellFormed _
theorem Family.intakeStopControl (r : Requester) (port : Nat) :
    Family.Statement (.intakeStopControl r port) := decoded_wellFormed _
theorem Family.clearFault (r : Requester) (port : Nat) : Family.Statement (.clearFault r port) := decoded_wellFormed _
theorem Family.portEnable (r : Requester) (port : Nat) : Family.Statement (.portEnable r port) := decoded_wellFormed _
theorem Family.portDisable (r : Requester) (port : Nat) : Family.Statement (.portDisable r port) := decoded_wellFormed _
theorem Family.portReset (r : Requester) (port : Nat) : Family.Statement (.portReset r port) := decoded_wellFormed _
theorem Family.lineEnable (r : Requester) (line : Nat) : Family.Statement (.lineEnable r line) := decoded_wellFormed _
theorem Family.lineDisable (r : Requester) (line : Nat) : Family.Statement (.lineDisable r line) := decoded_wellFormed _
theorem Family.counterResume (r : Requester) (port : Nat) : Family.Statement (.counterResume r port) := decoded_wellFormed _
theorem Family.readState (r : Requester) (target index part : Nat) :
    Family.Statement (.readState r target index part) := decoded_wellFormed _
theorem Family.softReset (r : Requester) : Family.Statement (.softReset r) := decoded_wellFormed _
theorem Family.storeSave (r : Requester) : Family.Statement (.storeSave r) := decoded_wellFormed _
theorem Family.storeSaveDone (how : SaveEnd) : Family.Statement (.storeSaveDone how) := decoded_wellFormed _

end Sys2Proof.Laws
end

