-- ==== Sys2Proof/Laws/Space.lean ====
section
/-! SUPPORT. The law of the reserved counts (R91, R92) at each place where a reservation begins, moves or ends: a grant, a claim
taken, an entry freed, a release notice taken. -/

namespace Sys2Proof.Machine

variable {s t : State}

/-- The law of the reserved counts for a list of reservations and the tables of a line unit (R91, R92). -/
def SpaceOf (rs : List Reservation) (u : LineUnit) : Prop :=
  (rs.map (·.tag)).Nodup ∧
  (∀ r ∈ rs, cell u.tags r.tag = ⟨false, r.gen⟩ ∧ r.segments.Nodup) ∧
  (∀ g, (cell u.segments g).reserved = ((rs.filter fun r => decide (g ∈ r.segments)).map (·.pitch)).sum) ∧
  ∀ l, (cell u.lines l).live = (rs.filter fun r => decide (r.line = l)).length

theorem spaceLaw_iff : SpaceLaw s ↔ SpaceOf (reservations s) s.lines := Iff.rfl

/-- The order of the reservations does not matter. -/
theorem SpaceOf.perm {rs qs : List Reservation} {u : LineUnit} (p : rs.Perm qs) (h : SpaceOf rs u) : SpaceOf qs u := by
  obtain ⟨h1, h2, h3, h4⟩ := h
  refine ⟨(p.map _).nodup_iff.1 h1, fun r hr => h2 r (p.mem_iff.2 hr), fun g => ?_, fun l => ?_⟩
  · rw [h3 g]; exact ((p.filter _).map _).sum_eq
  · rw [h4 l]; exact (p.filter _).length_eq

/-! ### Where reservations stand -/

/-- A message joins the reservations with its own, when it has one. -/
theorem reservations_post (m : Instr) : reservations (s.post m) = reservations s ++ (messageReservation m).toList := by
  have : (entryReservation (s.post m)) = entryReservation s := rfl
  simp only [reservations, this]
  rw [List.append_assoc]
  congr 1
  simp only [State.post, List.filterMap_append]
  cases h : messageReservation m <;> simp [h]

/-- States with the same entries in use and the same messages have the same reservations. -/
theorem reservations_congr (h : s.transit.entries = t.transit.entries) (hm : s.mail = t.mail) :
    reservations s = reservations t := by
  have : entryReservation s = entryReservation t := by
    funext k; simp only [entryReservation, State.entry, h]
  simp only [reservations, this, hm]

/-- One value of a function moved to the front of a list of all its values. -/
theorem filterMap_perm {α β : Type} [DecidableEq α] {f g : α → Option β} {a : α} {l : List α} (ha : a ∈ l) (hl : l.Nodup)
    (hf : ∀ b, b ≠ a → f b = g b) (hg : g a = none) : (l.filterMap f).Perm ((f a).toList ++ l.filterMap g) := by
  have he : ∀ b ∈ l.erase a, f b = g b := fun b hb => hf b fun e => by
    subst e; exact hl.not_mem_erase hb
  have h1 : (l.filterMap f).Perm ((a :: l.erase a).filterMap f) := (List.perm_cons_erase ha).filterMap f
  have h2 : (l.filterMap g).Perm ((a :: l.erase a).filterMap g) := (List.perm_cons_erase ha).filterMap g
  have h3 : (l.erase a).filterMap f = (l.erase a).filterMap g := List.filterMap_congr he
  have h4 : (a :: l.erase a).filterMap f = (f a).toList ++ (l.erase a).filterMap f := by
    cases h : f a <;> simp [h]
  have h5 : (a :: l.erase a).filterMap g = (l.erase a).filterMap g := by simp [hg]
  rw [h4, h3, ← h5] at h1
  exact h1.trans (h2.symm.append_left _)

/-- The reservations of a state with entry k replaced, against those with that entry FREE. -/
theorem reservations_setEntry (k : Tag) (e : Entry) (g : Gen) :
    (reservations (s.setEntry k e)).Perm
      ((e.use.map fun u => (⟨k, e.gen, u.line, u.pitch, u.segments⟩ : Reservation)).toList ++
        reservations (s.setEntry k (.free g))) := by
  simp only [reservations]
  rw [← List.append_assoc]
  refine List.Perm.append_right _ ?_
  have h := filterMap_perm (f := entryReservation (s.setEntry k e)) (g := entryReservation (s.setEntry k (.free g)))
    (mem_indices k) (List.nodup_finRange 64)
    (fun b hb => by simp [entryReservation, hb]) (by simp [entryReservation, Entry.free])
  have hk : entryReservation (s.setEntry k e) k =
      e.use.map fun u => (⟨k, e.gen, u.line, u.pitch, u.segments⟩ : Reservation) := by simp [entryReservation]
  rw [hk] at h
  exact h

/-! ### Grants and releases (R94, R95) -/

/-- A grant of a free tag adds its claim to the reservations (R94). -/
theorem space_grant {k : Tag} {p : Port} {q : Byte} {l : LineIx} {n : Nat} (h : SpaceLaw s)
    (hf : (cell s.lines.tags k).free = true) (hd : (s.line l).record.segments.Nodup) : SpaceLaw (grant k p q l n s) := by
  obtain ⟨h1, h2, h3, h4⟩ := h
  have hn : ∀ r ∈ reservations s, r.tag ≠ k := fun r hr e => by
    have := (h2 r hr).1
    rw [e] at this
    rw [this] at hf
    exact Bool.noConfusion hf
  let c : Reservation := ⟨k, claimGen s k, l, n, (s.line l).record.segments⟩
  have hr : reservations (grant k p q l n s) = reservations s ++ [c] := by
    unfold grant
    simp only
    rw [reservations_post]
    rfl
  have ht : (grant k p q l n s).lines.tags = put s.lines.tags k ⟨false, claimGen s k⟩ := rfl
  unfold SpaceLaw
  rw [hr]
  refine ⟨?_, fun r hm => ?_, fun g => ?_, fun m => ?_⟩
  · rw [List.map_append, List.nodup_append]
    refine ⟨h1, by simp, fun a ha b hb => ?_⟩
    obtain ⟨r, hr, rfl⟩ := List.mem_map.1 ha
    have : b = k := by simpa [c] using hb
    exact this ▸ hn r hr
  · rw [ht]
    rcases List.mem_append.1 hm with hm | hm
    · rw [cell_put_ne _ _ (hn r hm)]
      exact h2 r hm
    · obtain rfl := List.mem_singleton.1 hm
      exact ⟨by simp [c], hd⟩
  · show (cell (adjustSegments (reserve n) (s.line l).record.segments s.lines.segments) g).reserved = _
    rw [cell_adjustSegments _ hd, List.filter_append, List.map_append, List.sum_append, ← h3 g]
    by_cases hg : g ∈ (s.line l).record.segments <;> simp [hg, c, reserve]
  · rw [List.filter_append, List.length_append, ← h4 m]
    by_cases e : m = l
    · subst e; simp [grant, State.line, State.post, c]
    · have e' : l ≠ m := fun x => e x.symm
      simp [grant, State.line, State.post, c, e, e']

/-- A release notice taken gives back what its reservation held (R95). -/
theorem space_released {k : Tag} {g : Gen} {l : LineIx} {n : Nat} {q : List SegIx} {rs : List Reservation} {u : LineUnit}
    (h : SpaceOf (⟨k, g, l, n, q⟩ :: rs) u) : SpaceOf rs { u with
      segments := adjustSegments (unreserve n) q u.segments
      tags := put u.tags k ⟨true, g⟩
      lines := put u.lines l { cell u.lines l with live := (cell u.lines l).live - 1 } } := by
  obtain ⟨h1, h2, h3, h4⟩ := h
  have hc := List.nodup_cons.1 h1
  have hq : q.Nodup := (h2 _ List.mem_cons_self).2
  refine ⟨hc.2, fun r hr => ?_, fun x => ?_, fun m => ?_⟩
  · have hne : r.tag ≠ k := fun e => hc.1 (List.mem_map.2 ⟨r, hr, e⟩)
    simp only [cell_put_ne _ _ hne]
    exact h2 r (List.mem_cons_of_mem _ hr)
  · have hx := h3 x
    simp only [cell_adjustSegments _ hq]
    by_cases hg : x ∈ q <;> simp [hg, unreserve] at hx ⊢ <;> omega
  · have hm := h4 m
    by_cases e : m = l
    · subst e; simp at hm ⊢; omega
    · have e' : l ≠ m := fun y => e y.symm
      simpa [e, e'] using hm

/-- A message without a reservation changes none. -/
theorem space_post {m : Instr} (hm : messageReservation m = none) (h : SpaceLaw s) : SpaceLaw (s.post m) := by
  rw [spaceLaw_iff, reservations_post, hm]
  exact SpaceOf.perm (by simp) h

/-- A walk keeps the law of the reserved counts (R97), and every line's record. -/
theorem space_walk (hd : ∀ l, (s.line l).record.segments.Nodup) (h : SpaceLaw s) : SpaceLaw (walk s) := by
  suffices key : ∀ (q : List HoldEntry) (w : Walk), (∀ l, (w.state.line l).record = (s.line l).record) → SpaceLaw w.state →
      SpaceLaw (q.foldl walkEntry w).state from key _ ⟨[], [], false, s⟩ (fun _ => rfl) h
  intro q
  induction q with
  | nil => exact fun w _ hw => hw
  | cons e q ih =>
    intro w hl hw
    refine ih _ (fun l => ?_) ?_
    · unfold walkEntry
      split
      · exact hl l
      · split
        · exact hl l
        · split
          · exact hl l
          · split
            · rw [← hl l]
              simp only [grant, State.line, State.post]
              by_cases x : l = e.line
              · subst x; simp
              · simp [x]
            · exact hl l
    · unfold walkEntry
      split
      · exact hw
      · split
        · exact hw
        · rename_i k hk
          split
          · exact hw
          · split
            · exact space_post rfl (space_grant hw (List.find?_some (p := fun k => (cell w.state.lines.tags k).free) hk)
                (by rw [hl]; exact hd _))
            · exact hw

/-! ### Entries (R103, R108, R115, R117, R118) -/

/-- A claim taken moves its reservation from the messages to its entry (R103). -/
theorem space_claim {c : Claim} (h : SpaceLaw { s with mail := .claim c :: s.mail }) : SpaceLaw (takeClaim c s) := by
  rw [spaceLaw_iff] at h ⊢
  let r : Reservation := ⟨c.tag, c.gen, c.line, c.pitch, c.segments⟩
  have hr : (reservations { s with mail := .claim c :: s.mail }).Perm (r :: reservations s) := by
    have hm : ({ s with mail := .claim c :: s.mail } : State).mail.filterMap messageReservation =
        r :: s.mail.filterMap messageReservation := rfl
    have he : entryReservation { s with mail := .claim c :: s.mail } = entryReservation s := rfl
    simp only [reservations, hm, he]
    exact List.perm_middle
  have hs : SpaceOf (r :: reservations s) s.lines := h.perm hr
  have hu : (s.entry c.tag).use = none := by
    cases hu : (s.entry c.tag).use with
    | none => rfl
    | some u =>
      refine absurd ?_ (List.nodup_cons.1 hs.1).1
      refine List.mem_map.2 ⟨⟨c.tag, (s.entry c.tag).gen, u.line, u.pitch, u.segments⟩, ?_, rfl⟩
      refine List.mem_append_left _ (List.mem_filterMap.2 ⟨c.tag, mem_indices _, ?_⟩)
      simp [entryReservation, hu]
  refine SpaceOf.perm ?_ hs
  have h0 : reservations (s.setEntry c.tag (.free 0)) = reservations s := by
    have : entryReservation (s.setEntry c.tag (.free 0)) = entryReservation s := by
      funext k
      by_cases e : k = c.tag
      · subst e; simp [entryReservation, hu, Entry.free]
      · simp [entryReservation, e]
    have hm : (s.setEntry c.tag (.free 0)).mail = s.mail := rfl
    simp only [reservations, this, hm]
  have hp := reservations_setEntry (s := s) c.tag
    { state := .gating, gen := c.gen, step := some .awaitingRecord
      use := some { intake := c.intake, seq := c.seq, line := c.line, route := c.route, segments := c.segments,
                    pitch := c.pitch, limit := c.limit, ack := 0, refusal := 0 }
      record := none, hopIndex := none, heldRelease := false, timer := none } 0
  rw [h0] at hp
  exact hp.symm

/-- An entry freed moves its reservation to its release notice (R95, R108). -/
theorem space_freeEntry {k : Tag} {u : EntryUse} (hu : (s.entry k).use = some u) (h : SpaceLaw s) :
    SpaceLaw (freeEntry k (s.entry k).gen u s) := by
  rw [spaceLaw_iff] at h ⊢
  refine SpaceOf.perm ?_ h
  unfold freeEntry releaseOf
  rw [reservations_post]
  have hp := reservations_setEntry (s := s) k (s.entry k) (s.entry k).gen
  have hs : s.setEntry k (s.entry k) = s := by simp [State.setEntry, State.entry]
  rw [hs, hu] at hp
  exact hp.trans List.perm_append_comm

end Sys2Proof.Machine
end

