-- ==== Sys2Proof/Tests/Slice0.lean ====
section
/-! SUPPORT. The model's own tests: the ill-formed terms WellFormed refuses, the check value and frames of the manual, its worked
examples, and for every obligation with hypotheses a state and operands that meet them (clause by clause, at boundary values). -/

namespace Sys2Proof.Tests
open Sys2Proof.Machine

-- The tests are checked one after another: all at once they would start more threads than the memory limit allows.
set_option Elab.async false

/-- A port of `corner`: UP with a role, its account fresh. -/
def upPort (r : Role) (p : Port) : LinkPort :=
  { LinkPort.reset p with
    entry := { PortEntry.default p with role := r, counterPort := if r = .intake then some 4 else none }
    stationCode := 7, link := .up, carrier := true, granted := 8, txCredit := 1 }

/-- A bottle of class 3 for line 0 (section 4's example), and a crate of class 9 with 20 places for bottles of class 7 (section
3's). -/
def bottle : ArticleEntry :=
  { code := 4100250, depositClass := 3, material := .pet, shape := .bottleS, weightMin := 180, weightMax := 260, line := 0,
    active := true, markRequired := true, refillable := false, crate := none }
def crate : ArticleEntry :=
  { code := 5800000, depositClass := 9, material := .hdpe, shape := .crate, weightMin := 15000, weightMax := 17000, line := 0,
    active := true, markRequired := false, refillable := true, crate := some ⟨7, 20, 2000, 2400⟩ }

/-- Line 0 of `corner`: one gate of the sorter at port 2, the bin at port 3. -/
def lineZero : Line :=
  { record := { LineRecord.default 0 with route := [⟨2, 1, .left⟩], binPort := 3, materials := 63 }
    enabled := true, causes := ⟨false, false, false, false, false⟩, lastFill := 0, state := .opened, live := 0 }

/-- A small return corner in service: a controller at port 0, an intake at 1, a sorter at 2, a bin at 3, a counter at 4, all UP.
-/
def corner : State :=
  { State.reset with
    ports := perPort fun p =>
      if p = 0 then upPort .controller p else if p = 1 then upPort .intake p else if p = 2 then upPort .sorter p
      else if p = 3 then upPort .bin p else if p = 4 then upPort .counter p else LinkPort.reset p
    catalogue := { Catalogue.reset with
      articles := [bottle, crate]
      classes := put (put (put (Vector.replicate 32 ⟨0, 0⟩) 3 ⟨25, 0⟩) 7 ⟨8, 1⟩) 9 ⟨150, 0⟩ }
    admission := { contexts := put (Vector.replicate 12 none) 1 (some (.blank .idle)), roomStop := false }
    lines := { LineUnit.reset with
      lines := put LineUnit.reset.lines 0 lineZero, segments := Vector.replicate 12 ⟨10, 0⟩ }
    tally := { sessions := put (Vector.replicate 12 none) 1 (some { Session.new with reported := .idle }), closingWait := [] }
    vouchers := { State.reset.vouchers with units := put (Vector.replicate 12 none) 4 (some ⟨.ready, [], none, false⟩) }
    faults := { FaultUnit.reset with contexts := put (Vector.replicate 12 none) 1 (some ⟨false, .idle, none, none⟩) }
    mgmt := { State.reset.mgmt with loading := false } }

theorem serves_of {s : State} {p : Port} (h : s.role p = .controller ∧ s.up p = true ∧ (s.port p).tx.length < 16 ∧
    s.slot p = .empty ∧ s.mail.any keepsOthersOut = false) : ServesRequests s p := h

theorem corner_serves : ServesRequests corner 0 := serves_of (by decide +kernel)
theorem corner_articles : ArticleLaw corner := by unfold ArticleLaw; decide +kernel
theorem corner_links : LinkLaw corner := by unfold LinkLaw PortLaw; decide +kernel


/-- `corner` with port p passed through f. -/
def onPort (p : Port) (f : LinkPort → LinkPort) : State := corner.setPort p (f (corner.port p))
/-- `corner` with the intake's context c. -/
def onContext (c : Context) : State := corner.setContext 1 (some c)
/-- `corner` with the intake's session passed through f. -/
def onSession (f : Session → Session) : State := corner.setSession 1 (some (f Session.new))
/-- `corner` with the counter unit u. -/
def onUnit (u : CounterUnit) : State := corner.setUnit 4 (some u)
/-- `corner` with transit entry 5. -/
def onEntry (e : Entry) : State := corner.setEntry 5 e
/-- The transmit queue of port p full. -/
def full (p : Port) (s : State) : State := s.setPort p { s.port p with tx := List.replicate 16 (.intake .go) }
/-- A frame of a kind with a payload. -/
def frame (kind : Byte) (payload : List Byte) : RxFrame := ⟨15, kind, 0, 0, payload⟩

/-- The state after a command. -/
def stateAfter (i : Instr) (s : State) : State :=
  match exec i s with
  | .next t => t
  | .fault _ => s
  | .refused _ => s

/-! ### Well-formed commands -/

theorem test_wellFormed_accepts : wellFormed (.announce 1 (frame 0x01 [1, 15, 7])) = true ∧
    wellFormed (.headFault 1 22 0) = true ∧ wellFormed (.stateReport 1 .stopped (some .start) none) = true := by decide

theorem test_wellFormed_refuses_frames : wellFormed (.announce 1 (frame 0x02 [])) = false ∧
    wellFormed (.announce 1 (frame 0x01 (List.replicate 49 0))) = false ∧ wellFormed (.credit 1 (frame 0x01 [])) = false ∧
    wellFormed (.sighting 1 ⟨0, 1, .can, none, .seen, 0, some 3⟩) = false ∧ wellFormed (.headFault 1 21 0) = false := by decide

theorem test_wellFormed_refuses_messages :
    wellFormed (.claim ⟨0, 0, 1, 0, 0, [], [0], 12000, 1⟩) = false ∧
    wellFormed (.claim ⟨0, 0, 1, 0, 0, List.replicate 7 ⟨2, 0, .pass⟩, [0], 12000, 1⟩) = false ∧
    wellFormed (.claim ⟨0, 0, 1, 0, 0, [⟨2, 0, .pass⟩], [0], 499, 1⟩) = false ∧
    wellFormed (.claim ⟨0, 0, 1, 0, 0, [⟨2, 0, .pass⟩], [0, 0], 12000, 1⟩) = false ∧
    wellFormed (.grantNotice 1 0 0 0 0 0) = false ∧ wellFormed (.grantNotice 1 0 0 0 0 16) = false ∧
    wellFormed (.releaseNotice 0 0 0 1 []) = false ∧ wellFormed (.releaseNotice 0 0 0 1 [0, 1, 2, 3, 4]) = false ∧
    wellFormed (.posting ⟨1, 0, 0, ⟨25, [(0, 24)], [(3, 1)]⟩, false⟩) = false ∧
    wellFormed (.containerRecord 0 0 ⟨1, 41, ⟨1, false, ⟨1000000, [(0, 1000000)], []⟩⟩⟩) = false ∧
    wellFormed (.posting ⟨1, 0, 0, ⟨0, [(0, 0), (0, 0), (0, 0)], []⟩, false⟩) = false ∧
    wellFormed (.posting ⟨1, 0, 0, ⟨0, [], [(0, 0), (0, 0), (0, 0)]⟩, false⟩) = false ∧
    wellFormed (.dropNote 1 0 0 1000000) = false ∧ wellFormed (.stateReport 1 .idle (some .start) none) = false ∧
    wellFormed (.voucherRequest ⟨4, 1, #v[10, 0, 0, 0], 11, 1, 0⟩) = false ∧
    wellFormed (.voucherRequest ⟨4, 1, #v[10, 0, 0, 0], 10, 65536, 0⟩) = false := by decide

theorem test_wellFormed_refuses_requests :
    wellFormed (.readEntry ⟨0, 0⟩ 256 0) = false ∧ wellFormed (.lockRecordRead ⟨0, 0⟩ 256) = false ∧
    wellFormed (.portWrite ⟨0, 0⟩ 1 ⟨1, 0, 4, 16777216, 0, 8000⟩) = false ∧
    wellFormed (.portWrite ⟨0, 0⟩ 1 ⟨1, 0, 4, 1, 32768, 8000⟩) = false ∧
    wellFormed (.timerWrite ⟨0, 0⟩ 0 65536) = false ∧ wellFormed (.pitchWrite ⟨0, 0⟩ 0 256) = false ∧
    wellFormed (.lineWrite ⟨0, 0⟩ 0 ⟨[(256, 0, 0)], [0], 3, 255, 63, 80, 95, 12000⟩) = false ∧
    wellFormed (.lineWrite ⟨0, 0⟩ 0 ⟨[(2, 0, 0)], [256], 3, 255, 63, 80, 95, 12000⟩) = false ∧
    wellFormed (.articleInsert ⟨0, 0⟩ ⟨1, 0, 0, 3, 0, 0, 0, true, false, true, none⟩) = false ∧
    wellFormed (.articleReplace ⟨0, 0⟩ ⟨1, 0, 0, 3, 0, 0, 0, true, false, true, some ⟨0, 1, 65536, 0⟩⟩) = false ∧
    wellFormed (.dispositionWrite ⟨0, 0⟩ 0 ⟨256, 0, 0, 0⟩) = false ∧ wellFormed (.senseWrite ⟨0, 0⟩ 0 ⟨0, 0, 65536⟩) = false ∧
    wellFormed (.outputWrite ⟨0, 0⟩ 0 ⟨0, 0, 0, 256⟩) = false ∧ wellFormed (.articleRead ⟨0, 0⟩ 65536) = false ∧
    wellFormed (.intakeResume ⟨0, 0⟩ 256) = false ∧ wellFormed (.readState ⟨0, 0⟩ 0 0 256) = false := by decide

/-! ### The manual's words and worked examples -/

/-- R9: over the nine bytes of the text "123456789" the check value is 0x29B1. -/
theorem test_checkValue_of_the_manual :
    checkValue [0x31, 0x32, 0x33, 0x34, 0x35, 0x36, 0x37, 0x38, 0x39] = 0x29B1 := by decide +kernel

/-- Section 2.1, R9: an ANNOUNCE of an INTAKE with 4 credits and station code 9, written out; one bit flipped fails the check. -/
theorem test_announce_is_read_back :
    checkFrame ([0xF0, 0x01, 0x00, 0x00, 0x03, 0x01, 0x04, 0x09] ++
      twoBytes (checkValue [0xF0, 0x01, 0x00, 0x00, 0x03, 0x01, 0x04, 0x09])) = some ⟨15, 1, 0, 0, [1, 4, 9]⟩ ∧
    checkFrame ([0xF0, 0x01, 0x00, 0x00, 0x03, 0x01, 0x05, 0x09] ++
      twoBytes (checkValue [0xF0, 0x01, 0x00, 0x00, 0x03, 0x01, 0x04, 0x09])) = none := by decide +kernel

/-- Section 2.3, R21: a SIGHTING of code 4,100,250 (0x3E909A), BOTTLE_S, GLASS, mark SEEN, 2,100 dg. -/
theorem test_sighting_is_read : stationCommand 1 .sighting
    (frame 0x10 [7, 0, 0, 0, 0x3E, 0x90, 0x9A, 1, 1, 0, 0x08, 0x34]) =
      some (.sighting 1 ⟨7, 4100250, .bottleS, some .glass, .seen, 2100, none⟩) := by decide +kernel

/-- Section 2.3: a GATE_ACK of hop 5 with BUSY, under tag 63 and generation 15; tag 64 fails the form check. -/
theorem test_gateAck_is_read :
    stationCommand 2 .gateAck ⟨15, 0x32, 63, 15, [5, 3]⟩ = some (.gateAck 2 63 15 5 .busy) ∧
    stationCommand 2 .gateAck ⟨15, 0x32, 64, 15, [5, 3]⟩ = none := by decide +kernel

/-- Section 2.2, R27: the other station frames, and the largest values their fields take. -/
theorem test_other_frames_are_read :
    stationCommand 3 .fill (frame 0x41 [0xFF]) = some (.fill 3 255) ∧
    stationCommand 4 .voucherDone (frame 0x51 [0xFF, 0xFE, 2]) = some (.voucherDone 4 65534 .refused) ∧
    stationCommand 1 .headFault (frame 0x16 [31, 200]) = some (.headFault 1 31 200) ∧
    stationCommand 1 .headFault (frame 0x16 [21, 200]) = none ∧ stationCommand 1 .present (frame 0x14 [0]) = none := by
  decide +kernel

/-- R173 to R175: requests written out: READ_ENTRY of a class, WRITE_ENTRY of a class and of a port with tare −500, a
request too short, an unknown table, an unknown operation. -/
theorem test_requests_are_read :
    requestOf ⟨0, 1⟩ [0, 4, 31] = .command (.readEntry ⟨0, 1⟩ 4 31) ∧
    requestOf ⟨0, 1⟩ [1, 4, 3, 0x01, 0x00, 2] = .command (.classWrite ⟨0, 1⟩ 3 256 2) ∧
    requestOf ⟨0, 1⟩ [1, 0, 1, 1, 0, 255, 0x01, 0x86, 0xA0, 0xFE, 0x0C, 0x1F, 0x40] =
      .command (.portWrite ⟨0, 1⟩ 1 ⟨1, 0, 255, 100000, -500, 8000⟩) ∧
    requestOf ⟨0, 1⟩ [0, 4] = .refused .badValue ∧ requestOf ⟨0, 1⟩ [0, 13, 0] = .refused .badTable ∧
    requestOf ⟨0, 1⟩ [19] = .refused .badValue := by decide +kernel

/-- Section 3's worked example of the article table, steps 2, 3 and 5: an entry refused, a duplicate, a delete. -/
theorem test_article_examples :
    (articleInsert ⟨6000001, 0, 0, 3, 0, 0, 0, true, false, true, none⟩ corner).status = .badValue ∧
    (articleInsert ⟨5800000, 9, 4, 1, 0, 1, 0, true, false, false, none⟩ corner).data = .article (some 1) none 2 ∧
    (articleDelete 4100250 corner).state.catalogue.articles = [crate] := by decide +kernel

/-- Section 3's worked example of the tariff lock, steps 1, 2, 4 and 8. -/
theorem test_lock_examples :
    (classWrite 3 25 1 corner).status = .locked ∧ (lockRead 0 corner).state.catalogue.lock = .opened ∧
    (schemeWrite 1 300 (withLock corner .opened)).status = .doneClamped ∧
    (unlock 5 (withLock corner .opened)).state.catalogue.lock = .locked := by decide +kernel

/-- R139: a session of 310 at rate 15 and one of 45 at rate 100 earn 4 each. -/
theorem test_bonuses_of_the_manual :
    bonuses #v[310, 45, 0, 0] #v[15, 100, 0, 0] = #v[4, 4, 0, 0] := by decide +kernel

/-- R62: overload, and the last weight that passes with the note DAMP. -/
theorem test_weights :
    weightVerdict 65535 0 0 65535 2000 = .residue ∧ weightVerdict 2460 0 2000 2400 60 = .damp ∧
    weightVerdict 2461 0 2000 2400 60 = .residue ∧ weightVerdict 10 500 0 5 0 = .pass := by decide +kernel

/-! ### Witnesses: states and operands that meet the hypotheses of the obligations -/

/-- The intake's context of chapter 4's example, in a state of a container with chamber seq 41. -/
def chamber (x : CtxState) : Context :=
  { Context.blank x with seq := some 41, credit := some ⟨25, [(0, 25)], [(3, 1)]⟩, line := some 0, pitch := some 2 }
/-- The sighting of chapter 4's example. -/
def seen : Sighting := ⟨41, 4100250, .bottleS, some .pet, .seen, 247, none⟩
/-- A use of line 0 by the intake. -/
def use : EntryUse := ⟨1, 41, 0, [⟨2, 1, .left⟩], [0], 2, 12000, 0, 0⟩
/-- A transit entry in use. -/
def inUse (x : EntryState) (step : Option GatingStep) (u : EntryUse) : Entry :=
  { state := x, gen := 15, step := step, use := some u, record := some ⟨4100250, false, ⟨25, [(0, 25)], [(3, 1)]⟩⟩,
    hopIndex := some 0, heldRelease := false, timer := some 3 }
/-- A voucher record. -/
def record (n : Fin 65536) : VoucherRecord := ⟨n, 1, #v[25, 0, 0, 0], #v[0, 0, 0, 0], 25, 1, 0, .sent⟩

theorem witness_StepWithoutACommand :
    ({ corner with mail := [.flagClear 1] } : State).pending = [] ∧ corner.pending = [] ∧ corner.mail = [] ∧
    ownCommand (enqueue corner 1 (.intake .go)) = some (.frameTransmit 1) ∧ ownCommand corner = none := by decide +kernel

theorem witness_LinkStatesMove :
    ((onPort 1 fun l => { l with errorScore := 14 }).port 1).errorScore < 15 ∧
    (15 ≤ ((onPort 1 fun l => { l with link := .training, errorScore := 15 }).port 1).errorScore ∧
      ((onPort 1 fun l => { l with link := .training, errorScore := 15 }).port 1).link = .training) ∧
    (15 ≤ ((onPort 1 fun l => { l with errorScore := 15 }).port 1).errorScore ∧
      ((onPort 1 fun l => { l with errorScore := 15 }).port 1).link = .up) ∧
    (15 ≤ ((onPort 1 fun l => { l with link := .faulted, errorScore := 16 }).port 1).errorScore ∧
      ((onPort 1 fun l => { l with link := .faulted, errorScore := 16 }).port 1).link = .faulted) := by decide +kernel

theorem witness_OwnersAreToldOfThePort :
    corner.role 11 = .unused ∧ corner.role 1 = .intake ∧ corner.role 2 = .sorter ∧ corner.role 3 = .bin ∧
    corner.role 4 = .counter ∧ corner.role 0 = .controller ∧
    (let f : RxFrame := ⟨11, 0x70, 3, 0, []⟩
     let s := onPort 0 fun l => { l with held := some .pass, rx := [f] }
     let u := onPort 1 fun l => { l with held := some .pass, rx := [f] }
     (s.port 0).held = some .pass ∧ (s.port 0).rx = [f] ∧ f.dst.val = 11 ∧ (s.port 11).link ≠ .up ∧ s.role 0 = .controller ∧
       (u.port 1).held = some .pass ∧ (u.port 1).rx = [f] ∧ u.role 1 ≠ .controller ∧
       (corner.port 1).held ≠ some .pass ∧ f.dst.val ≠ 10) := by decide +kernel

/-- R31: a PASS of the intake held for the controller port goes when that port leaves UP. -/
theorem test_departure_ends_the_hold :
    let s := onPort 1 fun l => { l with held := some .pass, rx := [⟨0, 0x70, 3, 0, []⟩], granted := 7 }
    let t := stateAfter (.signalLoss 0) s
    (t.port 1).rx = [] ∧ (t.port 1).held = none ∧ .conditionRequest .undeliverable ∈ t.mail := by decide +kernel

/-- Section 2's worked example, step 8: a PASS of the controller held for the sorter stays held when the sorter's port leaves
UP. -/
theorem test_controllers_pass_stays_held :
    let s := onPort 0 fun l => { l with held := some .pass, rx := [⟨2, 0x70, 3, 0, []⟩], granted := 7 }
    let t := stateAfter (.signalLoss 2) s
    (t.port 0) = s.port 0 ∧ .conditionRequest .undeliverable ∉ t.mail := by decide +kernel

theorem witness_AnnouncesAreTaken :
    ((frame 1 [1, 15, 255]).dst = 15 ∧ decodeName roles (1 : Byte).toNat = some .intake ∧ (15 : Byte).toNat ≤ 15) ∧
    (decodeName roles (5 : Byte).toNat = some .controller ∧ (0 : Byte).toNat ≤ 15) ∧
    ((onPort 1 fun l => { l with link := .training }).port 1).link = .training ∧ Role.intake = corner.role 1 ∧
    (corner.port 1).link = .up ∧ Role.controller ≠ corner.role 1 ∧
    ((onPort 1 fun l => { l with link := .down }).port 1).link ≠ .up ∧
    (⟨14, 1, 0, 0, [1, 15, 0]⟩ : RxFrame).dst ≠ 15 ∧ (frame 1 [1, 15]).payload.length ≠ 3 ∧
    5 < (6 : Byte).toNat ∧ (0 : Byte).toNat = 0 ∧ 15 < (16 : Byte).toNat := by decide +kernel

theorem witness_CreditsAreTaken :
    ((corner.port 1).link = .up ∧ 0 < (corner.port 1).granted ∧ (frame 2 [1]).payload = [1] ∧ 1 ≤ (1 : Byte).toNat ∧
      (15 : Byte).toNat ≤ 15) ∧
    ((onPort 1 fun l => { l with granted := 0 }).port 1).granted = 0 ∧ (frame 2 []).payload.length ≠ 1 ∧
    (0 : Byte).toNat = 0 ∧ 15 < (16 : Byte).toNat ∧ ((onPort 1 fun l => { l with link := .training }).port 1).link = .training ∧
    ((onPort 1 fun l => { l with link := .disabled }).port 1).link = .disabled := by decide +kernel

/-- Chapter 1's credit example, steps 4 and 6: one frame of two taken sends no CREDIT, the last one sends a CREDIT of 3. -/
theorem test_credit_example :
    let a := onPort 1 fun l => { l with granted := 6, rx := [frame 0x10 [], frame 0x12 [41]] }
    let b := onPort 1 fun l => { l with granted := 5, taken := 2, rx := [frame 0x12 [41]] }
    (dropHead 1 a).port 1 = { a.port 1 with rx := [frame 0x12 [41]], taken := 1 } ∧
    (dropHead 1 b).port 1 = { b.port 1 with rx := [], granted := 8, taken := 0, sent := [.credit 3] } := by decide +kernel

theorem witness_FramesAreReceived :
    ((corner.port 11).link = .disabled ∧ checkFrame [0xF0, 0x60] = none ∧ (corner.port 1).link = .up ∧
      (onPort 1 fun l => { l with granted := 0 }).up 1 = true) ∧
    checkFrame (⟨15, 1, 0x14, 0, 0, []⟩ : Frame).bytes = some ⟨15, 0x14, 0, 0, []⟩ ∧ 0 < (corner.port 1).granted ∧
    checkFrame (⟨15, 1, 0x01, 0, 0, [1, 0, 0]⟩ : Frame).bytes = some ⟨15, 0x01, 0, 0, [1, 0, 0]⟩ ∧
    checkFrame (⟨15, 1, 0x02, 0, 0, [15]⟩ : Frame).bytes = some ⟨15, 0x02, 0, 0, [15]⟩ ∧
    ((onPort 1 fun l => { l with link := .training }).port 1).link = .training ∧ PortLaw (corner.port 1) :=
  ⟨by decide +kernel, by decide +kernel, by decide +kernel, by decide +kernel, by decide +kernel, by decide +kernel,
    corner_links 1⟩

theorem witness_OffersFillTheTransmitQueue : (corner.port 1).link = .up ∧ (corner.port 11).link ≠ .up := by decide +kernel

theorem witness_TransmissionUsesCredit :
    (corner.port 11).link ≠ .up ∧ (corner.port 1).tx = [] ∧ ((onPort 1 fun l => { l with txCredit := 0 }).port 1).txCredit = 0 ∧
    (((enqueue corner 1 (.intake .go)).port 1).link = .up ∧ ((enqueue corner 1 (.intake .go)).port 1).tx = [.intake .go] ∧
      0 < ((enqueue corner 1 (.intake .go)).port 1).txCredit) := by decide +kernel

theorem witness_HeadFrameIsDispatched :
    (corner.port 1).rx = [] ∧ ((onPort 1 fun l => { l with held := some .pass }).port 1).held ≠ none ∧
    ((onPort 1 fun l => { l with rx := [frame 0x12 [5]] }).port 1).rx = [frame 0x12 [5]] ∧
    kindOf 0x03 = none ∧ corner.role 1 ≠ .controller ∧ kindOf 0x12 = some .withdrawn ∧
    stationCommand 1 .withdrawn (frame 0x12 []) = none ∧
    stationCommand 1 .withdrawn (frame 0x12 [5]) = some (.withdrawn 1 5) ∧
    takesRequest (onPort 0 fun l => { l with rx := [frame 0x60 [9]] }) 0 = true ∧
    takesRequest (corner.setSlot 0 ⟨none, .carrying, none⟩) 0 = false ∧
    requestOf ⟨0, 0⟩ [19] = .refused .badValue ∧ requestOf ⟨0, 0⟩ [2] = .refused .badValue ∧ requestOf ⟨0, 0⟩ [9] = .command (.relock ⟨0, 0⟩) := by decide +kernel

/-- R36, R175: an article operation of a wrong length is answered with the count. -/
theorem test_malformed_article_operation_has_the_count :
    ((stateAfter (.frameDispatch 0) (onPort 0 fun l => { l with rx := [frame 0x60 [2]], granted := 7 })).port 0).tx =
      [.mgmtReply ⟨0, .badValue, .article none none 2⟩] := by decide +kernel

theorem witness_StationFramesAreRead :
    (decodeName shapes (4 : Byte).toNat = some .other ∧ decodeName marks (2 : Byte).toNat = some .unread ∧
      decodeName materials (5 : Byte).toNat = some .other) ∧
    4 < (5 : Byte).toNat ∧ 6 < (7 : Byte).toNat ∧ 2 < (3 : Byte).toNat ∧ (63 : Byte).toNat = (63 : Tag).val ∧
    63 < (64 : Byte).toNat ∧ stationCommand 1 .headFault (frame 0x16 [31, 0]) ≠ none ∧
    stationCommand 2 .gateAck ⟨15, 0x32, 63, 0, [5, 3]⟩ ≠ none ∧ stationCommand 2 .passage ⟨15, 0x33, 63, 0, [3]⟩ ≠ none ∧
    stationCommand 3 .arrival ⟨15, 0x40, 63, 0, []⟩ ≠ none ∧ stationCommand 4 .voucherDone (frame 0x51 [0, 0, 2]) ≠ none ∧
    stationCommand 1 .sighting (frame 0x10 [7, 0, 0, 0, 0x3E, 0x90, 0x9A, 1, 1, 0, 8, 52, 3]) ≠ none ∧
    (18 < (19 : Byte).toNat ∧ 12 < (13 : Byte).toNat ∧ 6 < (7 : Byte).toNat ∧ (12 : Byte).toNat ≤ 12 ∧ (11 : Byte).toNat < 12 ∧
      (6 : Byte).toNat ≤ 6 ∧ 2 < (3 : Byte).toNat ∧ 1 < (2 : Byte).toNat ∧ (4 : Byte) ≠ 3) ∧
    ([] : List Byte).length ≠ 1 ∧ (List.replicate 14 (0 : Byte)).length < 15 := by
  decide +kernel

/-- R173: the two flags of a session are one byte, and a sense function NONE is 255. -/
theorem test_flags_and_none_are_coded :
    (putSession { Session.new with owed := true, ctxWaiting := true }).getLast? = some 3 ∧
    (putSession { Session.new with ctxWaiting := true }).getLast? = some 2 ∧
    (putSession Session.new).length = 28 ∧
    replyData (.sense ⟨.none, 250⟩) = [255, 0, 0, 250] := by decide +kernel

/-- R173 to R175: the requests of the manual read from their bytes, and a line record of no bytes refused. -/
theorem test_requests_by_form :
    requestOf ⟨0, 9⟩ [1, 9, 7, 255, 0, 0, 250] = .command (.senseWrite ⟨0, 9⟩ 7 ⟨255, 0, 250⟩) ∧
    requestOf ⟨0, 9⟩ [1, 6, 2, 1, 2, 1, 1, 1, 4, 3, 255, 63, 80, 95, 0x2E, 0xE0] =
      .command (.lineWrite ⟨0, 9⟩ 2 ⟨[(2, 1, 1)], [4], 3, 255, 63, 80, 95, 12000⟩) ∧
    requestOf ⟨0, 9⟩ [1, 6, 2] = .refused .badValue ∧ requestOf ⟨0, 9⟩ [16, 7, 0, 0] = .refused .badTable ∧
    requestOf ⟨0, 9⟩ [12, 12, 3] = .refused .badIndex ∧ requestOf ⟨0, 9⟩ [12, 11, 3] = .refused .badValue := by decide +kernel

theorem witness_PassFramesAreForwarded :
    let s := onPort 1 fun l => { l with rx := [⟨0, 0x70, 3, 0, []⟩] }
    let c := onPort 0 fun l => { l with rx := [⟨11, 0x70, 3, 0, []⟩] }
    ((s.port 1).rx = [⟨0, 0x70, 3, 0, []⟩] ∧ (s.port 1).held = none ∧ s.role 1 ≠ .controller ∧ s.role 0 = .controller ∧
      offerAnswer s 0 = .accepted ∧ offerAnswer (full 0 s) 0 = .queueFull) ∧
    ((c.port 0).rx = [⟨11, 0x70, 3, 0, []⟩] ∧ c.role 0 = .controller ∧ offerAnswer c 11 = .notUp) ∧
    ((0 : Port) ≠ 1 ∧ ((onPort 0 fun l => { l with rx := [⟨0, 0x70, 3, 0, []⟩] }).port 0).rx = [⟨0, 0x70, 3, 0, []⟩]) ∧
    12 ≤ (12 : Fin 16).val ∧ (∀ q : Port, (15 : Fin 16).val = q.val → corner.role q ≠ .controller) ∧
    (frame 0x71 []).kind ≠ 0x70 ∧ ((s.setPort 1 { s.port 1 with held := some .pass }).port 1).held = some .pass ∧
    ((s.setPort 1 { s.port 1 with held := some (.undeliverable (frame 0x70 [])) }).port 1).held =
      some (.undeliverable (frame 0x70 [])) := by decide +kernel

/-- R29: a PASS of the controller that names its own port is undeliverable. -/
theorem test_pass_to_the_own_port :
    ((stateAfter (.pass 0) (onPort 0 fun l => { l with rx := [⟨0, 0x70, 3, 0, []⟩], granted := 7 })).port 0).tx =
      [.undeliverable ⟨0, 0x70, 3, 0, []⟩] := by decide +kernel

theorem witness_PlaceFreeOffersAgain :
    let e : Entry := { inUse .gating (some .releaseWait) { use with ack := 1 } with heldRelease := true }
    (corner.port 1).link = .up ∧ corner.context 1 = some (.blank .idle) ∧ (∀ t, (corner.entry t).heldRelease = false) ∧
    (((onEntry e).entry 5).use = some { use with ack := 1 } ∧ ((onEntry e).entry 5).heldRelease = true ∧
      ({ use with ack := 1 } : EntryUse).intake = 1 ∧ (∀ g, g ≠ 5 → ((onEntry e).entry g).heldRelease = false) ∧
      cell (onEntry e).transit.backlog 1 = [] ∧ cell ((onEntry e).setBacklog 1 [⟨1, 0, 2⟩]).transit.backlog 1 = [⟨1, 0, 2⟩] ∧
      ((onEntry e).port 1).tx.length < 16) ∧
    ((onSession fun x => { x with owed := true }).session 1 = some { Session.new with owed := true } ∧
      (corner.port 1).tx.length < 16) ∧
    (onSession fun x => x).session 1 = some Session.new ∧ corner.unit 4 = some ⟨.ready, [], none, false⟩ := by decide +kernel

theorem witness_RepliesGoThroughTheSlot :
    let r : Reply := ⟨1, .done, .none⟩
    let s := corner.setSlot 0 ⟨none, .none, some r⟩
    mayTake { corner.setSlot 0 ⟨none, .carrying, none⟩ with mail := [.softReset ⟨0, 9⟩] } 0 = false ∧
    mayTake (corner.setSlot 0 ⟨none, .carrying, none⟩) 0 = true ∧ mayTake corner 11 = false ∧ mayTake corner 0 = true ∧
    ((corner.setSlot 0 ⟨none, .orphaned, none⟩).slot 0).carried = .orphaned ∧
    ((corner.slot 0).carried ≠ .orphaned ∧ (corner.slot 0).owed = none) ∧
    (((corner.setSlot 0 ⟨some r, .none, none⟩).slot 0).reply = some r ∧ (corner.slot 0).owed = none) ∧
    ((s.slot 0).reply = none ∧ (s.slot 0).carried = .none ∧ (s.slot 0).owed = some r) ∧
    (let c := (corner.setSlot 0 ⟨none, .carrying, some r⟩).slot 0
     c.reply = none ∧ c.carried ≠ .none ∧ c.carried ≠ .orphaned ∧ c.owed = some r) := by decide +kernel

theorem witness_PortWriteIsChecked :
    ServesRequests corner 0 ∧ 5 < 6 ∧ 1 < 2 ∧ (11 < 12 ∧ 12 ≠ 255) ∧
    (decodeName roles 1 = some .intake ∧ decodeName enables 1 = some false ∧ 11 ≤ 11) ∧
    (Role.sorter ≠ corner.role 1 ∧ corner.up 1 = true) ∧
    (Role.bin ≠ Role.controller ∧ corner.role 0 = .controller ∧ ∀ q, q ≠ 0 → corner.role q ≠ .controller) ∧
    (corner.catalogue.lock = .locked ∧ 5 ≠ (corner.port 1).entry.creditLimit) ∧
    (withLock corner .opened).catalogue.lock = .opened ∧ 100000 = (corner.port 1).entry.creditLimit :=
  ⟨corner_serves, by decide +kernel⟩

theorem witness_AcceptedEntriesAreApplied :
    let e := (corner.port 1).entry
    (e.role = (corner.port 1).entry.role ∧ ({ e with enabled := false } : PortEntry).enabled = false ∧
      (corner.port 1).link = .up ∧ (corner.port 11).link ≠ .up) ∧
    (corner.port 11).link = .disabled ∧ ({ e with role := .bin } : PortEntry).role ≠ (corner.port 11).entry.role ∧
    corner.session 11 = none ∧ (corner.context 1 = some (.blank .idle) ∧
      (onSession fun x => { x with state := .closingWait }).session 1 = some { Session.new with state := .closingWait }) ∧
    (onSession fun x => x).session 1 = some Session.new ∧ (∀ m ∈ corner.mail, isLinkReport 1 m = false) ∧
    ((onSession fun x => { x with state := .opened }).session 1 = some { Session.new with state := .opened }) ∧
    ({ corner with mail := [.flagClear 1, .intakeDeparture 1] } : State).mail = [.flagClear 1] ++ .intakeDeparture 1 :: [] ∧
    (onUnit ⟨.offline, [record 0], none, false⟩).unit 4 = some ⟨.offline, [record 0], none, false⟩ ∧
    corner.unit 11 = none ∧ Session.new.awaited = none ∧
    ({ e with counterPort := none } : PortEntry).counterPort ≠ (corner.port 1).entry.counterPort ∧
    ({ Session.new with awaited := some ⟨5, 41, 25⟩ } : Session).awaited.isSome = true := by decide +kernel

/-- R99, R111: a role write taken before the port's departure asks for the removal, or the cancel, of what the context held. -/
theorem test_role_write_takes_the_departure :
    let g : Context := { chamber .gating with tag := some ⟨63, 15⟩ }
    let after (c : Context) : State := stateAfter (.portWrite ⟨0, 9⟩ 1 ⟨3, 1, 255, 100000, 0, 8000⟩)
      (stateAfter (.signalLoss 1) (onContext c))
    .removalRequest 1 ∈ (after (chamber .holding)).mail ∧ .cancelRequest 63 15 ∈ (after g).mail ∧
    (after g).context 1 = none ∧ .intakeDeparture 1 ∉ (after g).mail := by decide +kernel

/-- R129: a write of the counter port field lets a session in CLOSING_WAIT close into a voucher. -/
theorem test_counterPort_write_retries_the_close :
    let x : Session := { Session.new with state := .closingWait, total := 25, subtotals := #v[25, 0, 0, 0] }
    let s := (onPort 1 fun l => { l with entry := { l.entry with counterPort := none } }).setSession 1 (some x)
    let t := stateAfter (.portWrite ⟨0, 9⟩ 1 ⟨1, 0, 4, 100000, 0, 8000⟩) s
    (t.session 1).map (·.state) = some .idle ∧ (t.unit 4).map (fun u => u.queue.map (·.total)) = some [25] := by
  decide +kernel

theorem witness_PortControls :
    ServesRequests corner 0 ∧ (corner.port 11).link ≠ .up ∧ ((corner.port 1).link = .up ∧ (1 : Port) ≠ 0) ∧
    (1 ≤ (corner.port 1).entry.creditLimit ∧ (corner.port 1).entry.creditLimit ≤ 999999 ∧ -500 ≤ (corner.port 1).entry.tare ∧
      (corner.port 1).entry.tare ≤ 500 ∧ (corner.port 1).entry.holdLimit ≤ 60000 ∧
      (corner.port 1).entry.role ≠ .controller) ∧
    ((corner.port 0).entry.role = .controller ∧
      ∀ q, q ≠ 0 → corner.role q = .controller → (corner.port q).entry.enabled = false) :=
  ⟨corner_serves, by decide +kernel⟩

theorem witness_ArticleEntriesAreJudged :
    articleOf ⟨1, 31, 5, 4, 65535, 65535, 7, false, true, false, none⟩ =
      some ⟨1, 31, .other, .other, 65535, 65535, 7, false, true, false, none⟩ ∧
    articleOf ⟨2, 0, 0, 3, 0, 0, 0, true, false, true, some ⟨31, 40, 5, 5⟩⟩ =
      some ⟨2, 0, .pet, .crate, 0, 0, 0, true, false, true, some ⟨31, 40, 5, 5⟩⟩ ∧
    articleOf ⟨2, 0, 0, 3, 0, 0, 0, true, false, true, some ⟨31, 41, 5, 5⟩⟩ = none ∧ ServesRequests corner 0 :=
  ⟨by decide +kernel, by decide +kernel, by decide +kernel, corner_serves⟩

/-- A table of n entries in order. -/
def tableOf (n : Nat) : State :=
  withArticles corner ((List.range n).map fun i => { bottle with code := BitVec.ofNat 48 (i + 1) })

theorem tableOf_sound (n : Nat) (h : n ≤ 16384) :
    ServesRequests (tableOf n) 0 ∧ ArticleLaw (tableOf n) ∧ (tableOf n).catalogue.articles.length = n := by
  have hl : (tableOf n).catalogue.articles.length = n := by simp [tableOf, withArticles]
  refine ⟨corner_serves, ⟨?_, fun e he => ?_, hl.le.trans h⟩, hl⟩
  · refine List.pairwise_map.mpr (List.pairwise_lt_range.imp_of_mem fun {a b} ha hb hab => ?_)
    have ha := List.mem_range.mp ha
    have hb := List.mem_range.mp hb
    change BitVec.ofNat 48 (a + 1) < BitVec.ofNat 48 (b + 1)
    rw [BitVec.lt_def, BitVec.toNat_ofNat, BitVec.toNat_ofNat]
    omega
  · obtain ⟨i, hi, rfl⟩ := List.mem_map.mp he
    have hi := List.mem_range.mp hi
    intro h0
    have h0 : (i + 1) % 2 ^ 48 = 0 := by simpa using congrArg BitVec.toNat h0
    omega

theorem witness_ArticlesAreEdited :
    (ServesRequests corner 0 ∧ ArticleLaw corner) ∧ (ServesRequests (tableOf 16384) 0 ∧ ArticleLaw (tableOf 16384) ∧
      (tableOf 16384).catalogue.articles.length = 16384) ∧
    articleOf ⟨0, 0, 0, 0, 0, 0, 0, true, false, false, none⟩ = none ∧
    articleOf ⟨4100250, 0, 0, 0, 0, 0, 0, true, false, false, none⟩ =
      some { bottle with depositClass := 0, shape := .can, weightMin := 0, weightMax := 0, markRequired := false } ∧
    (∃ e ∈ corner.catalogue.articles, e.code = 4100250) ∧ (¬ ∃ e ∈ corner.catalogue.articles, e.code = 4100400) ∧
    corner.catalogue.articles.length < 16384 ∧ (4100400 : ArticleCode) ≠ 0 :=
  ⟨⟨corner_serves, corner_articles⟩, tableOf_sound _ le_rfl, by decide +kernel⟩

theorem witness_ArticlesAreFound :
    (ServesRequests corner 0 ∧ ArticleLaw corner) ∧ bottle ∈ corner.catalogue.articles ∧ crate ∈ corner.catalogue.articles ∧
    ((4100400 : ArticleCode) ≠ 0 ∧ ∀ e ∈ corner.catalogue.articles, e.code ≠ 4100400) ∧
    corner.catalogue.articles.length ≤ 2 ∧ 1 < corner.catalogue.articles.length :=
  ⟨⟨corner_serves, corner_articles⟩, by decide +kernel⟩

theorem witness_TheLockProtectsTariffs :
    ServesRequests corner 0 ∧ ServesRequests (withLock corner .opened) 0 ∧ corner.catalogue.lock = .locked ∧
    (withLock corner .opened).catalogue.lock = .opened ∧ cell corner.catalogue.classes 3 = ⟨25, 0⟩ ∧
    cell corner.catalogue.classes 31 ≠ ⟨25, 0⟩ ∧ cell corner.catalogue.rates 3 ≠ min 900 250 ∧
    cell corner.catalogue.rates 0 = min 0 250 ∧ corner.catalogue.code = BitVec.allOnes 128 ∧
    ({ corner.catalogue with code := 7 } : Catalogue).code ≠ BitVec.allOnes 128 ∧ corner.catalogue.code ≠ 0 ∧
    (1 : Key) ≠ corner.catalogue.code :=
  ⟨corner_serves, corner_serves, by decide +kernel⟩

theorem witness_TableEntriesAreWritten :
    ServesRequests corner 0 ∧ (2000 < 2001 ∧ 2000 ≤ 2000) ∧ (15 < 16 ∧ 1 ≤ 15 ∧ 15 ≤ 15) ∧
    (2 < 3 ∧ 7 < 8 ∧ 1 < 2) ∧ (actions[2]? = some .stop ∧ faultClasses[1]? = some .contributory ∧ 1 = true.toNat) ∧
    outputEntryOf ⟨1, 8, 0, 0⟩ = none ∧ outputEntryOf ⟨2, 11, 1, 1⟩ = some ⟨.intakeReady 11, .activeLow, false⟩ :=
  ⟨corner_serves, by decide +kernel⟩

theorem witness_TablesAndStateAreRead :
    let e : ErrorRecord := ⟨1, .reject, false, false, .none, 0, 1, none, none, none, none⟩
    ServesRequests corner 0 ∧ corner.role 1 = .intake ∧ corner.session 1 = some { Session.new with reported := .idle } ∧
    corner.context 1 = some (.blank .idle) ∧
    (corner.setFaultContext 1 (some ⟨false, .idle, none, some e⟩)).faultContext 1 = some ⟨false, .idle, none, some e⟩ ∧
    corner.faultContext 1 = some ⟨false, .idle, none, none⟩ ∧ corner.role 4 ≠ .intake ∧ (corner.entry 63).state = .free ∧
    ((onEntry (inUse .moving none use)).entry 5).state ≠ .free ∧
    [(⟨1, 41, 0, false, none, 0, 2, [0]⟩ : HoldEntry)][0]? = some ⟨1, 41, 0, false, none, 0, 2, [0]⟩ ∧
    corner.lines.holdQueue.length ≤ 0 ∧ (corner.role 4 = .counter ∧ corner.unit 4 = some ⟨.ready, [], none, false⟩) ∧
    (7 ≤ (List.replicate 8 (record 0)).length ∧ (List.replicate 8 (record 0)).length < 9) ∧ corner.role 1 ≠ .counter :=
  ⟨corner_serves, by decide +kernel⟩

/-- R136 and R178: the position at the length shows the counter unit's state without a record, that of an empty queue too; the
position beyond it, and position 8 of a queue of 8, give BAD_INDEX with the length. -/
theorem test_empty_voucher_queue_shows_its_unit :
    let seen (u : CounterUnit) (q : Nat) : Status × ReplyData :=
      let a := readVoucherQueue 4 q (onUnit u)
      (a.status, a.data)
    seen ⟨.paused, [], none, false⟩ 0 = (.done, .voucher .paused 0 none) ∧
      seen ⟨.paused, [], none, false⟩ 1 = (.badIndex, .length 0) ∧
      seen ⟨.stalled, [record 5], none, false⟩ 0 = (.done, .voucher .stalled 1 (some (record 5))) ∧
      seen ⟨.stalled, [record 5], none, false⟩ 1 = (.done, .voucher .stalled 1 none) ∧
      seen ⟨.busy, List.replicate 8 (record 0), none, false⟩ 8 = (.badIndex, .length 8) ∧
      (replyData (.voucher .ready 0 none)).length = 2 ∧ (replyData (.voucher .ready 1 (some (record 5)))).length = 37 := by
  decide +kernel

theorem witness_ContextsMoveAndSpeak :
    corner.context 1 = some (.blank .idle) ∧ ((Context.blank .idle).outbound = [] ∧ offerAnswer corner 1 = .accepted) ∧
    offerAnswer (full 1 corner) 1 = .queueFull ∧ offerAnswer (onPort 1 fun l => { l with link := .down }) 1 = .notUp ∧
    ({ chamber .holding with outbound := [.hold 41 .lineBusy] } : Context).outbound ≠ [] := by decide +kernel

theorem witness_SightingsAreTaken :
    (exec (.present 1) corner = .next corner ∧ corner.context 11 = none ∧ corner.context 1 = some (.blank .idle)) ∧
    ((onContext .fresh).context 1 = some .fresh ∧ (onContext (.blank .locked)).context 1 = some (.blank .locked)) ∧
    ((chamber .holding).state ≠ .stopped ∧ (chamber .holding).state ≠ .locked ∧ (chamber .holding).state ≠ .idle ∧
      (chamber .holding).seq = some seen.seq ∧ (chamber .holding).seq ≠ some 42) ∧
    corner.admission.roomStop = false ∧
    (let a : ArticleCopy := ⟨bottle, 0, 40, ⟨25, 0⟩, none⟩
     seen.code ≠ 0 ∧ lookup corner.catalogue seen.code = .found a ∧ entryFault seen a.entry = none ∧
     overcount seen a.entry = false ∧ weightVerdict seen.weight.val 0 (lowBound a.entry 0) (highBound a.entry 0) a.allowance = .pass ∧
     (creditOf a 0).credit ≤ (corner.port 1).entry.creditLimit ∧ corner.session 1 = some { Session.new with reported := .idle } ∧
     (∀ m ∈ corner.mail, isNoteOf 1 m = false) ∧ Session.new.total + awaitedCredit Session.new + 25 ≤ 100000 ∧
     .removalRequest 1 ∉ corner.mail ∧ selectLine corner none a.entry.line false (some a.entry.material) = some 0 ∧
     lowestFree corner = some 0 ∧ fits corner (corner.line 0).record.segments 2 = true ∧
     ∀ q ∈ corner.lines.holdQueue, ∀ g ∈ q.segments, g ∉ (corner.line 0).record.segments) ∧
    (lookup corner.catalogue 4100400 = .notFound 1 ∧
      entryFault { seen with shape := .can } bottle = some 3 ∧
      weightVerdict 179 0 (lowBound bottle 0) (highBound bottle 0) 40 = .underweight ∧
      weightVerdict 301 0 (lowBound bottle 0) (highBound bottle 0) 40 = .residue ∧
      (24 : Nat) < (creditOf ⟨bottle, 0, 40, ⟨25, 0⟩, none⟩ 0).credit) ∧
    (corner.faultContext 1 = some ⟨false, .idle, none, none⟩ ∧ ∀ n : FaultNo, n ≤ 9 →
      (cell corner.faults.dispositions n).action = .giveBack ∧ (cell corner.faults.dispositions n).cls = .benign ∧
      (cell corner.faults.dispositions n).report = false) :=
  ⟨⟨by rfl, by decide +kernel⟩, by decide +kernel⟩

/-- Chapter 4's example: tare −15, measured 247, corrected 262: above the window, within the allowance of 40. -/
theorem test_sighting_example :
    let s := onPort 1 fun l => { l with entry := { l.entry with tare := -15 } }
    let t := stateAfter (.sighting 1 seen) s
    (t.context 1).map (·.state) = some .gating ∧ (t.context 1).bind (·.tag) = some ⟨0, 1⟩ ∧
      cell t.lines.segments 0 = ⟨10, 2⟩ := by decide +kernel

theorem witness_ContainersAreChecked :
    (bottle.active = true ∧ seen.shape = bottle.shape ∧ seen.material = some bottle.material ∧ seen.mark ≠ .absent ∧
      seen.mark ≠ .unread) ∧
    (Shape.can ≠ bottle.shape ∧ Material.glass ≠ bottle.material ∧ bottle.markRequired = true) ∧
    (crate.depositClass ≠ 7 ∧ ({ crate with depositClass := 7 } : ArticleEntry).depositClass = 7) ∧
    bottle.crate = none ∧ crate.crate = some ⟨7, 20, 2000, 2400⟩ ∧ (0 : SchemeIx) ≠ 1 ∧
    ((onContext (chamber .paused)).context 1 = some (chamber .paused) ∧ (chamber .paused).state ≠ .locked ∧
      corner.faultContext 1 = some ⟨false, .idle, none, none⟩ ∧
      (∀ n : FaultNo, n = 16 ∨ n = 17 → (cell corner.faults.dispositions n).action ≠ .stop ∧
        (cell corner.faults.dispositions n).report = false) ∧
      overcount { seen with shape := .crate, count := some 21 } crate = true ∧ overcount seen bottle = false ∧
      weightVerdict 300 0 (lowBound bottle 0) (highBound bottle 0) 40 = .damp) := by decide +kernel

theorem witness_OutcomesAreApplied :
    corner.context 11 = none ∧ (∀ x : CtxState, (onContext (chamber x)).context 1 = some (chamber x)) ∧
    ((chamber .holding).seq = some 41 ∧ (chamber .holding).keep = none ∧ (chamber .gating).tag = none ∧
      ({ chamber .paused with keep := some ⟨0, 11⟩ } : Context).keep.isSome = true) := by
  refine ⟨by decide +kernel, fun x => ?_, by decide +kernel⟩
  cases x <;> decide +kernel

theorem witness_ContainersMoveOn :
    let g : Context := { chamber .gating with tag := some ⟨63, 15⟩ }
    ((onContext (chamber .holding)).context 1 = some (chamber .holding) ∧ (onContext g).context 1 = some g) ∧
    ((chamber .holding).seq = some 41 ∧ (chamber .holding).state = .holding ∧ (chamber .paused).state = .paused ∧
      (chamber .returning).state = .returning ∧ g.tag = some ⟨63, 15⟩ ∧ g.state = .gating) ∧
    (chamber .holding).seq ≠ some 40 ∧ ({ chamber .holding with keep := some ⟨0, 11⟩ } : Context).keep = some ⟨0, 11⟩ ∧
    ({ g with state := .releasing } : Context).credit = some ⟨25, [(0, 25)], [(3, 1)]⟩ ∧
    ({ g with state := .stopped } : Context).state = .stopped ∧
    ((corner.faultContext 1 = some ⟨false, .idle, none, none⟩) ∧
      let d := { cell corner.faults.dispositions 12 with report := false }
      d.action = .giveBack ∧ d.report = false ∧ (chamber .holding).keep = none ∧
      (cell corner.faults.dispositions 10).action = .giveBack ∧ (cell corner.faults.dispositions 10).report = false) := by
  decide +kernel

theorem witness_ChamberTimersExpire :
    let h : Context := { chamber .holding with holdTimer := some 0 }
    let b : Context := { chamber .returning with handoverTimer := some 0, tag := some ⟨63, 15⟩ }
    let s := onPort 0 fun l => { l with link := .down }
    ((onContext h).context 1 = some h ∧ h.holdTimer ≠ none ∧ h.state = .holding ∧ h.seq = some 41 ∧ h.line = some 0 ∧
      (chamber .holding).holdTimer = none ∧ (chamber .holding).handoverTimer = none) ∧
    (corner.faultContext 1 = some ⟨false, .idle, none, none⟩ ∧ (cell corner.faults.dispositions 11).action = .giveBack ∧
      (cell corner.faults.dispositions 11).cls = .benign ∧ (cell corner.faults.dispositions 11).report = false) ∧
    (b.handoverTimer ≠ none ∧ b.tag = some ⟨63, 15⟩ ∧ ({ b with state := .stopped } : Context).state = .stopped ∧
      b.state = .returning ∧ ({ b with state := .releasing } : Context).state = .releasing ∧ b.seq = some 41 ∧
      ({ b with state := .gating } : Context).state = .gating) ∧
    (s.controllersUp = [] ∧ s.faultContext 1 = some ⟨false, .idle, none, none⟩) := by decide +kernel

theorem witness_OtherUnitsMoveTheContext :
    let a : ArticleCopy := ⟨bottle, 0, 40, ⟨25, 0⟩, none⟩
    let c : Context := { chamber .paused with
      sighting := some seen, article := some a, holdCopy := some 8000, pause := some .counterBusy }
    let k : Context := { c with keep := some ⟨0, 1⟩, article := none }
    let r : Context := { chamber .paused with pause := some .roomStop }
    let none_ : State := { corner with lines := { corner.lines with tags := Vector.replicate 64 ⟨false, 0⟩ } }
    ((onContext (chamber .holding)).context 1 = some (chamber .holding) ∧ (chamber .holding).seq = some 41) ∧
    ((chamber .gating).state ≠ .holding ∧ (chamber .gating).state ≠ .paused) ∧ r.pause ≠ some .counterBusy ∧
    ((onContext c).context 1 = some c ∧ c.state = .paused ∧ c.pause = some .counterBusy ∧ c.sighting = some seen ∧ c.keep = none ∧
      c.article = some a ∧ c.holdCopy ≠ some 0 ∧ c.seq = some seen.seq ∧ .removalRequest 1 ∉ corner.mail ∧
      selectLine corner none bottle.line false (some bottle.material) = some 0 ∧ lowestFree corner = some 0 ∧
      fits corner (corner.line 0).record.segments 2 = true ∧ corner.lines.holdQueue = []) ∧
    (selectLine none_ none bottle.line false (some bottle.material) = some 0 ∧ lowestFree none_ = none) ∧
    ((onContext k).context 1 = some k ∧ k.keep ≠ none ∧ selectLine corner none 0 true seen.material = some 0 ∧
        selectLine corner none 1 true seen.material = none) ∧
    ((∀ n : FaultNo, n = 10 ∨ n = 11 → (cell corner.faults.dispositions n).action = .giveBack ∧
        (cell corner.faults.dispositions n).cls = .benign ∧ (cell corner.faults.dispositions n).report = false) ∧
      corner.faultContext 1 = some ⟨false, .idle, none, none⟩ ∧ selectLine corner none 1 false (some bottle.material) = none ∧
      ({ c with holdCopy := some 0 } : Context).holdCopy = some 0) ∧
    ((onContext r).context 1 = some r ∧ r.state = .paused ∧ r.pause = some .roomStop ∧
      ∀ q, q ≠ 1 → (onContext r).context q = none) ∧
    (∀ q, (corner.context q).bind (·.pause) ≠ some .roomStop) := by decide +kernel

/-- R34: the pitch of a kept container is that of the shape in its article copy, though the head has reported another. -/
theorem test_pitch_of_the_article :
    let c : Context := { chamber .holding with article := some ⟨bottle, 0, 40, ⟨25, 0⟩, none⟩, keep := some ⟨0, 3⟩ }
    (capacityOf 1 c { seen with shape := .crate } corner).pitch = 2 ∧
      (capacityOf 1 { c with article := none } { seen with shape := .crate } corner).pitch = 10 := by decide +kernel

/-- R155 and R73: a lock records its fault in an intake with an empty chamber too, and READ_STATE has it; a LOCK outcome taken in
LOCKED leaves the fault as it was. -/
theorem test_lock_without_a_container_has_its_fault :
    let s := stateAfter (.faultOutcome 1 24 .lock) corner
    s.context 1 = some { Context.blank .locked with lockFault := some 24 } ∧
      (readState 1 1 0 s).data = .context { Context.blank .locked with lockFault := some 24 } ∧
      (stateAfter (.faultOutcome 1 25 .lock) s).context 1 = s.context 1 := by decide +kernel

theorem witness_ContextsFollowTheIntake :
    let g : Context := { chamber .gating with tag := some ⟨63, 15⟩ }
    let s := onPort 0 fun l => { l with link := .down }
    (corner.context 1 = some (.blank .idle) ∧ (Context.blank .idle).state = .idle) ∧
    ((onContext .fresh).context 1 = some .fresh ∧ Context.fresh.state = .stopped ∧ Context.fresh.stopReason = some .start) ∧
    (Context.blank .locked).state = .locked ∧ (g.state ≠ .stopped ∧ g.state ≠ .locked ∧ g.state ≠ .idle) ∧
    (s.faultContext 1 = some ⟨false, .idle, none, none⟩ ∧ s.controllersUp = []) ∧
    (g.state = .gating ∧ g.tag = some ⟨63, 15⟩ ∧ (chamber .holding).state = .holding ∧ (chamber .paused).state = .paused ∧
      (chamber .releasing).state = .releasing) := by decide +kernel

theorem witness_IntakeControls :
    ServesRequests corner 0 ∧ corner.role 4 ≠ .intake ∧ corner.role 1 = .intake ∧
    (onContext .fresh).context 1 = some .fresh ∧ corner.up 1 = true ∧
    (onPort 1 fun l => { l with link := .down }).up 1 = false ∧
    ({ Context.fresh with tag := some ⟨63, 15⟩ } : Context).tag.isSome = true ∧ Context.fresh.tag = none ∧
    (Context.blank .locked).seq = none ∧
    (({ chamber .locked with lockFault := some 14 } : Context).seq = some 41 ∧
      ({ chamber .locked with lockFault := some 14 } : Context).lockFault = some 14) ∧
    Context.fresh.stopReason = some .start ∧ (chamber .holding).state = .holding ∧
    (({ chamber .releasing with tag := some ⟨63, 15⟩ } : Context).tag = some ⟨63, 15⟩) ∧
    corner.faultContext 1 = some ⟨false, .idle, none, none⟩ :=
  ⟨corner_serves, by decide +kernel⟩

theorem witness_LinesDeriveTheirState :
    let s := corner.setLine 0 { lineZero with lastFill := 80 }
    let c := corner.setLine 0 { lineZero with lastFill := 79, state := .nearFull }
    let u := corner.setLine 0 { lineZero with state := .closed }
    let n := corner.setLine 0 { lineZero with causes := ⟨true, false, false, false, false⟩, state := .closed }
    let w := corner.setLine 0 { lineZero with causes := ⟨false, true, false, false, false⟩ }
    derivedState (corner.line 0) = (corner.line 0).state ∧
    (derivedState (s.line 0) = .nearFull ∧ (s.line 0).state = .opened) ∧
    (derivedState (c.line 0) = .opened ∧ (c.line 0).state = .nearFull) ∧
    (derivedState (u.line 0) = .opened ∧ (u.line 0).state = .closed) ∧
    (derivedState (n.line 0) = .disabled ∧ (n.line 0).state = .closed) ∧
    (derivedState (w.line 0) = .closed ∧ (w.line 0).state = .opened) := by decide +kernel

theorem witness_LineCausesFollowTheirSources :
    ServesRequests corner 0 ∧ (∀ l, (corner.line l).record.binPort ≠ 9) ∧
    ((corner.line 0).record.binPort = 3 ∧ ∀ k, k ≠ 0 → (corner.line k).record.binPort ≠ 3) ∧
    (∀ l, (corner.line l).record.binPort ≠ 9 ∧ ∀ h ∈ (corner.line l).record.route, h.port ≠ 9) ∧
    (∀ l, (State.reset.line l).record.binPort = 0) ∧ ((∃ h ∈ (corner.line 0).record.route, h.port = 2) ∧
      ∀ k, k ≠ 0 → (corner.line k).record.binPort ≠ 2 ∧ ∀ h ∈ (corner.line k).record.route, h.port ≠ 2) :=
  ⟨corner_serves, by decide +kernel⟩

theorem witness_SpaceIsGranted :
    let e : HoldEntry := ⟨1, 41, 0, false, some .pet, 0, 10, [0]⟩
    let q : State := { corner with lines := { corner.lines with holdQueue := [e] } }
    let used : State := { corner with lines := { corner.lines with tags := Vector.replicate 64 ⟨false, 15⟩ } }
    (selectLine corner none 1 false (some .pet) = none ∧ selectLine corner none 0 false (some .pet) = some 0 ∧
      lowestFree corner = some 0 ∧ lowestFree used = none) ∧
    ((∀ g ∈ (corner.line 0).record.segments, (cell corner.lines.segments g).reserved + 10 ≤ (cell corner.lines.segments g).capacity) ∧
      ∀ e ∈ corner.lines.holdQueue, ∀ g ∈ e.segments, g ∉ (corner.line 0).record.segments) ∧
    ((corner.line 0).record.segments.Nodup ∧ (⟨[], [], true, corner⟩ : Walk).ended = true ∧
      (⟨[], [], false, used⟩ : Walk).ended = false) ∧
    ((∃ g ∈ e.segments, g ∈ [(0 : SegIx)]) ∧ fits corner e.segments 11 = false ∧ ∀ g ∈ e.segments, g ∉ [(5 : SegIx)]) ∧
    (((corner.line 0).state = .opened ∧ hasBit (corner.line 0).record.materials (codeOf materials .pet) = true) ∧
      (corner.line 1).state ≠ .opened ∧ (corner.line 1).state ≠ .nearFull ∧
      ((corner.setLine 1 { corner.line 1 with record := { (corner.line 1).record with overflow := some 0 } }).line 1).record.overflow =
        some 0 ∧ e.kept = false ∧ e.line = 0 ∧ ({ e with kept := true } : HoldEntry).kept = true) ∧
    (fits corner e.segments 10 = true ∧ (∀ x ∈ corner.lines.holdQueue, x.intake ≠ 1) ∧
      q.lines.holdQueue = [] ++ e :: [] ∧ e.intake = 1) ∧
    ((cell corner.lines.tags 63).free = true ∧ (cell used.lines.tags 63).free = false ∧ (cell used.lines.tags 63).gen = 15 ∧
      [(0 : SegIx), 11].Nodup ∧ used.lines.holdQueue = [] ∧ q.lines.holdQueue ≠ []) :=
  ⟨by decide +kernel, by decide +kernel, by decide +kernel, by decide +kernel, by decide +kernel, by decide +kernel,
    by decide +kernel⟩

theorem witness_LineRecordsAreWritten :
    ServesRequests corner 0 ∧ corner.lines.holdQueue = [] ∧
    ({ corner with lines := { corner.lines with holdQueue := [⟨1, 41, 0, false, none, 0, 2, [0]⟩] } } : State).lines.holdQueue ≠ [] ∧
    lineRecordOf 0 ⟨[], [0], 3, 255, 63, 80, 95, 12000⟩ = none ∧ lineRecordOf 0 ⟨[(2, 3, 2)], [0], 3, 0, 63, 80, 95, 12000⟩ = none ∧
    lineRecordOf 0 ⟨List.replicate 6 (2, 3, 2), [0, 1, 2, 3], 3, 7, 63, 99, 100, 60001⟩ =
      some ⟨List.replicate 6 ⟨2, 3, .right⟩, [0, 1, 2, 3], 3, some 7, 63, 99, 100, 60000⟩ ∧
    0 < ({ lineZero with live := 1 } : Line).live ∧ (corner.line 0).live = 0 :=
  ⟨corner_serves, by decide +kernel⟩

theorem witness_ClaimsAndRecordsAreTaken :
    let e := inUse .gating (some .awaitingRecord) use
    (corner.entry 5).use = none ∧ ((inUse .moving none use).state ≠ .gating) ∧
    ((onEntry e).entry 5 = e ∧ e.use = some use ∧ e.state = .gating ∧ e.step = some .awaitingRecord ∧ e.gen = 15) ∧
    (use.route = [⟨2, 1, .left⟩] ∧ cell (onEntry e).transit.backlog 2 = [] ∧ offerAnswer (onEntry e) 2 = .accepted ∧
      offerAnswer (full 2 (onEntry e)) 2 ≠ .accepted) ∧
    (offerGates 5 15 0 use.route (full 2 (onEntry e))).1 = some 0 ∧ (offerGates 5 15 0 use.route (onEntry e)).1 = none := by
  decide +kernel

theorem witness_GatesAreAcknowledged :
    let e := inUse .gating (some .setting) use
    let two := { use with route := [⟨2, 1, .left⟩, ⟨2, 0, .pass⟩] }
    (corner.entry 5).use = none ∧ ((onEntry e).entry 5 = e ∧ e.use = some use ∧ e.gen = 15 ∧ e.state = .gating) ∧
    (∃ k, use.route[0]? = some k ∧ k.port = 2) ∧ (¬ ∃ k, use.route[5]? = some k ∧ k.port = 2) ∧ e.gen ≠ 14 ∧
    GateResult.busy ≠ .normal ∧ ({ use with ack := 1 } : EntryUse).ack.getLsbD 0 = true ∧ use.ack.getLsbD 0 = false ∧
    (two.ack ||| (1#6 <<< 0)) ≠ allHops two.route.length ∧ (use.ack ||| (1#6 <<< 0)) = allHops use.route.length ∧
    offerAnswer (onEntry e) 1 = .accepted ∧ offerAnswer (full 1 (onEntry e)) 1 = .queueFull ∧
    offerAnswer ((onEntry e).setPort 1 (LinkPort.reset 1)) 1 = .notUp := by
  refine ⟨by decide +kernel, by decide +kernel, ⟨_, rfl, rfl⟩, ?_, by decide +kernel⟩
  rintro ⟨k, hk, -⟩
  cases hk

theorem witness_EntriesAreCancelled :
    let e := inUse .gating (some .setting) use
    let c : ClearFrame := ⟨5, 15, 3⟩
    (corner.entry 5).use = none ∧ ((onEntry e).entry 5 = e ∧ e.use = some use ∧ e.state = .gating ∧ e.step = some .setting) ∧
    (e.timer ≠ none ∧ ({ e with timer := none } : Entry).timer = none) ∧ (e.gen = 15 ∧ e.gen ≠ 14) ∧
    ((inUse .releaseSent none use).state = .releaseSent ∧ (inUse .moving none use).state ≠ .gating) ∧
    (∃ h ∈ use.route, h.port = 2) ∧ (∀ k, k ≠ 5 → ((onEntry e).entry k).use = none) ∧
    (∀ k, (corner.entry k).use = none) ∧ cell corner.transit.backlog 2 = [] ∧ offerAnswer corner 2 = .accepted ∧
    offerAnswer (full 2 corner) 2 = .queueFull ∧ offerAnswer corner 11 = .notUp ∧
    (cell (corner.setBacklog 2 [⟨1, 0, 2⟩]).transit.backlog 2 ≠ [] ∧ ∀ d ∈ [(⟨1, 0, 2⟩ : ClearFrame)], d.gate ≠ c.gate) ∧
    ∃ d ∈ [(⟨1, 0, 3⟩ : ClearFrame)], d.gate = c.gate := by decide +kernel

theorem witness_ContainersTravel :
    let r := inUse .releaseSent none use
    let m := inUse .moving none use
    (∀ k, (corner.entry k).use = none) ∧
    ((onEntry r).entry 5 = r ∧ r.use = some use ∧ r.record = some ⟨4100250, false, ⟨25, [(0, 25)], [(3, 1)]⟩⟩ ∧
      r.state = .releaseSent ∧ use.intake = 1 ∧ ∀ k, k ≠ 5 → ((onEntry r).entry k).use = none) ∧
    (r.state ≠ .moving ∧ m.gen ≠ 14 ∧ ({ m with timer := none } : Entry).timer = none) ∧
    ((onEntry m).entry 5 = m ∧ m.use = some use ∧ m.state = .moving ∧ m.timer ≠ none ∧ m.gen = 15) ∧
    (((onEntry m).line use.line).record.binPort = 3 ∧ ((onEntry m).line use.line).record.binPort ≠ 4) ∧
    (m.hopIndex = some 0 ∧ (∀ h ∈ use.route.drop 0, h.port ≠ 2 ∨ h.gate ≠ 0) ∧ use.route[0]? = some ⟨2, 1, .left⟩ ∧
      ∀ h ∈ use.route.drop 1, h.port ≠ 2 ∨ h.gate ≠ 1) := by decide +kernel

theorem witness_PostingsAreTaken :
    let x : Session := { Session.new with awaited := some ⟨5, 41, 25⟩, total := 99976, limit := 100000, state := .opened }
    let s := onPort 1 fun l => { l with link := .down }
    corner.session 11 = none ∧ (corner.session 1 = some { Session.new with reported := .idle } ∧ 0 + 999999 ≤ Session.new.limit) ∧
    ({ x with state := .closePending } : Session).state = .closePending ∧
    ({ x with state := .closingWait } : Session).state = .closingWait ∧
    (x.awaited.any fun a => a.tag == 5 && a.seq == 40) = false ∧ (x.awaited.any fun a => a.tag == 5 && a.seq == 41) = true ∧
    (x.state = .opened ∧ x.limit < x.total + 25 ∧ x.awaited.isSome = true ∧ offerAnswer s 1 = .notUp) ∧
    ((closeAttempt 1 (onSession fun _ => x)).1 = false ∧ ((closeAttempt 1 (onSession fun _ => x)).2.session 1).isSome = true ∧
      (closeAttempt 1 (onSession fun _ => { x with awaited := none, subtotals := #v[99976, 0, 0, 0] })).1 = true) ∧
    ((∀ z ∈ [((3 : ClassIx), 65535)], z.1 ≠ 7) ∧ [((7 : ClassIx), 1), (3, 65535)] = [(7, 1)] ++ (3, 65535) :: [] ∧
      ∀ z ∈ [((7 : ClassIx), 1)], z.1 ≠ 3) ∧
    ({ x with last := some ⟨5, 41⟩ } : Session).last = some ⟨5, 41⟩ ∧ x.last ≠ some ⟨5, 41⟩ := by decide +kernel

theorem witness_SessionsClose :
    let s := onPort 1 fun l => { l with entry := { l.entry with counterPort := none } }
    let x : Session := { Session.new with total := 25, subtotals := #v[25, 0, 0, 0], state := .opened }
    (corner.session 1 = some { Session.new with reported := .idle } ∧ Session.new.carried = none ∧ corner.role 1 = .intake) ∧
    (x.total + 0 + 25 ≤ 50 ∧ 49 < x.total + 0 + 25 ∧ ({ x with state := .closePending } : Session).state = .closePending ∧
      ({ x with state := .closingWait } : Session).state = .closingWait) ∧
    ({ x with awaited := some ⟨5, 41, 25⟩ } : Session).awaited.isSome = true ∧
    (x.awaited = none ∧ Session.new.total = 0 ∧ x.total ≠ 0) ∧ (s.port 1).entry.counterPort = none ∧
    ((corner.port 1).entry.counterPort = some 4 ∧ corner.role 4 = .counter) ∧
    (let g : Posting := ⟨1, 42, 6, ⟨25, [(0, 25)], [(3, 1)]⟩, false⟩
     let c : Session := { x with state := .closingWait, carried := some g }
     (onSession fun _ => c).session 1 = some c ∧ c.carried = some g ∧
       (closeAttempt 1 (onSession fun _ => { c with carried := none })).1 = true ∧
       (closeAttempt 1 (s.setSession 1 (some { c with carried := none }))).1 = false ∧
       ((closeAttempt 1 (s.setSession 1 (some { c with carried := none }))).2.session 1).isSome = true) ∧
    (corner.role 11 ≠ .intake ∧ (corner.setSession 11 (some x)).session 11 = some x) ∧
    (createVoucher ⟨4, 1, x.subtotals, x.total, 1, 0⟩ corner).1 = .created 0 ∧
    (createVoucher ⟨4, 1, x.subtotals, x.total, 1, 0⟩ (onUnit ⟨.busy, List.replicate 8 (record 0), none, false⟩)).1 =
      .queueFull := by decide +kernel

theorem witness_SessionsFinish :
    let x : Session := { Session.new with state := .opened, reported := .gating, idleTimer := some 0 }
    let w := { onSession fun y => { y with state := .closingWait } with
      tally := { (onSession fun y => { y with state := .closingWait }).tally with closingWait := [1] } }
    ((onSession fun _ => x).session 1 = some x ∧ x.state = .opened ∧ x.reported = .gating ∧ x.idleTimer ≠ none) ∧
    (Session.new.state = .idle ∧ Session.new.reported = .stopped ∧ Session.new.idleTimer = none ∧ Session.new.state ≠ .opened) ∧
    ({ x with state := .closePending } : Session).state = .closePending ∧
    ({ x with reported := .holding } : Session).reported = .holding ∧
    (w.session 1 = some { Session.new with state := .closingWait } ∧ w.tally.closingWait = [1] ∧
      (w.port 1).entry.counterPort = some 4) ∧
    ∀ k ∈ corner.tally.closingWait, (corner.port k).entry.counterPort ≠ some 4 := by decide +kernel

theorem witness_VouchersAreCreated :
    let u : CounterUnit := ⟨.busy, (List.range 7).map fun i => { record (Fin.ofNat 65536 i) with state := .queued }, none, false⟩
    (corner.unit 11 = none ∧ 8 ≤ (List.replicate 8 (record 0)).length) ∧
    ((onUnit u).unit 4 = some u ∧ u.queue.length < 8) ∧
    (∀ r ∈ u.queue, r.number ≠ 65535) ∧ (onUnit u).vouchers.number = 0 ∧ nextNumber (onUnit u) = 7 ∧
    (∀ p, p ≠ 4 → (onUnit u).unit p = none) ∧ UnitLaw u := by
  refine ⟨by decide +kernel, by decide +kernel, by decide +kernel, by decide +kernel, by decide +kernel, by decide +kernel, ?_⟩
  unfold UnitLaw RecordLaw
  decide +kernel

theorem witness_CounterUnitsServe :
    let b : CounterUnit := ⟨.busy, [record 65535], some 0, false⟩
    let q : CounterUnit := ⟨.ready, [record 65535], none, false⟩
    ServesRequests corner 0 ∧ (corner.unit 4 = some ⟨.ready, [], none, false⟩) ∧ corner.unit 11 = none ∧
    ((onUnit q).unit 4 = some q ∧ q.state = .ready ∧ offerAnswer (onUnit q) 4 = .accepted ∧
      offerAnswer (full 4 (onUnit q)) 4 = .queueFull ∧ offerAnswer ((onUnit q).setPort 4 (LinkPort.reset 4)) 4 = .notUp) ∧
    ((onUnit b).unit 4 = some b ∧ b.state = .busy ∧ b.queue = [record 65535] ∧ (record 65535).number ≠ 0 ∧
      b.replyTimer ≠ none ∧ q.replyTimer = none) ∧
    (corner.role 4 = .counter ∧ q.state ≠ .offline ∧ corner.role 1 ≠ .counter) :=
  ⟨corner_serves, by decide +kernel⟩

theorem witness_FaultsAreJudged :
    let s := onPort 0 fun l => { l with link := .down }
    corner.faultContext 1 = some ⟨false, .idle, none, none⟩ ∧ s.controllersUp = [] ∧ corner.controllersUp = [0] := by
  decide +kernel

theorem witness_StateReportsAreTaken :
    (tallyReport 11 .idle corner).faultContext 11 = none ∧
    (tallyReport 1 .locked corner).faultContext 1 = some ⟨false, .idle, none, none⟩ := by decide +kernel

theorem witness_SenseInputsLatch :
    let s (f : SenseFunction) (y : SenseInput) : State := { corner with
      cond := { corner.cond with sense := put corner.cond.sense 7 ⟨f, 20⟩, inputs := put corner.cond.inputs 7 y } }
    ServesRequests (s .roomStop ⟨true, .latched, none⟩) 0 ∧
    ((cell corner.cond.inputs 7).state ≠ .debouncing ∧ (cell corner.cond.inputs 7).state ≠ .latched) ∧
    (∀ f, f = .none ∨ f = .binFull 7 ∨ f = .roomStop →
      (cell (s f ⟨true, .debouncing, some 0⟩).cond.inputs 7).state = .debouncing ∧
      (cell (s f ⟨true, .debouncing, some 0⟩).cond.inputs 7).timer ≠ none ∧
      (cell (s f ⟨true, .latched, none⟩).cond.inputs 7).state = .latched ∧
      (cell (s f ⟨true, .latched, none⟩).cond.sense 7).function = f) ∧
    (2 < 3 ∧ 7 < 8 ∧ 0 ≠ 255) ∧ senseEntryOf ⟨0, 0, 20⟩ = none ∧ senseEntryOf ⟨1, 7, 19⟩ = some ⟨.binFull 7, 20⟩ ∧ senseEntryOf ⟨255, 0, 2001⟩ = some ⟨.none, 2000⟩ := by
  refine ⟨corner_serves, by decide +kernel, ?_, by decide +kernel⟩
  rintro f (rfl | rfl | rfl) <;> decide +kernel

theorem witness_ConditionsAreSet :
    let n := conditionNumber .storeFailed
    let m : State := { corner with cond := { corner.cond with mask := BitVec.allOnes 22 } }
    ServesRequests corner 0 ∧ ({ corner with cond := { corner.cond with set := 1#22 <<< 21 } } : State).cond.set.getLsbD n = true ∧
    (m.cond.set.getLsbD n = false ∧ m.cond.mask.getLsbD n = true) ∧
    (corner.cond.set.getLsbD n = false ∧ corner.cond.mask.getLsbD n = false ∧ corner.controllersUp = [0]) ∧
    ((onPort 0 fun l => { l with link := .down }).controllersUp = [] ∧
      (onPort 11 fun _ => upPort .controller 11).controllersUp = [0, 11]) ∧
    State.reset.mgmt.loading = true ∧ corner.mgmt.loading = false :=
  ⟨corner_serves, by decide +kernel⟩

/-- R169: a condition offers a NOTICE to each of two CONTROLLER ports that are UP. -/
theorem test_two_controllers_are_told :
    let t := stateAfter (.conditionRequest .linkFault) (onPort 11 fun _ => upPort .controller 11)
    (t.port 0).tx = [.notice 1] ∧ (t.port 11).tx = [.notice 1] := by decide +kernel

theorem witness_SoftResetClears :
    let v : State := { corner with mgmt := { corner.mgmt with save := some ⟨none, []⟩ } }
    (ServesRequests v 0 ∧ v.mgmt.save.isSome = true) ∧
    (ServesRequests corner 0 ∧ corner.mgmt.save = none ∧ corner.context 0 = none ∧ corner.context 11 = none ∧
      corner.context 1 ≠ none) ∧
    ((corner.port 1).link = .up ∧ (corner.port 1).tx.length < 16 ∧ ((full 1 corner).port 1).tx.length = 16 ∧
      (corner.context 1).map (·.state) = some .idle) :=
  ⟨⟨corner_serves, by decide +kernel⟩, ⟨corner_serves, by decide +kernel⟩, by decide +kernel⟩

/-- R80, R101 and R171: INTAKE_STOP START at the intake, and the report of its context before those of the lines, the report of a
latch gone. -/
theorem test_soft_reset_tells :
    let t := softReset (corner.post (.roomStopReport true))
    (t.port 1).tx = [.intake (.stop .start)] ∧ t.mail.take 2 = [.stateReport 1 .stopped (some .start) none, .lineStateReport 0 .opened] ∧
      t.mail.length = 9 := by decide +kernel

/-- A store that answers, with the image of `corner`'s tables. -/
def savedStore : ConfigStore :=
  let b := imageBody (imageOf corner)
  ⟨true, 0x4C57A5C3, 724, checkValue b, b⟩

theorem imageLength_eq : imageLength = 724 := by decide +kernel

theorem savedStore_valid : validImage savedStore = true := by
  have h : (imageBody (imageOf corner)).length = 724 := by decide +kernel
  simp [validImage, savedStore, List.take_of_length_le, h, Config.formatWord, imageLength_eq]

theorem witness_StoreIsReadAndSaved :
    let v : State := { corner with mgmt := { corner.mgmt with save := some ⟨some ⟨0, 9⟩, [7]⟩ } }
    State.reset.mgmt.loading = true ∧ corner.mgmt.loading = false ∧ validImage State.reset.store = false ∧
    validImage savedStore = true ∧ (ServesRequests corner 0 ∧ corner.mgmt.save = none ∧ corner.store.answers = false) ∧
    ({ corner with store := savedStore } : State).store.answers = true ∧
    (ServesRequests v 0 ∧ v.mgmt.save = some ⟨some ⟨0, 9⟩, [7]⟩ ∧ v.mgmt.save.isSome = true) ∧ [(0 : Byte)] ≠ [7] ∧
    (0 : BitVec 32) ≠ 0x4C57A5C3 :=
  ⟨by decide +kernel, by decide +kernel, by decide +kernel, savedStore_valid, ⟨corner_serves, by decide +kernel⟩,
    by decide +kernel, ⟨corner_serves, by decide +kernel⟩, by decide +kernel⟩

/-- The steps the invariants speak of: with nothing to do `corner` ticks; with a command waiting it executes it. -/
theorem corner_steps (c : Instr) : step { corner with pending := [c] } = exec c corner := rfl

theorem witness_LinksKeepTheirAccount :
    LinkLaw { corner with pending := [.signalLoss 1] } ∧
    step { corner with pending := [.signalLoss 1] } = .next (signalLoss 1 corner) := ⟨corner_links, rfl⟩

theorem corner_transit : TransitLaw corner := fun t => by
  have : corner.entry t = Entry.free 0 := by revert t; decide +kernel
  rw [this]
  exact ⟨by decide, fun u h => nomatch h⟩

theorem corner_vouchers : VoucherLaw corner := by
  have hp : ∀ p, p ≠ 4 → corner.unit p = none := by decide +kernel
  intro p u h
  by_cases h4 : p = 4
  · have : some u = some ⟨.ready, [], none, false⟩ := by rw [← h, h4]; decide +kernel
    cases this
    exact ⟨by decide, by decide, fun r hr => nomatch hr⟩
  · exact nomatch (hp p h4).symm.trans h

theorem witness_StepsKeepTheTables :
    TransitLaw { corner with pending := [.claim ⟨0, 1, 1, 41, 0, [⟨2, 1, .left⟩], [0], 12000, 2⟩] } ∧
    VoucherLaw { corner with pending := [.voucherRequest ⟨4, 1, #v[25, 0, 0, 0], 25, 1, 0⟩] } ∧
    ArticleLaw { corner with pending := [.articleDelete ⟨0, 9⟩ 5800000] } ∧
    step { corner with pending := [.articleDelete ⟨0, 9⟩ 5800000] } =
      .next (manage ⟨0, 9⟩ (articleDelete 5800000) corner) := ⟨corner_transit, corner_vouchers, corner_articles, rfl⟩

theorem witness_CreditIsAccountedFor :
    let g : Posting := ⟨1, 41, 5, ⟨25, [(0, 25)], [(3, 1)]⟩, false⟩
    MoneyLaw { corner with pending := [.posting g] } ∧
    step { corner with pending := [.posting g] } = exec (.posting g) corner := by
  have hs : ∀ p, p ≠ 1 → corner.session p = none := by decide +kernel
  have he : ∀ t, corner.entry t = Entry.free 0 := by decide +kernel
  have hc : ∀ p, p ≠ 1 → corner.context p = none := by decide +kernel
  refine ⟨⟨fun p x h => ?_, fun p c k h hk => ?_, fun t r h => ?_, fun m hm => (nomatch hm), fun m hm => ?_⟩, rfl⟩
  · by_cases h1 : p = 1
    · have : some x = some { Session.new with reported := .idle } := by rw [← h, h1]; decide +kernel
      cases this
      exact ⟨by decide +kernel, fun g hg => nomatch hg⟩
    · exact nomatch (hs p h1).symm.trans h
  · by_cases h1 : p = 1
    · have : some c = some (.blank .idle) := by rw [← h, h1]; decide +kernel
      cases this
      exact nomatch hk
    · exact nomatch (hc p h1).symm.trans h
  · exact nomatch (congrArg Entry.record (he t)).symm.trans h
  · rcases List.mem_singleton.mp hm with rfl
    show CreditLaw _
    unfold CreditLaw
    decide

/-- `corner` with tag 0 granted to the intake on line 0, and the claim taken out of the messages. -/
def cornerGranted : State := { grant 0 1 41 0 2 corner with mail := [] }

theorem corner_space : SpaceLaw { cornerGranted with mail := .claim (claimOf corner 0 1 41 0 2) :: cornerGranted.mail } ∧
    SpaceLaw { corner with mail := .softReset ⟨0, 9⟩ :: corner.mail } := by
  unfold SpaceLaw
  decide +kernel

/-- R91, R94, R95: the space of a claim is held while its entry is in use, and comes back with the release notice. -/
theorem test_space_comes_back :
    let s := stateAfter (.cancelRequest 0 1) (stateAfter (.claim (claimOf corner 0 1 41 0 2)) cornerGranted)
    cell s.lines.segments 0 = ⟨10, 2⟩ ∧ reservations s = [⟨0, 1, 0, 2, [0]⟩] ∧
      let t := stateAfter (.releaseNotice 0 1 0 2 [0]) { s with mail := [] }
      cell t.lines.segments 0 = ⟨10, 0⟩ ∧ reservations t = [] := by decide +kernel

theorem witness_SpaceIsNeverOverbooked :
    HoldLaw cornerGranted ∧ HoldLaw corner ∧ (∀ m ∈ corner.mail, messageReservation m = none) ∧
    reservations corner = [] ∧ exec (.fill 3 95) corner = .next (fill 3 95 corner) ∧
    ({ corner with lines := { corner.lines with
      holdQueue := [⟨1, 41, 0, false, none, 0, 2, [0]⟩] } } : State).lines.holdQueue ≠ [] := by
  refine ⟨⟨by decide +kernel, fun e he => nomatch he⟩, ⟨by decide +kernel, fun e he => nomatch he⟩, by decide +kernel,
    by decide +kernel, rfl, by decide +kernel⟩

theorem witness_LockedTariffsStand :
    exec (.classWrite ⟨0, 9⟩ 3 30 0) corner = .next (manage ⟨0, 9⟩ (classWrite 3 30 0) corner) ∧
    corner.catalogue.lock = .locked ∧
    (∀ p, 1 ≤ (corner.port p).entry.creditLimit ∧ (corner.port p).entry.creditLimit ≤ 999999) :=
  ⟨rfl, by decide +kernel, by decide +kernel⟩

theorem witness_SentFramesAreReadBack :
    (⟨15, 0, 0x60, 255, 15, List.replicate 48 255⟩ : Frame).payload.length ≤ 48 ∧
    (⟨2, 0x70, 3, 0, List.replicate 48 255⟩ : RxFrame).payload.length ≤ 48 ∧
    (replyData (.conditions 0)).length ≤ 47 := by decide +kernel

/-- R19 and section 2.3: a GATE_SET of hop 2, gate 1, RIGHT, for tag 63 in generation 15 to the sorter at port 2, header and
payload. -/
theorem test_gateSet_is_built : (frameOf 2 (.gateSet 63 15 2 1 .right)).body = [0x2F, 0x30, 63, 0xF0, 3, 2, 1, 2] := by
  decide +kernel

theorem witness_ImagesAreReadBack :
    let i := imageOf corner
    (∀ p, 1 ≤ (cell i.ports p).creditLimit ∧ (cell i.ports p).creditLimit ≤ 999999 ∧ -500 ≤ (cell i.ports p).tare ∧
      (cell i.ports p).tare ≤ 500 ∧ (cell i.ports p).holdLimit ≤ 60000) ∧
    (10 ≤ i.timers.gateAck ∧ i.timers.gateAck ≤ 2000 ∧ 200 ≤ i.timers.handover ∧ i.timers.handover ≤ 10000 ∧
      500 ≤ i.timers.reply ∧ i.timers.reply ≤ 30000 ∧ (i.timers.idle = 0 ∨ 10 ≤ i.timers.idle ∧ i.timers.idle ≤ 600)) ∧
    (∀ k, cell i.allowances k ≤ 2000) ∧ (∀ k, 1 ≤ cell i.pitches k ∧ cell i.pitches k ≤ 15) ∧
    (∀ k, (cell i.classes k).deposit ≤ 65535) ∧ (∀ k, cell i.rates k ≤ 250) ∧ (∀ k, cell i.capacities k ≤ 255) ∧
    (∀ l, let r := (cell i.lines l).1
      1 ≤ r.route.length ∧ r.route.length ≤ 6 ∧ 1 ≤ r.segments.length ∧ r.segments.length ≤ 4 ∧ r.segments.Nodup ∧
        r.overflow ≠ some l ∧ r.nearFull < r.full ∧ r.full ≤ 100 ∧ 500 ≤ r.transitLimit ∧ r.transitLimit ≤ 60000) ∧
    (∀ k, 20 ≤ (cell i.sense k).debounce ∧ (cell i.sense k).debounce ≤ 2000) := by decide +kernel

end Sys2Proof.Tests
end

section
/-! The credit account of every link over every command: one lemma for each meaning that Laws/Links.lean does not cover, and
the step lemma they add up to. -/

namespace Sys2Proof.Machine

section Accounts
variable {s t : State} {p : Port}

/-- What leaves the ports alone keeps every account. -/
theorem LinkLaw.same (h : LinkLaw s) (e : t.ports = s.ports) : LinkLaw t := fun p => by
  have : t.port p = s.port p := by simp only [State.port, e]
  exact this ▸ h p

theorem LinkLaw.foldl {α : Type} {f : State → α → State} (h : LinkLaw s) (hf : ∀ s x, LinkLaw s → LinkLaw (f s x))
    (l : List α) : LinkLaw (l.foldl f s) :=
  linkLaw_foldl (fun {s x} k => hf s x k) h

/-! ### Postings and container records: whatever credit they carry -/

theorem linkLaw_takePosting {g : Posting} (h : LinkLaw s) : LinkLaw (takePosting p g s) := by
  unfold takePosting
  split
  · exact h
  · exact LinkLaw.calm (s := s.setSession p _) h (calm_offerTally (.refl _))

theorem linkLaw_carry {g : Posting} (h : LinkLaw s) : LinkLaw (carry p g s) := by
  unfold carry
  split
  · exact h
  · exact h

theorem linkLaw_postPast {g : Posting} (h : LinkLaw s) : LinkLaw (postPast p g s) := by
  have k : LinkLaw (closeAttempt p s).2 := h.calm (calm_closeAttempt (.refl _))
  unfold postPast
  dsimp only
  split
  · exact linkLaw_takePosting k
  · exact linkLaw_carry k

theorem linkLaw_postWaiting {x : Session} {g : Posting} (h : LinkLaw s) : LinkLaw (postWaiting p x g s) := by
  unfold postWaiting
  split
  · have k : LinkLaw (closeAttempt p (s.setSession p (some (addPosting x g)))).2 :=
      LinkLaw.calm (s := s.setSession p _) h (calm_closeAttempt (.refl _))
    dsimp only
    split
    · exact k
    · exact k.calm (calm_offerTally (.refl _))
  · exact h

theorem linkLaw_takePostingEvent {g : Posting} (h : LinkLaw s) : LinkLaw (takePostingEvent g s) := by
  unfold takePostingEvent
  split
  · exact h
  · split
    case h_1 => exact linkLaw_postWaiting h
    all_goals
      split
      · exact linkLaw_postPast h
      · exact linkLaw_takePosting h

theorem linkLaw_takeRecord {tag : Tag} {g : Gen} {r : ContainerRecord} (h : LinkLaw s) :
    LinkLaw (takeRecord tag g r s) := by
  unfold takeRecord
  dsimp only
  split
  · exact h
  · rename_i u _
    have k : LinkLaw (offerGates tag g 0 u.route s).2 := h.calm (calm_offerGates (.refl _))
    split
    · split
      · exact k
      · exact k.calm (calm_cancelWithFault (.refl _))
    · exact h

theorem linkLaw_dropped {q : Byte} (h : LinkLaw s) : LinkLaw (dropped p q s) := by
  unfold dropped
  split
  · exact h
  · split <;> exact h

/-! ### Management requests -/

theorem linkLaw_lockRead {n : Nat} (h : LinkLaw s) : LinkLaw (lockRead n s).state := by
  unfold lockRead
  split
  · exact h
  · split
    · exact h
    · split <;> exact h

/-- A read of one entry of a table changes nothing. -/
@[simp] theorem readAt_state {n i : Nat} {data : Fin n → ReplyData} : (readAt n i data s).state = s := by
  unfold readAt
  split <;> rfl

theorem linkLaw_readEntry {n i : Nat} (h : LinkLaw s) : LinkLaw (readEntry n i s).state := by
  unfold readEntry
  split
  case h_13 => exact linkLaw_lockRead h
  case h_14 => exact h
  all_goals
    rw [readAt_state]
    exact h

@[simp] theorem readSession_state {i n : Nat} : (readSession i n s).state = s := by
  unfold readSession
  (repeat' split) <;> rfl

@[simp] theorem readContext_state {i n : Nat} : (readContext i n s).state = s := by
  unfold readContext
  (repeat' split) <;> rfl

@[simp] theorem readErrorRecord_state {i n : Nat} : (readErrorRecord i n s).state = s := by
  unfold readErrorRecord
  (repeat' split) <;> rfl

@[simp] theorem readTransit_state {i n : Nat} : (readTransit i n s).state = s := by
  unfold readTransit
  (repeat' split) <;> rfl

@[simp] theorem readHoldQueue_state {i n : Nat} : (readHoldQueue i n s).state = s := by
  unfold readHoldQueue
  (repeat' split) <;> rfl

@[simp] theorem readVoucherQueue_state {i n : Nat} : (readVoucherQueue i n s).state = s := by
  unfold readVoucherQueue
  (repeat' split) <;> rfl

@[simp] theorem readSegment_state {i n : Nat} : (readSegment i n s).state = s := by
  unfold readSegment
  split
  · rfl
  · exact readAt_state

/-- A read of working state changes nothing (R178). -/
@[simp] theorem readState_state {k i n : Nat} : (readState k i n s).state = s := by
  unfold readState
  split
  · exact readSession_state
  · exact readContext_state
  · exact readErrorRecord_state
  · exact readTransit_state
  · exact readHoldQueue_state
  · exact readVoucherQueue_state
  · exact readSegment_state
  · rfl

theorem linkLaw_timerWrite {i v : Nat} (h : LinkLaw s) : LinkLaw (timerWrite i v s).state := by
  unfold timerWrite
  split <;> exact h

theorem linkLaw_materialWrite {i v : Nat} (h : LinkLaw s) : LinkLaw (materialWrite i v s).state := by
  unfold materialWrite
  split
  · exact h
  · split <;> exact h

theorem linkLaw_pitchWrite {i v : Nat} (h : LinkLaw s) : LinkLaw (pitchWrite i v s).state := by
  unfold pitchWrite
  split
  · exact h
  · split <;> exact h

theorem linkLaw_classWrite {i k : Nat} {d : Fin 65536} (h : LinkLaw s) : LinkLaw (classWrite i d k s).state := by
  unfold classWrite
  split
  · exact h
  · split
    · exact h
    · split <;> exact h

theorem linkLaw_schemeWrite {i v : Nat} (h : LinkLaw s) : LinkLaw (schemeWrite i v s).state := by
  unfold schemeWrite
  split
  · exact h
  · split <;> exact h

theorem lineRecordOf_nodup {l : LineIx} {x : LineFields} {r : LineRecord} (h : lineRecordOf l x = some r) :
    r.segments.Nodup := by
  unfold lineRecordOf at h
  split at h
  · split at h
    · cases h
    · rename_i hn
      cases h
      simp only [not_or, not_not] at hn
      exact hn.2.2.2.2.1
  · cases h

theorem linkLaw_lineWrite {i : Nat} {x : LineFields} (h : LinkLaw s) : LinkLaw (lineWrite i x s).state := by
  unfold lineWrite
  split
  · exact h
  · split
    · exact h
    · rename_i hr
      split
      · exact h
      · exact h.calm (calm_applyLine (lineRecordOf_nodup hr) (.refl _))

theorem linkLaw_lineControl {i : Nat} {b : Bool} (h : LinkLaw s) : LinkLaw (lineControl i b s).state := by
  unfold lineControl
  split
  · exact h
  · rename_i l _
    exact LinkLaw.calm (s := s.setLine l _) h (calm_rederive (.refl _))

theorem linkLaw_segmentWrite {i v : Nat} (h : LinkLaw s) : LinkLaw (segmentWrite i v s).state := by
  unfold segmentWrite
  split
  · exact h
  · exact LinkLaw.calm (h.same (by rfl)) (calm_walk (.refl _))

theorem linkLaw_dispositionWrite {i : Nat} {x : DispositionFields} (h : LinkLaw s) :
    LinkLaw (dispositionWrite i x s).state := by
  unfold dispositionWrite
  split
  · exact h
  · split <;> exact h

theorem linkLaw_senseWrite {i : Nat} {x : SenseFields} (h : LinkLaw s) : LinkLaw (senseWrite i x s).state := by
  unfold senseWrite
  split
  · exact h
  · split
    · exact h
    · show LinkLaw (applySense _ _ s)
      unfold applySense
      split
      · exact h
      · exact h.calm (calm_evalOutputs (calm_setInput (calm_cond (calm_releaseInput (.refl _)))))

theorem linkLaw_outputWrite {i : Nat} {x : OutputFields} (h : LinkLaw s) : LinkLaw (outputWrite i x s).state := by
  unfold outputWrite
  split
  · exact h
  · split
    · exact h
    · exact h.calm (calm_evalOutputs (calm_cond (.refl _)))

theorem linkLaw_maskWrite {i : Nat} {b : BitVec 24} (h : LinkLaw s) : LinkLaw (maskWrite i b s).state := by
  unfold maskWrite
  split
  · exact h
  · exact h.calm (calm_evalOutputs (calm_cond (.refl _)))

theorem linkLaw_lockWrite {i : Nat} {k : Key} (h : LinkLaw s) : LinkLaw (lockWrite i k s).state := by
  unfold lockWrite
  split
  · exact h
  · split <;> exact h

theorem linkLaw_articleInsert {x : ArticleFields} (h : LinkLaw s) : LinkLaw (articleInsert x s).state := by
  unfold articleInsert
  split
  · exact h
  · dsimp only
    split
    · exact h
    · split <;> exact h

theorem linkLaw_articleReplace {x : ArticleFields} (h : LinkLaw s) : LinkLaw (articleReplace x s).state := by
  unfold articleReplace
  split
  · exact h
  · dsimp only
    split <;> exact h

theorem linkLaw_articleDelete {k : ArticleCode} (h : LinkLaw s) : LinkLaw (articleDelete k s).state := by
  unfold articleDelete
  split
  · exact h
  · dsimp only
    split <;> exact h

theorem linkLaw_articleFind {k : ArticleCode} (h : LinkLaw s) : LinkLaw (articleFind k s).state := by
  unfold articleFind
  split
  · exact h
  · dsimp only
    split <;> exact h

theorem linkLaw_articleRead {n : Nat} (h : LinkLaw s) : LinkLaw (articleRead n s).state := by
  unfold articleRead
  split <;> exact h

theorem linkLaw_unlock {k : Key} (h : LinkLaw s) : LinkLaw (unlock k s).state := by
  unfold unlock
  split <;> exact h

theorem calm_counterResume {n : Nat} : Calm s (counterResume n s).state := by
  unfold counterResume
  split
  · exact .refl _
  · split
    · exact .refl _
    · split
      · exact .refl _
      · split
        · exact .refl _
        · exact calm_resumeUnit (.refl _)

/-! ### Sense inputs -/

theorem calm_senseAssert {i : SenseIx} : Calm s (senseAssert i s) := calm_setInput (.refl _)

theorem calm_senseRelease {i : SenseIx} : Calm s (senseRelease i s) := calm_setInput (.refl _)

theorem calm_debounceExpiry {i : SenseIx} : Calm s (debounceExpiry i s) := by
  unfold debounceExpiry
  dsimp only
  split
  · exact calm_latchInput (.refl _)
  · exact .refl _

/-! ### Resets and the store -/

theorem portLaw_reset (p : Port) (c : Bool) (n : List TxFrame) :
    PortLaw { LinkPort.reset p with carrier := c, sent := n } := by
  simp [PortLaw, LinkPort.reset]

theorem linkLaw_powerOnReset (s : State) : LinkLaw (powerOnReset s) := fun p => by
  have : (powerOnReset s).port p = powerOnPort s p := cell_perPort _ _
  exact this ▸ portLaw_reset p _ _

theorem portLaw_startPort {l : LinkPort} (h : PortLaw l) : PortLaw (startPort l) := by
  unfold startPort
  split
  · exact enters_down l h.2.2.1 h.2.2.2.2.1
  · exact h

/-- The line states reported are messages to the condition unit. -/
theorem calm_reportLines : Calm s (reportLines s) := 
  calm_foldl (f := fun t l => t.post (.lineStateReport l (t.line l).state)) (fun k => calm_post rfl trivial k) (.refl _)

/-- The tables of an image given to their blocks, and the ports, the inputs and the outputs started from them (R181). -/
def readTables (i : Image) (s : State) : State :=
  let s1 := createAll (loadTables i s)
  reportLines (startInputs { s1 with
    ports := mapCells startPort s1.ports, mgmt := { s1.mgmt with loading := false } })

theorem completeRead_eq (s : State) : completeRead s = evalOutputs (if validImage s.store then
    readTables (tablesRead s.store) s else (readTables (tablesRead s.store) s).request .configDefault) := rfl

theorem linkLaw_readTables {i : Image} (h : LinkLaw s) : LinkLaw (readTables i s) := by
  refine LinkLaw.calm (fun q => ?_) calm_reportLines
  have started : (startInputs { createAll (loadTables i s) with
      ports := mapCells startPort (createAll (loadTables i s)).ports
      mgmt := { (createAll (loadTables i s)).mgmt with loading := false } }).port q =
      startPort { s.port q with entry := cell i.ports q } :=
    (cell_mapCells _ _ q).trans (congrArg startPort (cell_tabulate _ _ q))
  exact started ▸ portLaw_startPort (h q)

theorem linkLaw_completeRead (h : LinkLaw s) : LinkLaw (completeRead s) := by
  rw [completeRead_eq]
  refine LinkLaw.calm ?_ (calm_evalOutputs (.refl _))
  split
  · exact linkLaw_readTables h
  · exact linkLaw_request (linkLaw_readTables h)

theorem linkLaw_storeReadDone {m : Option ConfigStore} (h : LinkLaw s) : LinkLaw (storeReadDone m s) := by
  unfold storeReadDone
  split
  · split
    · exact linkLaw_completeRead h
    · exact linkLaw_completeRead (h.same rfl)
  · exact h

theorem linkLaw_softAdmission (h : LinkLaw s) : LinkLaw (softAdmission s) :=
  LinkLaw.calm (s := { s with admission := { s.admission with roomStop := false } }) h
    (calm_foldl calm_resetContext (.refl _))

theorem linkLaw_softLines (h : LinkLaw s) : LinkLaw (softLines s) := by
  unfold softLines
  exact LinkLaw.calm (h.same (by rfl)) calm_reportLines

theorem linkLaw_softConditions (h : LinkLaw s) : LinkLaw (softConditions s) := by
  unfold softConditions
  exact LinkLaw.calm (h.same (by rfl)) (calm_evalOutputs (calm_withConditions (.refl _)))

theorem linkLaw_softTransit (h : LinkLaw s) : LinkLaw (softTransit s) := h

theorem linkLaw_softTally (h : LinkLaw s) : LinkLaw (softTally s) := h

theorem linkLaw_softFaults (h : LinkLaw s) : LinkLaw (softFaults s) := h

theorem linkLaw_softCatalogue (h : LinkLaw s) : LinkLaw (softCatalogue s) := h

theorem linkLaw_softReset (h : LinkLaw s) : LinkLaw (softReset s) :=
  linkLaw_softConditions (linkLaw_softFaults (linkLaw_softTally (linkLaw_softTransit
    (linkLaw_softLines (linkLaw_softAdmission (linkLaw_softCatalogue h))))))

@[simp] theorem answer_state (x : Status) (s : State) : (answer x s).state = s := rfl

theorem linkLaw_softResetRequest (h : LinkLaw s) : LinkLaw (softResetRequest s).state := by
  unfold softResetRequest
  split
  · exact h
  · rw [answer_state]
    exact linkLaw_softReset h

theorem linkLaw_storeSave {r : Requester} (h : LinkLaw s) : LinkLaw (storeSave r s) := by
  unfold storeSave
  split
  · exact h
  · split
    · exact h.calm (calm_placeReply (.refl _))
    · split
      · exact h.calm (calm_placeReply (calm_request (.refl _)))
      · exact h

theorem calm_oweReply {v : Save} {x : Status} : Calm s (oweReply v x s) := by
  unfold oweReply
  split
  · exact .refl _
  · exact calm_settleOwed (calm_setSlot (.refl _))

theorem linkLaw_endSave {v : Save} {b : Bool} (h : LinkLaw s) : LinkLaw (endSave v b s) := by
  unfold endSave
  split
  · exact LinkLaw.calm (s := withSave s none) h calm_oweReply
  · exact LinkLaw.calm (s := (withSave s none).request .storeFailed) h calm_oweReply

theorem linkLaw_storeSaveDone {e : SaveEnd} (h : LinkLaw s) : LinkLaw (storeSaveDone e s) := by
  unfold storeSaveDone
  split
  · exact h
  · split
    · exact linkLaw_endSave h
    · dsimp only
      split
      · exact h
      · exact linkLaw_endSave (h.same rfl)
    · exact linkLaw_endSave (h.same rfl)

/-! ### Every command, and every step -/

theorem linkLaw_of_next {u : State} (h : LinkLaw u) (e : (.next u : Host.Outcome State Fault Refusal) = .next t) :
    LinkLaw t := by
  cases e
  exact h

theorem linkLaw_of_calm {u : State} (h : LinkLaw s) (c : Calm s u)
    (e : (.next u : Host.Outcome State Fault Refusal) = .next t) : LinkLaw t := linkLaw_of_next (h.calm c) e

theorem linkLaw_of_manage {r : Requester} {f : State → Answer} (h : LinkLaw s) (hf : LinkLaw (f s).state)
    (e : (.next (manage r f s) : Host.Outcome State Fault Refusal) = .next t) : LinkLaw t :=
  linkLaw_of_next (linkLaw_manage hf h) e

/-- Every command keeps the account of every link. -/
theorem linkLaw_exec {i : Instr} (h : LinkLaw s) (e : exec i s = .next t) : LinkLaw t := by
  have rfl' : Calm s s := .refl s
  cases i with
  | powerOnReset => exact linkLaw_of_next (linkLaw_powerOnReset s) e
  | storeReadDone m => exact linkLaw_of_next (linkLaw_storeReadDone h) e
  | signalDetect p => exact linkLaw_of_next (linkLaw_signalDetect h) e
  | signalLoss p => exact linkLaw_of_next (linkLaw_signalLoss h) e
  | frameArrival p b => exact linkLaw_of_next (linkLaw_frameArrival h) e
  | announce p f => exact linkLaw_of_next (linkLaw_takeAnnounce h) e
  | credit p f => exact linkLaw_of_next (linkLaw_creditFrame h) e
  | frameTransmit p => exact linkLaw_of_next (linkLaw_frameTransmit h) e
  | placeFree p o => exact linkLaw_of_next (linkLaw_placeFree h) e
  | frameDispatch p => exact linkLaw_of_next (linkLaw_dispatchFrame h) e
  | pass p => exact linkLaw_of_next (linkLaw_passFrame h) e
  | sighting p x => exact linkLaw_of_calm h (calm_sighting rfl') e
  | faultOutcome p n o => exact linkLaw_of_calm h (calm_applyOutcome rfl') e
  | withdrawn p q => exact linkLaw_of_calm h (calm_withdrawn rfl') e
  | returned p q => exact linkLaw_of_calm h (calm_returned rfl') e
  | dropped p q => exact linkLaw_of_next (linkLaw_dropped h) e
  | present p => exact linkLaw_of_calm h (calm_restartIdle rfl') e
  | finish p =>
    refine linkLaw_of_next ?_ e
    split
    · exact h
    · exact h.calm (calm_applyFinish ‹_› rfl')
  | headFault p n c => exact linkLaw_of_calm h (calm_headFault rfl') e
  | gateAck p g n k r => exact linkLaw_of_calm h (calm_gateAck rfl') e
  | passage p g n k => exact linkLaw_of_calm h (calm_passage rfl') e
  | arrival p g n => exact linkLaw_of_calm h (calm_arrival rfl') e
  | fill p n => exact linkLaw_of_calm h (calm_fill rfl') e
  | voucherDone p n r => exact linkLaw_of_calm h (calm_voucherDone rfl') e
  | holdTimerExpiry p => exact linkLaw_of_calm h (calm_holdExpiry rfl') e
  | handoverTimerExpiry p => exact linkLaw_of_calm h (calm_handoverExpiry rfl') e
  | gateAckTimerExpiry g => exact linkLaw_of_calm h (calm_gateAckExpiry rfl') e
  | transitTimerExpiry g => exact linkLaw_of_calm h (calm_transitExpiry rfl') e
  | idleTimerExpiry p => exact linkLaw_of_calm h (calm_idleExpiry rfl') e
  | replyTimerExpiry p => exact linkLaw_of_calm h (calm_replyExpiry rfl') e
  | senseAssert n => exact linkLaw_of_calm h calm_senseAssert e
  | senseRelease n => exact linkLaw_of_calm h calm_senseRelease e
  | debounceTimerExpiry n => exact linkLaw_of_calm h calm_debounceExpiry e
  | claim c => exact linkLaw_of_calm h (calm_takeClaim rfl') e
  | containerRecord g n r => exact linkLaw_of_next (linkLaw_takeRecord h) e
  | grantNotice p q g n l k => exact linkLaw_of_calm h (calm_grantNotice rfl') e
  | reselectionNotice p q l k => exact linkLaw_of_calm h (calm_reselectionNotice rfl') e
  | removalRequest p => exact linkLaw_of_calm h (calm_removeEntry rfl') e
  | releaseNotice g n l k q => exact linkLaw_of_calm h (calm_release rfl') e
  | cancelRequest g n => exact linkLaw_of_calm h (calm_cancelRequest rfl') e
  | freeRequest g n => exact linkLaw_of_calm h (calm_freeRequest rfl') e
  | gatesSetReport p g n => exact linkLaw_of_calm h (calm_gatesSet rfl') e
  | gateFault p k g n b => exact linkLaw_of_calm h (calm_gateFault rfl') e
  | dropReport p g n => exact linkLaw_of_calm h (calm_dropReport rfl') e
  | posting x => exact linkLaw_of_next (linkLaw_takePostingEvent h) e
  | dropNote p g q c => exact linkLaw_of_calm h (calm_dropNote rfl') e
  | stateReport p x r q => exact linkLaw_of_next (linkLaw_stateReport h) e
  | returnRequest p => exact linkLaw_of_calm h (calm_returnRequest rfl') e
  | returnAnswer p b x => exact linkLaw_of_calm h (calm_returnAnswer rfl') e
  | closeCompleted p => exact linkLaw_of_calm h (calm_closeCompleted rfl') e
  | roomStopReport b => exact linkLaw_of_calm h (calm_roomStopReport rfl') e
  | binFullReport l b => exact linkLaw_of_calm h (calm_withCauses rfl') e
  | flagClear p => exact linkLaw_of_calm h (calm_clearFlag rfl') e
  | transitFault k g n p q => exact linkLaw_of_calm h (calm_transitFault rfl') e
  | voucherRequest x =>
    have made : Calm s (createVoucher x s).2 := calm_createVoucher rfl'
    exact linkLaw_of_calm h (calm_vouchers
      (x := { (createVoucher x s).2.vouchers with answer := some (createVoucher x s).1 }) rfl made) e
  | voucherPlaceFreed p => exact linkLaw_of_calm h (calm_placeFreed rfl') e
  | intakeDeparture p => exact linkLaw_of_calm h (calm_intakeDeparture rfl') e
  | intakeArrival p b => exact linkLaw_of_calm h (calm_intakeArrival rfl') e
  | portEventReport p => exact linkLaw_of_calm h (calm_portEvent rfl') e
  | sorterDownReport p => exact linkLaw_of_calm h (calm_foldl calm_sorterDownEntry rfl') e
  | counterPortReport p b => exact linkLaw_of_calm h (calm_counterPortReport rfl') e
  | conditionRequest c => exact linkLaw_of_calm h (calm_setCondition rfl') e
  | lineStateReport l x => exact linkLaw_of_calm h (calm_evalOutputs (calm_cond rfl')) e
  | readEntry r k i => exact linkLaw_of_manage h (linkLaw_readEntry h) e
  | lockRecordRead r i => exact linkLaw_of_manage h (linkLaw_lockRead h) e
  | portWrite r i x => exact linkLaw_of_manage h (linkLaw_portWrite h) e
  | timerWrite r i v => exact linkLaw_of_manage h (linkLaw_timerWrite h) e
  | materialWrite r i v => exact linkLaw_of_manage h (linkLaw_materialWrite h) e
  | pitchWrite r i v => exact linkLaw_of_manage h (linkLaw_pitchWrite h) e
  | classWrite r i d k => exact linkLaw_of_manage h (linkLaw_classWrite h) e
  | schemeWrite r i v => exact linkLaw_of_manage h (linkLaw_schemeWrite h) e
  | lineWrite r i x => exact linkLaw_of_manage h (linkLaw_lineWrite h) e
  | segmentWrite r i v => exact linkLaw_of_manage h (linkLaw_segmentWrite h) e
  | dispositionWrite r i x => exact linkLaw_of_manage h (linkLaw_dispositionWrite h) e
  | senseWrite r i x => exact linkLaw_of_manage h (linkLaw_senseWrite h) e
  | outputWrite r i x => exact linkLaw_of_manage h (linkLaw_outputWrite h) e
  | maskWrite r i b => exact linkLaw_of_manage h (linkLaw_maskWrite h) e
  | lockRecordWrite r i k => exact linkLaw_of_manage h (linkLaw_lockWrite h) e
  | articleInsert r x => exact linkLaw_of_manage h (linkLaw_articleInsert h) e
  | articleReplace r x => exact linkLaw_of_manage h (linkLaw_articleReplace h) e
  | articleDelete r k => exact linkLaw_of_manage h (linkLaw_articleDelete h) e
  | articleFind r k => exact linkLaw_of_manage h (linkLaw_articleFind h) e
  | articleRead r n => exact linkLaw_of_manage h (linkLaw_articleRead h) e
  | articleClear r => exact linkLaw_of_manage (f := articleClear) h h e
  | unlock r k => exact linkLaw_of_manage h (linkLaw_unlock h) e
  | relock r => exact linkLaw_of_manage (f := relock) h h e
  | clearConditions r b =>
    exact linkLaw_of_manage (f := clearConditions b) h (h.calm (calm_clearNamed rfl')) e
  | clearSense r b => exact linkLaw_of_manage (f := clearSense b) h (h.calm (calm_releaseInputs rfl')) e
  | intakeResume r n =>
    exact linkLaw_of_manage h (h.calm (calm_intakeControl (fun _ _ => calm_resumeContext rfl') rfl')) e
  | intakeStopControl r n =>
    exact linkLaw_of_manage h (h.calm (calm_intakeControl (fun _ _ => calm_stopControl rfl') rfl')) e
  | clearFault r n => exact linkLaw_of_manage h (h.calm (calm_intakeControl (fun _ _ => calm_clearFlag rfl') rfl')) e
  | portEnable r n => exact linkLaw_of_manage h (linkLaw_adminWrite h) e
  | portDisable r n => exact linkLaw_of_manage h (linkLaw_adminWrite h) e
  | portReset r n => exact linkLaw_of_manage h (linkLaw_portReset h) e
  | lineEnable r n => exact linkLaw_of_manage h (linkLaw_lineControl h) e
  | lineDisable r n => exact linkLaw_of_manage h (linkLaw_lineControl h) e
  | counterResume r n => exact linkLaw_of_manage h (h.calm calm_counterResume) e
  | readState r k i n => exact linkLaw_of_manage h (readState_state.symm ▸ h) e
  | softReset r => exact linkLaw_of_manage h (linkLaw_softResetRequest h) e
  | storeSave r => exact linkLaw_of_next (linkLaw_storeSave h) e
  | storeSaveDone x => exact linkLaw_of_next (linkLaw_storeSaveDone h) e

/-- What a step does: a command executed with the ports as they stand, or a tick (log entries 1 and 3). -/
theorem step_cases (e : step s = .next t) : (∃ i u, u.ports = s.ports ∧ exec i u = .next t) ∨ t = tick s := by
  unfold step at e
  split at e
  · exact .inl ⟨_, _, by rfl, e⟩
  · split at e
    · exact .inl ⟨_, _, by rfl, e⟩
    · split at e
      · exact .inl ⟨_, s, rfl, e⟩
      · cases e
        exact .inr rfl

end Accounts

/-- Settles O54: a command keeps every account (linkLaw_exec), and a tick leaves the ports alone. -/
theorem linksKeepTheirAccount : Obligations.LinksKeepTheirAccount := by
  intro s t h e
  obtain ⟨i, u, hu, e⟩ | rfl := step_cases e
  · exact linkLaw_exec (h.same hu) e
  · exact h.same rfl

end Sys2Proof.Machine
end

section
/-! The link ports and the idle step, one equation per case: ticks, offers, link states, the error score, ANNOUNCE, CREDIT and
transmissions; with the statements of section 1 that they settle. -/

namespace Sys2Proof.Machine

section Ports
variable {s : State} {p : Port}

/-! ### The 1 ms tick (R177) -/

@[simp] theorem tick_context (s : State) (p : Port) : (tick s).context p = (s.context p).map tickContext :=
  cell_mapCells _ _ p

@[simp] theorem tick_entry (s : State) (g : Tag) :
    (tick s).entry g = { s.entry g with timer := tickTimer (s.entry g).timer } := cell_mapCells _ _ g

@[simp] theorem tick_session (s : State) (p : Port) :
    (tick s).session p = (s.session p).map fun x => { x with idleTimer := tickTimer x.idleTimer } := cell_mapCells _ _ p

@[simp] theorem tick_unit (s : State) (p : Port) :
    (tick s).unit p = (s.unit p).map fun u => { u with replyTimer := tickTimer u.replyTimer } := cell_mapCells _ _ p

@[simp] theorem tick_input (s : State) (i : SenseIx) :
    cell (tick s).cond.inputs i = { cell s.cond.inputs i with timer := tickTimer (cell s.cond.inputs i).timer } :=
  cell_mapCells _ _ i

/-! ### What a port update leaves of the port -/

@[simp] theorem setPort_up_self (s : State) (p : Port) (x : LinkPort) : (s.setPort p x).up p = (x.link == .up) := by
  simp [State.up]

@[simp] theorem setPort_role_self (s : State) (p : Port) (x : LinkPort) : (s.setPort p x).role p = x.entry.role := by
  simp [State.role]

theorem up_iff : s.up p = true ↔ (s.port p).link = .up := by simp [State.up]

theorem request_setPort (s : State) (p : Port) (x : LinkPort) (c : Condition) :
    (s.setPort p x).request c = (s.request c).setPort p x := rfl

/-! ### Offers (R14) -/

/-- A waiting list offered to a port that is UP fills the free places of its transmit queue, in order. -/
theorem offerList_up {α : Type} (frame : α → TxFrame) (l : List α) {s : State} (hu : (s.port p).link = .up) :
    offerList frame p l s = (l.drop (16 - (s.port p).tx.length), s.setPort p { s.port p with
      tx := (s.port p).tx ++ (l.take (16 - (s.port p).tx.length)).map frame }) := by
  induction l generalizing s with
  | nil =>
    simp only [offerList, List.drop_nil, List.take_nil, List.map_nil, List.append_nil]
    exact congrArg _ (setPort_port_eta s p).symm
  | cons x xs ih =>
    by_cases hl : (s.port p).tx.length < 16
    · have ha : offerAnswer s p = .accepted := offerAnswer_accepted.mpr ⟨hu, hl⟩
      have hn : 16 - (s.port p).tx.length = (16 - ((s.port p).tx.length + 1)) + 1 := by omega
      have step : offerList frame p (x :: xs) s = offerList frame p xs (enqueue s p (frame x)) := by
        simp only [offerList, ha]
      rw [step, ih (by simpa using hu)]
      simp [enqueue, setPort_setPort, hn]
    · have ha : offerAnswer s p = .queueFull := by
        simp [offerAnswer, hu, Config.txPlaces, Nat.le_of_not_lt hl]
      have hn : 16 - (s.port p).tx.length = 0 := by omega
      simp only [offerList, ha, hn, List.drop_zero, List.take_zero, List.map_nil, List.append_nil]
      exact congrArg _ (setPort_port_eta s p).symm

/-- A port that is not UP drops a waiting list. -/
theorem offerList_off {α : Type} (frame : α → TxFrame) (l : List α) (hu : (s.port p).link ≠ .up) :
    offerList frame p l s = ([], s) := by
  cases l with
  | nil => rfl
  | cons x xs => simp [offerList, offerAnswer_notUp.mpr hu]

/-! ### Link states (R4, R5, R16) -/

theorem moveLink_up {f : LinkPort → LinkPort} (h : (s.port p).link = .up) :
    moveLink p f s = departure p (s.setPort p (f (s.port p))) := by simp [moveLink, up_iff.mpr h]

theorem moveLink_off {f : LinkPort → LinkPort} (h : (s.port p).link ≠ .up) :
    moveLink p f s = s.setPort p (f (s.port p)) := by simp [moveLink, State.up, h]

/-- An error below the limit raises the score (R10). -/
theorem addError_below (h : (s.port p).errorScore < 15) :
    addError p s = s.setPort p { s.port p with errorScore := (s.port p).errorScore + 1 } := by
  have hm : min ((s.port p).errorScore + 1) 16 = (s.port p).errorScore + 1 := by omega
  have hn : ¬ 16 ≤ (s.port p).errorScore + 1 := by omega
  simp [addError, Config.scoreLimit, hm, hn]

/-- An error that brings the score to its limit where it still counts faults the port (R7, R10). -/
theorem addError_limit (h : 15 ≤ (s.port p).errorScore) (hl : (s.port p).link = .training ∨ (s.port p).link = .up) :
    addError p s = moveLink p enterFaulted ((s.request .linkFault).setPort p { s.port p with errorScore := 16 }) := by
  have hn : 16 ≤ (s.port p).errorScore + 1 := by omega
  simp [addError, Config.scoreLimit, hn, hl.symm, request_setPort]

/-- Elsewhere the score stays at its limit (R10). -/
theorem addError_idle (h : 15 ≤ (s.port p).errorScore) (ht : (s.port p).link ≠ .training) (hu : (s.port p).link ≠ .up) :
    addError p s = s.setPort p { s.port p with errorScore := 16 } := by
  have hm : min ((s.port p).errorScore + 1) 16 = 16 := by omega
  simp [addError, Config.scoreLimit, hm, ht, hu]

/-! ### Good frames (R10): the counts alone change -/

@[simp] theorem countGood_link (l : LinkPort) : (countGood l).link = l.link := by unfold countGood; split <;> rfl
@[simp] theorem countGood_entry (l : LinkPort) : (countGood l).entry = l.entry := by unfold countGood; split <;> rfl
@[simp] theorem countGood_rx (l : LinkPort) : (countGood l).rx = l.rx := by unfold countGood; split <;> rfl
@[simp] theorem countGood_tx (l : LinkPort) : (countGood l).tx = l.tx := by unfold countGood; split <;> rfl
@[simp] theorem countGood_granted (l : LinkPort) : (countGood l).granted = l.granted := by unfold countGood; split <;> rfl
@[simp] theorem countGood_taken (l : LinkPort) : (countGood l).taken = l.taken := by unfold countGood; split <;> rfl
@[simp] theorem countGood_txCredit (l : LinkPort) : (countGood l).txCredit = l.txCredit := by
  unfold countGood; split <;> rfl

/-- Counting a good frame does not read the grants. -/
theorem countGood_granted_comm (l : LinkPort) (n : Nat) :
    countGood { l with granted := n } = { countGood l with granted := n } := by unfold countGood; split <;> rfl

/-! ### ANNOUNCE (R5, R6, R17) -/

theorem announceOf_valid {f : RxFrame} {role : Role} {r c st : Byte} (hd : f.dst = 15) (hp : f.payload = [r, c, st])
    (hr : decodeName roles r.toNat = some role) (hn : role ≠ .unused) (hc : c.toNat ≤ 15) :
    announceOf f = some ⟨role, c.toNat, st⟩ := by
  have hc' : ¬ 15 < c.toNat := by omega
  cases role with
  | unused => exact absurd rfl hn
  | intake | sorter | bin | counter | controller => simp [announceOf, Config.switchAddress, hd, hp, hr, hc']

theorem announceOf_invalid {f : RxFrame} (h : f.dst ≠ 15 ∨ f.payload.length ≠ 3 ∨
    ∃ r c st, f.payload = [r, c, st] ∧ (r.toNat = 0 ∨ 5 < r.toNat ∨ 15 < c.toNat)) : announceOf f = none := by
  unfold announceOf
  split
  · rfl
  · rename_i hd
    simp only [Config.switchAddress, ne_eq, not_not] at hd
    split
    · rename_i r c st hp
      obtain h | h | ⟨r', c', st', hp', h⟩ := h
      · exact absurd hd h
      · simp [hp] at h
      · cases hp.symm.trans hp'
        split
        · rfl
        · rfl
        · rename_i role hn hr
          have hlt : r.toNat < 6 := (List.getElem?_eq_some_iff.mp hr).1
          have hne : r.toNat ≠ 0 := fun e => by
            rw [e] at hr
            exact hn (Option.some.inj hr).symm
          have : 15 < c.toNat := by omega
          simp [this]
    · rfl

theorem takeAnnounce_valid {f : RxFrame} {a : Announced}
    (hl : (s.port p).link = .training ∨ (s.port p).link = .up) (ha : announceOf f = some a) :
    takeAnnounce p f s = takeAnnounced p a s := by
  unfold takeAnnounce
  obtain hl | hl := hl <;> rw [hl, ha]

theorem takeAnnounce_invalid {f : RxFrame} (hl : (s.port p).link = .training ∨ (s.port p).link = .up)
    (ha : announceOf f = none) : takeAnnounce p f s = addError p s := by
  unfold takeAnnounce
  obtain hl | hl := hl <;> rw [hl, ha]

/-- An ANNOUNCE in another link state changes nothing. -/
theorem takeAnnounce_dead {f : RxFrame} (ht : (s.port p).link ≠ .training) (hu : (s.port p).link ≠ .up) :
    takeAnnounce p f s = s := by
  unfold takeAnnounce
  cases hl : (s.port p).link with
  | training => exact absurd hl ht
  | up => exact absurd hl hu
  | disabled | down | faulted => rfl

/-- A port after a good frame that carries a station code (R1, R10). -/
def announcedPort (a : Announced) (l : LinkPort) : LinkPort := { countGood l with stationCode := a.station }

theorem takeAnnounced_mismatch {a : Announced} (h : a.role ≠ s.role p) : takeAnnounced p a s =
    moveLink p enterFaulted ((s.request .roleMismatch).setPort p (announcedPort a (s.port p))) := by
  simp [takeAnnounced, h, roleMismatch, goodFrame, setPort_setPort, request_setPort, announcedPort]

theorem takeAnnounced_restart {a : Announced} (h : a.role = s.role p) (hu : (s.port p).link = .up) :
    takeAnnounced p a s = restartReports p (s.setPort p (restartedPort a (announcedPort a (s.port p)))) := by
  simp [takeAnnounced, h, up_iff.mpr hu, goodFrame, setPort_setPort, announcedPort]

theorem takeAnnounced_start {a : Announced} (h : a.role = s.role p) (hu : (s.port p).link ≠ .up) :
    takeAnnounced p a s = arrivalReports p (s.setPort p (upPort a (announcedPort a (s.port p)))) := by
  simp [takeAnnounced, h, State.up, hu, goodFrame, setPort_setPort, announcedPort]

/-! ### CREDIT (R11 to R13) -/

theorem creditDue_iff (l : LinkPort) : creditDue l = true ↔ 4 ≤ l.taken ∨ 0 < l.taken ∧ l.rx = [] := by
  simp only [creditDue, Bool.or_eq_true, decide_eq_true_eq, Bool.and_eq_true, List.isEmpty_iff]
  rfl

/-- One place taken: the credit for every place taken goes back at 4, or with the queue empty (R12). -/
def countTaken (l : LinkPort) : LinkPort :=
  let m := { l with taken := l.taken + 1 }
  if 4 ≤ m.taken ∨ m.rx = [] then
    { m with granted := m.granted + m.taken, taken := 0, sent := m.sent ++ [.credit m.taken] }
  else m

theorem takeCount_eq (s : State) (p : Port) : takeCount p s = s.setPort p (countTaken (s.port p)) := by
  have hd : creditDue { s.port p with taken := (s.port p).taken + 1 } = true ↔
      4 ≤ (s.port p).taken + 1 ∨ (s.port p).rx = [] := by simp [creditDue_iff]
  unfold takeCount returnCredit countTaken
  rw [setPort_port_self]
  by_cases h : 4 ≤ (s.port p).taken + 1 ∨ (s.port p).rx = []
  · exact (if_pos (hd.mpr h)).trans ((setPort_setPort _ _ _ _).trans (congrArg _ (if_pos h).symm))
  · exact (if_neg (mt hd.mp h)).trans (congrArg _ (if_neg h).symm)

theorem creditCount_valid {f : RxFrame} {n : Byte} (hp : f.payload = [n]) (h1 : 1 ≤ n.toNat) (h2 : n.toNat ≤ 15) :
    creditCount f = some n.toNat := by
  have : ¬ (n.toNat = 0 ∨ 15 < n.toNat) := by omega
  simp only [creditCount, hp, this, if_false]

theorem creditCount_invalid {f : RxFrame}
    (h : f.payload.length ≠ 1 ∨ ∃ n, f.payload = [n] ∧ (n.toNat = 0 ∨ 15 < n.toNat)) : creditCount f = none := by
  unfold creditCount
  split
  · rename_i n hp
    obtain h | ⟨m, hm, h⟩ := h
    · simp [hp] at h
    · cases hp.symm.trans hm
      simp only [h, if_true]
  · rfl

theorem creditFrame_up {f : RxFrame} (hu : (s.port p).link = .up) :
    creditFrame p f s = if (s.port p).granted = 0 then overrun p s else takeCredit p f s := by
  unfold creditFrame
  rw [hu]

theorem creditFrame_training {f : RxFrame} (ht : (s.port p).link = .training) : creditFrame p f s = goodFrame p s := by
  unfold creditFrame
  rw [ht]

theorem creditFrame_dead {f : RxFrame}
    (h : (s.port p).link = .disabled ∨ (s.port p).link = .down ∨ (s.port p).link = .faulted) : creditFrame p f s = s := by
  unfold creditFrame
  obtain h | h | h := h <;> rw [h]

theorem takeGrant_up (hu : s.up p = true) : takeGrant p s = takeCount p s := by simp [takeGrant, hu]

theorem takeCredit_valid {f : RxFrame} {n : Nat} (h : creditCount f = some n) : takeCredit p f s =
    takeGrant p (s.setPort p (addCredit n { countGood (s.port p) with granted := (s.port p).granted - 1 })) := by
  simp only [takeCredit, h, goodFrame, useGrant, setPort_port_self, setPort_setPort, countGood_granted_comm]

theorem takeCredit_invalid {f : RxFrame} (h : creditCount f = none) :
    takeCredit p f s = takeGrant p (addError p (useGrant p s)) := by simp only [takeCredit, h]

/-! ### Transmission (R14, R15) -/

theorem foldl_post {α : Type} (f : α → Instr) (l : List α) (s : State) :
    l.foldl (fun t x => t.post (f x)) s = { s with mail := s.mail ++ l.map f } := by
  induction l generalizing s with
  | nil => simp
  | cons x xs ih =>
    rw [List.foldl_cons, ih, List.map_cons]
    simp [State.post]

theorem notifyPlace_eq (s : State) (p : Port) :
    notifyPlace p s = { s with mail := s.mail ++ (waitingOwners s p).map (Instr.placeFree p) } := foldl_post _ _ _

/-- Every owner block is among those told in turn, each once. -/
theorem owners_complete (o : Owner) : o ∈ (indices 12).map Owner.dispatcher ++ otherOwners := by
  cases o with
  | dispatcher q => simp
  | management | admission | transit | tally | counter | voucherReports | faultReports => simp [otherOwners]

theorem owners_nodup : ((indices 12).map Owner.dispatcher ++ otherOwners).Nodup := by decide

theorem mem_waitingOwners (s : State) (p : Port) (o : Owner) : o ∈ waitingOwners s p ↔ ownerWaits s p o = true := by
  simp only [waitingOwners, List.mem_filter, owners_complete, true_and]

theorem waitingOwners_nodup (s : State) (p : Port) : (waitingOwners s p).Nodup := owners_nodup.filter _

/-- Who waits for a port does not turn on what the port has sent, or on the notice slots. -/
theorem ownerWaits_sent {x : LinkPort} (hr : x.rx = (s.port p).rx) (hh : x.held = (s.port p).held) (c : ConditionUnit)
    (q : Port) (o : Owner) : ownerWaits { s.setPort p x with cond := c } q o = ownerWaits s q o := by
  cases o with
  | dispatcher r =>
    have port : ({ s.setPort p x with cond := c } : State).port r = if r = p then x else s.port r := setPort_port s p r x
    simp only [ownerWaits, waitsFor, port]
    by_cases e : r = p
    · subst e; simp [hr, hh]
    · simp [e]
  | management | admission | transit | tally | counter | voucherReports | faultReports => rfl

/-- The port after the head of its transmit queue is sent (R15). -/
def sentPort (l : LinkPort) (f : TxFrame) (rest : List TxFrame) : LinkPort :=
  { l with tx := rest, txCredit := l.txCredit - 1, sent := l.sent ++ [f] }

/-- The condition unit after a frame is sent: a NOTICE empties its slot (R169). -/
def sentConditions (p : Port) (f : TxFrame) (c : ConditionUnit) : ConditionUnit :=
  match f with
  | .notice _ => { c with queued := put c.queued p false }
  | _ => c

theorem frameTransmit_sends {f : TxFrame} {rest : List TxFrame} (hu : (s.port p).link = .up)
    (ht : (s.port p).tx = f :: rest) (hc : 0 < (s.port p).txCredit) : frameTransmit p s =
      notifyPlace p { s.setPort p (sentPort (s.port p) f rest) with cond := sentConditions p f s.cond } := by
  have h0 : (s.port p).txCredit ≠ 0 := by omega
  have slot : (if isNotice f then setQueued (s.setPort p (sentPort (s.port p) f rest)) p false
      else s.setPort p (sentPort (s.port p) f rest)) =
      { s.setPort p (sentPort (s.port p) f rest) with cond := sentConditions p f s.cond } := by
    cases f <;> rfl
  unfold frameTransmit
  dsimp only
  split
  · rename_i g more _ hg
    cases ht.symm.trans hg
    rw [if_neg h0]
    exact congrArg (notifyPlace p) slot
  · rename_i hn
    exact (hn _ _ hu ht).elim

theorem frameTransmit_idle (h : (s.port p).link ≠ .up ∨ (s.port p).tx = [] ∨ (s.port p).txCredit = 0) :
    frameTransmit p s = s := by
  unfold frameTransmit
  dsimp only
  split
  · rename_i f rest hu ht
    split
    · rfl
    · rename_i hc
      obtain h | h | h := h
      · exact absurd hu h
      · rw [h] at ht; cases ht
      · exact absurd h hc
  · rfl

end Ports

/-- Settles O2: each case is a branch of `step`, and the idle one is `tick`, field by field. -/
theorem stepWithoutACommand : Obligations.StepWithoutACommand := by
  intro s hp
  refine ⟨fun m rest hm => by simp only [step, hp, hm], fun hm => ⟨fun c hc => by simp only [step, hp, hm, hc], fun hn =>
    ⟨tick s, by simp only [step, hp, hm, hn], rfl, tick_context s, tick_entry s, tick_session s, tick_unit s, tick_input s,
      rfl, rfl, rfl, rfl, rfl, rfl⟩⟩⟩

/-- Settles O5: the carrier events by the link state, and the error score by its distance from the limit. -/
theorem linkStatesMove : Obligations.LinkStatesMove := by
  refine ⟨fun s p => ⟨?_, ?_⟩, fun s p => ⟨addError_below, fun h hl => ?_, fun h hl => ?_, addError_idle, ?_⟩⟩
  · rfl
  · show Host.Outcome.next (signalLoss p s) = _
    congr 1
    unfold signalLoss
    cases hl : (s.port p).link with
    | disabled | down => simp [hl]
    | training | faulted => simp [moveLink_off, setPort_setPort, hl, enterDown, flushed]
    | up => simp [moveLink_up, setPort_setPort, hl, enterDown, flushed]
  · rw [addError_limit h (.inl hl), moveLink_off (by simp [hl]), setPort_setPort, setPort_port_self]
    rfl
  · rw [addError_limit h (.inr hl), moveLink_up (by simp [hl]), setPort_setPort, setPort_port_self]
    rfl
  · by_cases h : (s.port p).goodFrames < 63
    · have : ¬ 64 ≤ (s.port p).goodFrames + 1 := by omega
      simp [countGood, Config.goodFrameSpan, h, this]
    · have : 64 ≤ (s.port p).goodFrames + 1 := by omega
      simp [countGood, Config.goodFrameSpan, h, this]

/-- Settles O7: a valid ANNOUNCE by the port's role and link state, and one that is not valid. -/
theorem announcesAreTaken : Obligations.AnnouncesAreTaken := by
  refine ⟨fun s p f role r c st hd hp hr hn hc => ?_, fun s p f => ⟨fun ht hu => congrArg _ (takeAnnounce_dead ht hu),
    fun hl hf => ?_⟩⟩
  · have valid := announceOf_valid hd hp hr hn hc
    have taken : (s.port p).link = .training ∨ (s.port p).link = .up →
        exec (.announce p f) s = .next (takeAnnounced p ⟨role, c.toNat, st⟩ s) := fun hl =>
      congrArg _ (takeAnnounce_valid hl valid)
    refine ⟨fun hl he => ?_, fun hl he => ?_, fun hl he => ?_, fun hl he => ?_⟩
    · rw [taken (.inl hl), takeAnnounced_start he (by simp [hl])]
      simp [upPort, announcedPort, Config.rxPlaces, he, State.role]
    · rw [taken (.inr hl), takeAnnounced_restart he hl]
      simp [restartedPort, announcedPort, Config.rxPlaces, he, State.role]
    · rw [taken (.inl hl), takeAnnounced_mismatch he, moveLink_off (by simp [hl, announcedPort]), setPort_setPort]
      simp [enterFaulted, flushed, announcedPort]
    · rw [taken (.inr hl), takeAnnounced_mismatch he, moveLink_up (by simp [hl, announcedPort]), setPort_setPort]
      simp [enterFaulted, flushed, announcedPort]
  · exact congrArg _ (takeAnnounce_invalid hl (announceOf_invalid hf))

theorem exec_credit (s : State) (p : Port) (f : RxFrame) : exec (.credit p f) s = .next (creditFrame p f s) := rfl

/-- Settles O8: a CREDIT by its count, the grant and the link state. -/
theorem creditsAreTaken : Obligations.CreditsAreTaken := by
  refine ⟨fun s p f n hu hg hp h1 h2 => ?_, fun s p f => ⟨fun hu hg => ?_, fun hu hg hf => ?_, fun ht => ?_, fun hl => ?_⟩⟩
  · rw [exec_credit, creditFrame_up hu, if_neg hg.ne', takeCredit_valid (creditCount_valid hp h1 h2), takeGrant_up,
      takeCount_eq, setPort_setPort, setPort_port_self]
    · simp only [countTaken, addCredit, countGood_granted]
      rfl
    · simp [State.up, addCredit, hu]
  · rw [exec_credit, creditFrame_up hu, if_pos hg]
    rfl
  · rw [exec_credit, creditFrame_up hu, if_neg hg.ne', takeCredit_invalid (creditCount_invalid hf)]
    rfl
  · rw [exec_credit, creditFrame_training ht]
    rfl
  · rw [exec_credit, creditFrame_dead hl]

/-- Settles O10, by induction on the waiting list (offerList_up). -/
theorem offersFillTheTransmitQueue : Obligations.OffersFillTheTransmitQueue :=
  fun _ _ => ⟨rfl, fun _ frame l => ⟨offerList_up frame l, offerList_off frame l⟩⟩

theorem exec_frameTransmit (s : State) (p : Port) : exec (.frameTransmit p) s = .next (frameTransmit p s) := rfl

/-- Settles O11: the port, the notice slot and the messages of a transmission, one after another. -/
theorem transmissionUsesCredit : Obligations.TransmissionUsesCredit := by
  intro s p
  rw [exec_frameTransmit]
  refine ⟨fun h => congrArg _ (frameTransmit_idle h), fun f rest hu ht hc => ?_⟩
  rw [frameTransmit_sends hu ht hc, notifyPlace_eq]
  refine ⟨_, rfl, setPort_port_self _ _ _, fun q hq => setPort_port_ne _ _ hq, ?_,
    ⟨_, rfl, waitingOwners_nodup _ _, fun o => ?_⟩, rfl⟩
  · cases f <;> rfl
  · rw [mem_waitingOwners, ownerWaits_sent (x := sentPort (s.port p) f rest) rfl rfl]

end Sys2Proof.Machine
end

section
/-! What a port that leaves UP, enters UP or sees a restart tells the owner blocks (R6, R16, R17), and the holds its departure
ends (R31). -/

namespace Sys2Proof.Machine

section Owners
variable {s : State} {p q : Port}

/-! ### What the queues of a port do not touch: its entry -/

theorem entry_setPort {x : LinkPort} (h : x.entry = (s.port p).entry) :
    ((s.setPort p x).port q).entry = (s.port q).entry := by
  by_cases e : q = p
  · subst e; simp [h]
  · simp [e]

theorem entry_returnCredit : ((returnCredit p s).port q).entry = (s.port q).entry := by
  unfold returnCredit
  dsimp only
  split
  · exact entry_setPort rfl
  · rfl

theorem entry_dropHead : ((dropHead p s).port q).entry = (s.port q).entry := by
  unfold dropHead takeCount
  rw [entry_returnCredit, entry_setPort (by rfl), entry_setPort (by rfl)]

theorem entry_enqueue {f : TxFrame} : ((enqueue s p f).port q).entry = (s.port q).entry := entry_setPort rfl

theorem entry_enqueueAt {d : Fin 16} {f : TxFrame} : ((enqueueAt d f s).port q).entry = (s.port q).entry := by
  unfold enqueueAt
  split
  · rfl
  · exact entry_enqueue

theorem entry_offerUndeliverable {f : RxFrame} : ((offerUndeliverable p f s).port q).entry = (s.port q).entry := by
  unfold offerUndeliverable
  split
  · rw [entry_dropHead, entry_enqueue]
  · exact entry_setPort rfl
  · exact entry_dropHead

theorem entry_undeliverable {f : RxFrame} : ((undeliverable p f s).port q).entry = (s.port q).entry := by
  unfold undeliverable
  dsimp only
  split
  · exact entry_offerUndeliverable
  · exact entry_dropHead

theorem entry_offerPass {f : RxFrame} : ((offerPass p f s).port q).entry = (s.port q).entry := by
  unfold offerPass
  split
  · rw [entry_dropHead, entry_enqueueAt]
  · exact entry_setPort rfl
  · exact entry_undeliverable

theorem entry_endHold {r : Port} : ((endHold p s r).port q).entry = (s.port q).entry := by
  unfold endHold
  split
  · split
    · exact entry_offerPass
    · rfl
  · rfl

theorem entry_endHolds : ((endHolds p s).port q).entry = (s.port q).entry := by
  unfold endHolds
  generalize indices 12 = l
  induction l generalizing s with
  | nil => rfl
  | cons r l ih => rw [List.foldl_cons, ih, entry_endHold]

@[simp] theorem role_endHolds : (endHolds p s).role q = s.role q := congrArg PortEntry.role entry_endHolds

/-! ### The end of a hold (R31) -/

/-- Nothing is held at port q for port p by a station: nothing ends. -/
theorem endHold_none (h : s.role q = .controller ∨ (s.port q).held ≠ some .pass ∨ (s.port q).rx = [] ∨
    ∃ f rest, (s.port q).rx = f :: rest ∧ f.dst.val ≠ p.val) : endHold p s q = s := by
  unfold endHold
  split
  · rename_i f rest hh hr
    refine if_neg fun ⟨hd, hc⟩ => ?_
    obtain h | h | h | ⟨g, more, h, hg⟩ := h
    · exact hc h
    · exact h hh
    · rw [h] at hr; cases hr
    · cases h.symm.trans hr
      exact hg hd
  · rfl

/-- An offer to a port that is not UP is refused NOT_UP, as is one to the source's own port (R29). -/
theorem addressAnswer_off {d : Fin 16} (hd : d.val = p.val) (hl : (s.port p).link ≠ .up) :
    addressAnswer s q d = .notUp := by
  have hp : index? 12 d.val = some p := by
    simp only [index?, hd, p.isLt, dite_true]
  unfold addressAnswer
  rw [hp]
  dsimp only
  split
  · rfl
  · exact offerAnswer_notUp.mpr hl

/-- A station's PASS held for a port that is not UP ends as R31 says. -/
theorem endHold_station {f : RxFrame} {rest : List RxFrame} (hc : s.role q ≠ .controller)
    (hh : (s.port q).held = some .pass) (hr : (s.port q).rx = f :: rest) (hd : f.dst.val = p.val)
    (hl : (s.port p).link ≠ .up) : endHold p s q = dropHead q (s.request .undeliverable) := by
  have offered : endHold p s q = offerPass q f s := by
    unfold endHold
    rw [hh, hr]
    exact if_pos ⟨hd, hc⟩
  have refused : offerPass q f s = undeliverable q f s := by
    unfold offerPass
    rw [addressAnswer_off hd hl]
  rw [offered, refused]
  exact if_neg hc

/-! ### A controller port's departure (R16, R172, R182) -/

theorem orphan_eq (c : Carried) : orphan c = if c = .none then .none else .orphaned := by cases c <;> rfl

theorem forgetRequester_eq (p : Port) (v : Save) : forgetRequester p v =
    if (v.requester.any fun r => r.port == p) = true then { v with requester := none } else v := by
  unfold forgetRequester
  cases h : v.requester with
  | none => simp
  | some r => simp

/-! ### Reports by the role of the port (R6, R16, R17) -/

theorem post_post (s : State) (a b : Instr) : (s.post a).post b = { s with mail := s.mail ++ [a, b] } := by
  simp [State.post]

theorem departureReports_unused (h : s.role p = .unused) : departureReports p s = s := by
  unfold departureReports
  rw [h]

theorem departureReports_intake (h : s.role p = .intake) :
    departureReports p s = (evalOutputs (clearOwed p s)).post (.intakeDeparture p) := by
  unfold departureReports
  rw [h]

theorem departureReports_sorter (h : s.role p = .sorter) :
    departureReports p s = { s with mail := s.mail ++ [.sorterDownReport p, .portEventReport p] } := by
  unfold departureReports
  rw [h]
  exact post_post _ _ _

theorem departureReports_bin (h : s.role p = .bin) : departureReports p s = s.post (.portEventReport p) := by
  unfold departureReports
  rw [h]

theorem departureReports_counter (h : s.role p = .counter) :
    departureReports p s = s.post (.counterPortReport p false) := by
  unfold departureReports
  rw [h]

theorem departureReports_controller (h : s.role p = .controller) :
    departureReports p s = emptyReports p (dropReplies p (setQueued s p false)) := by
  unfold departureReports
  rw [h]

theorem arrivalReports_intake (h : s.role p = .intake) :
    arrivalReports p s = (evalOutputs s).post (.intakeArrival p false) := by
  unfold arrivalReports
  rw [h]

theorem arrivalReports_route (h : s.role p = .sorter ∨ s.role p = .bin) :
    arrivalReports p s = s.post (.portEventReport p) := by
  unfold arrivalReports
  obtain h | h := h <;> rw [h]

theorem arrivalReports_counter (h : s.role p = .counter) :
    arrivalReports p s = s.post (.counterPortReport p true) := by
  unfold arrivalReports
  rw [h]

theorem arrivalReports_controller (h : s.role p = .controller) : arrivalReports p s = setQueued s p false := by
  unfold arrivalReports
  rw [h]

theorem restartReports_intake (h : s.role p = .intake) :
    restartReports p s = { s with mail := s.mail ++ [.intakeArrival p true, .portEventReport p] } := by
  unfold restartReports
  rw [h]
  exact post_post _ _ _

theorem restartReports_counter (h : s.role p = .counter) :
    restartReports p s = (restartUnit p s).post (.portEventReport p) := by
  unfold restartReports
  rw [h]

theorem restartReports_other (hi : s.role p ≠ .intake) (hc : s.role p ≠ .counter) :
    restartReports p s = s.post (.portEventReport p) := by
  unfold restartReports
  split
  · exact absurd ‹_› hi
  · exact absurd ‹_› hc
  all_goals rfl

end Owners

/-- Settles O6: each report by the role, and the end of each hold. -/
theorem ownersAreToldOfThePort : Obligations.OwnersAreToldOfThePort := by
  refine ⟨fun s p => ?_, fun s p => ?_, fun s p => ⟨rfl, fun q => ⟨endHold_none, fun f rest => endHold_station⟩⟩,
    fun s p => ⟨fun h => ⟨arrivalReports_intake h, restartReports_intake h⟩,
      fun h => ⟨arrivalReports_route h, restartReports_other ?_ ?_⟩,
      fun h => ⟨arrivalReports_counter h, restartReports_counter h⟩,
      fun h => ⟨arrivalReports_controller h, restartReports_other (by simp [h]) (by simp [h])⟩⟩⟩
  · have as : ∀ r, s.role p = r → (endHolds p (s.setBacklog p [])).role p = r := fun r h => role_endHolds.trans h
    exact ⟨fun h => departureReports_unused (as _ h), fun h => departureReports_intake (as _ h),
      fun h => departureReports_sorter (as _ h), fun h => departureReports_bin (as _ h),
      fun h => departureReports_counter (as _ h), fun h => departureReports_controller (as _ h)⟩
  · simp only [emptyReports, dropReplies, State.setSlot, setQueued, State.slot, orphan_eq, funext (forgetRequester_eq p)]
    rfl
  · obtain h | h := h <;> simp [h]
  · obtain h | h := h <;> simp [h]

end Sys2Proof.Machine
end

section
/-! Frames received (R9, R11, R12) and the notices of a free place (R14): one equation per case, and the statements they
settle. -/

namespace Sys2Proof.Machine

section Received
variable {s : State} {p : Port} {b : List Byte} {f : RxFrame}

/-! ### The check (R9, R18) -/

/-- A byte is its two nibbles. -/
theorem nibbles (b : Byte) : b.extractLsb' 4 4 ++ b.extractLsb' 0 4 = b :=
  (BitVec.extractLsb'_append_extractLsb'_eq_extractLsb' rfl).trans BitVec.extractLsb'_eq_self

/-- The bytes of a frame before its check value (section 2.1), its source nibble and the unused nibble as given. -/
def wireBody (src low : BitVec 4) (f : RxFrame) : List Byte :=
  [BitVec.ofFin f.dst ++ src, f.kind, f.tag, BitVec.ofFin f.gen ++ low, BitVec.ofNat 8 f.payload.length] ++ f.payload

/-- A body with its check value is read back as its frame (R9). -/
theorem checkFrame_wireBody (src low : BitVec 4) (h : f.payload.length ≤ 48) :
    checkFrame (wireBody src low f ++ twoBytes (checkValue (wireBody src low f))) = some f := by
  have len : (BitVec.ofNat 8 f.payload.length).toNat = f.payload.length := by
    simp only [BitVec.toNat_ofNat]
    omega
  have two : ∀ v, (twoBytes v).length = 2 := fun _ => rfl
  simp only [wireBody, checkFrame, List.cons_append, List.nil_append, len, List.take_left', List.drop_left',
    List.length_append, two, payloadMax, h, BitVec.extractLsb'_append_eq_left, true_and, if_true]

/-- Only a body with its check value is read as a frame (R9). -/
theorem wireBody_of_checkFrame (h : checkFrame b = some f) : f.payload.length ≤ 48 ∧ ∃ src low,
    b = wireBody src low f ++ twoBytes (checkValue (wireBody src low f)) := by
  unfold checkFrame at h
  split at h
  · rename_i b0 kind tag b3 len rest
    dsimp only at h
    split at h
    · rename_i hc
      obtain ⟨hl, hr, hv⟩ := hc
      have size : (rest.take len.toNat).length = len.toNat := by
        rw [List.length_take]
        omega
      have body : wireBody (b0.extractLsb' 0 4) (b3.extractLsb' 0 4) f =
          b0 :: kind :: tag :: b3 :: len :: rest.take len.toNat := by
        cases h
        simp only [wireBody, size, BitVec.ofNat_toNat, BitVec.setWidth_eq, List.cons_append, List.nil_append]
        rw [show BitVec.ofFin (BitVec.toFin (b0.extractLsb' 4 4)) = b0.extractLsb' 4 4 from rfl,
          show BitVec.ofFin (BitVec.toFin (b3.extractLsb' 4 4)) = b3.extractLsb' 4 4 from rfl, nibbles, nibbles]
      refine ⟨?_, b0.extractLsb' 0 4, b3.extractLsb' 0 4, ?_⟩
      · cases h
        exact size.trans_le hl
      · rw [body, ← hv]
        simp
    · cases h
  · cases h

/-- A failing frame asks for MGMT_CHECK when its byte 1 names a MGMT_REQ (R9). -/
theorem checkFailed_eq (p : Port) (b : List Byte) (s : State) :
    checkFailed p b s = addError p (if b[1]? = some 0x60 then s.request .mgmtCheck else s) := by
  simp [checkFailed, holdsMgmtReq, mgmtReqCode]

/-! ### A frame received, by the link state (R4, R5, R11) -/

theorem frameArrival_dead (h : (s.port p).link = .disabled ∨ (s.port p).link = .down ∨ (s.port p).link = .faulted) :
    frameArrival p b s = s := by
  unfold frameArrival
  obtain h | h | h := h <;> rw [h]

theorem frameArrival_training_fails (h : (s.port p).link = .training) (hb : checkFrame b = none) :
    frameArrival p b s = checkFailed p b s := by
  unfold frameArrival
  rw [h, hb]

theorem frameArrival_up_fails (h : (s.port p).link = .up) (hb : checkFrame b = none) :
    frameArrival p b s = failUp p b s := by
  unfold frameArrival
  rw [h, hb]

theorem frameArrival_training (h : (s.port p).link = .training) (hb : checkFrame b = some f) :
    frameArrival p b s = if f.kind = announceCode then takeAnnounce p f s else goodFrame p s := by
  unfold frameArrival
  rw [h, hb]

theorem frameArrival_up (h : (s.port p).link = .up) (hb : checkFrame b = some f) :
    frameArrival p b s = receiveUp p f s := by
  unfold frameArrival
  rw [h, hb]

/-- The link states in which a port takes no frame, and the two in which it does. -/
theorem link_cases (l : LinkPort) : (l.link = .disabled ∨ l.link = .down ∨ l.link = .faulted) ∨ l.link = .training ∨
    l.link = .up := by
  cases l.link <;> simp

theorem frameArrival_announce (hb : checkFrame b = some f) (hk : f.kind = 0x01) :
    frameArrival p b s = takeAnnounce p f s := by
  obtain h | h | h := link_cases (s.port p)
  · rw [frameArrival_dead h, takeAnnounce_dead]
    · obtain h | h | h := h <;> simp [h]
    · obtain h | h | h := h <;> simp [h]
  · rw [frameArrival_training h hb]
    exact if_pos hk
  · rw [frameArrival_up h hb]
    exact if_pos hk

theorem frameArrival_credit (hb : checkFrame b = some f) (hk : f.kind = 0x02) :
    frameArrival p b s = creditFrame p f s := by
  have ha : f.kind ≠ announceCode := by rw [hk]; decide
  obtain h | h | h := link_cases (s.port p)
  · rw [frameArrival_dead h, creditFrame_dead h]
  · rw [frameArrival_training h hb, creditFrame_training h]
    exact if_neg ha
  · rw [frameArrival_up h hb]
    exact (if_neg ha).trans (if_pos hk)

/-- A frame for the receive queue arrives in UP (R11). -/
theorem receiveUp_other (ha : f.kind ≠ 0x01) (hc : f.kind ≠ 0x02) :
    receiveUp p f s = if (s.port p).granted = 0 then overrun p s else queueFrame p f s :=
  (if_neg ha).trans (if_neg hc)

theorem queueFrame_eq (p : Port) (f : RxFrame) (s : State) : queueFrame p f s = s.setPort p { countGood (s.port p) with
    granted := (s.port p).granted - 1, rx := (s.port p).rx ++ [f] } := by
  simp only [queueFrame, goodFrame, useGrant, setPort_port_self, setPort_setPort, countGood_granted_comm, countGood_rx]

/-! ### The head of the receive queue (R12) -/

/-- A port whose head frame has left the receive queue. -/
def headGone (l : LinkPort) : LinkPort := { l with rx := l.rx.tail, held := none }

theorem dropHead_eq (p : Port) (s : State) : dropHead p s = s.setPort p (countTaken (headGone (s.port p))) := by
  unfold dropHead
  rw [takeCount_eq, setPort_setPort, setPort_port_self]
  rfl

theorem taken_lt {l : LinkPort} (h : PortLaw l) : l.taken < 4 := by
  by_cases hu : l.link = .up
  · exact (h.1 hu).2.1
  · have := (h.2.1 hu).2.2.2.1
    omega

/-! ### Notices of a free place (R14) -/

/-- A fold in which one element alone acts is that act. -/
theorem foldl_single {α σ : Type} {f : σ → α → σ} {x : α} {l : List α} {s : σ} (hl : l.Nodup) (hx : x ∈ l)
    (before : ∀ y, y ≠ x → f s y = s) (after : ∀ y, y ≠ x → f (f s x) y = f s x) : l.foldl f s = f s x := by
  have fixed : ∀ (t : σ) (m : List α), (∀ y ∈ m, f t y = t) → m.foldl f t = t := by
    intro t m hm
    induction m with
    | nil => rfl
    | cons y m ih => rw [List.foldl_cons, hm y (by simp), ih fun z hz => hm z (by simp [hz])]
  obtain ⟨a, c, rfl⟩ := List.append_of_mem hx
  obtain ⟨-, hc, hd⟩ := List.nodup_append.mp hl
  have ha : ∀ y ∈ a, y ≠ x := fun y hy => hd y hy x (by simp)
  have hc' : ∀ y ∈ c, y ≠ x := fun y hy e => (List.nodup_cons.mp hc).1 (e ▸ hy)
  rw [List.foldl_append, fixed s a fun y hy => before y (ha y hy), List.foldl_cons,
    fixed _ c fun y hy => after y (hc' y hy)]

/-- Without a held RELEASE an entry offers nothing (R107). -/
theorem reofferRelease_none {t : Tag} (h : (s.entry t).heldRelease = false) : reofferRelease p s t = s := by
  unfold reofferRelease
  dsimp only
  split
  · rfl
  · simp [h]

/-- A held RELEASE offered to a port with a free place is sent (R107). -/
theorem reofferRelease_sent {t : Tag} {u : EntryUse} (hu : (s.entry t).use = some u)
    (hh : (s.entry t).heldRelease = true) (hp : u.intake = p) (ha : offerAnswer s p = .accepted) :
    reofferRelease p s t = ((enqueue s p (.release t (s.entry t).gen u.seq)).setEntry t
      { s.entry t with state := .releaseSent, step := none, heldRelease := false, timer := none }).post
        (.gatesSetReport p t (s.entry t).gen) := by
  subst hp
  have offered : reofferRelease u.intake s t = offerRelease t (s.entry t) u s := by
    unfold reofferRelease
    dsimp only
    split
    · rename_i hn
      rw [hn] at hu
      cases hu
    · rename_i v hv
      cases hu.symm.trans hv
      exact if_pos ⟨hh, rfl⟩
  rw [offered]
  unfold offerRelease
  rw [ha]
  rfl

theorem offerBacklog_up (hu : (s.port p).link = .up) : offerBacklog p s = (s.setPort p { s.port p with
    tx := (s.port p).tx ++ ((cell s.transit.backlog p).take (16 - (s.port p).tx.length)).map .gateClear }).setBacklog p
      ((cell s.transit.backlog p).drop (16 - (s.port p).tx.length)) := by
  unfold offerBacklog
  rw [offerList_up _ _ hu]

theorem offerTally_accepted {x : Session} (hx : s.session p = some x) (ha : offerAnswer s p = .accepted) :
    offerTally p s = (enqueue s p (tallyFrame x)).setSession p (some { x with owed := false }) := by
  unfold offerTally
  rw [hx]
  dsimp only
  rw [ha]

theorem exec_placeFree (s : State) (p : Port) (o : Owner) : exec (.placeFree p o) s = .next (placeFree p o s) := rfl

/-- The transit table's part with one held RELEASE for the port: the RELEASE, then the clear backlog (log entry 50). -/
theorem offerTransit_held {t : Tag} {u : EntryUse} (hl : (s.port p).link = .up) (hu : (s.entry t).use = some u)
    (hh : (s.entry t).heldRelease = true) (hp : u.intake = p) (ho : ∀ g, g ≠ t → (s.entry g).heldRelease = false)
    (hn : (s.port p).tx.length < 16) : offerTransit p s = (((s.setPort p { s.port p with
      tx := (s.port p).tx ++ .release t (s.entry t).gen u.seq ::
        ((cell s.transit.backlog p).take (16 - (s.port p).tx.length - 1)).map .gateClear }).setBacklog p
      ((cell s.transit.backlog p).drop (16 - (s.port p).tx.length - 1))).setEntry t
      { s.entry t with state := .releaseSent, step := none, heldRelease := false, timer := none }).post
      (.gatesSetReport p t (s.entry t).gen) := by
  have sent := reofferRelease_sent hu hh hp (offerAnswer_accepted.mpr ⟨hl, hn⟩)
  have still : ∀ g, g ≠ t → ((reofferRelease p s t).entry g).heldRelease = false := fun g hg => by
    rw [sent]
    show ((State.setEntry _ t _).entry g).heldRelease = false
    rw [setEntry_entry_ne _ _ hg]
    exact ho g hg
  have folded : (indices 64).foldl (reofferRelease p) s = reofferRelease p s t :=
    foldl_single (List.nodup_finRange 64) (mem_indices t) (fun g hg => reofferRelease_none (ho g hg))
      fun g hg => reofferRelease_none (still g hg)
  have port : (reofferRelease p s t).port p =
      { s.port p with tx := (s.port p).tx ++ [.release t (s.entry t).gen u.seq] } := by
    rw [sent]
    exact enqueue_port_self s p _
  have backlog : (reofferRelease p s t).transit.backlog = s.transit.backlog := by
    rw [sent]
    rfl
  unfold offerTransit
  rw [folded, offerBacklog_up (by rw [port]; exact hl), port, backlog, sent]
  simp only [List.length_append, List.length_singleton, List.append_assoc, List.singleton_append, Nat.sub_add_eq]
  show (((enqueue s p _).setPort p _).setBacklog p _ |>.setEntry t _).post _ = _
  rw [enqueue, setPort_setPort]

end Received

theorem exec_frameArrival (s : State) (p : Port) (b : List Byte) :
    exec (.frameArrival p b) s = .next (frameArrival p b s) := rfl

/-- Settles O9: received frames by the link state, the head of the queue, and the check both ways. -/
theorem framesAreReceived : Obligations.FramesAreReceived := by
  refine ⟨fun s p b => ?_, fun s p => ⟨dropHead_eq p s, taken_lt⟩, fun b f => ⟨wireBody_of_checkFrame, ?_⟩,
    ⟨rfl, fun b x => ?_⟩, by decide +kernel⟩
  · rw [exec_frameArrival]
    refine ⟨fun h => by rw [frameArrival_dead h], fun h hb => ?_, fun h hb => ?_, fun f hb => ⟨fun hk => ?_, fun hk => ?_,
      fun ha hc => ⟨fun h => ?_, fun h hg => ?_, fun h hg => ?_⟩⟩⟩
    · rw [frameArrival_training_fails h hb, checkFailed_eq]
    · rw [frameArrival_up_fails h hb]
      unfold failUp
      rw [checkFailed_eq]
      by_cases h60 : b[1]? = some 0x60
      · simp only [h60, if_true]
        rfl
      · simp only [h60, if_false]
        rfl
    · rw [frameArrival_announce hb hk]
      rfl
    · rw [frameArrival_credit hb hk]
      rfl
    · rw [frameArrival_training h hb]
      exact congrArg _ (if_neg ha)
    · rw [frameArrival_up h hb, receiveUp_other ha hc, if_pos hg]
      rfl
    · rw [frameArrival_up h hb, receiveUp_other ha hc, if_neg hg.ne', queueFrame_eq]
  · rintro ⟨hp, src, low, rfl⟩
    exact checkFrame_wireBody src low hp
  · simp only [checkValue, List.foldl_append]
    rfl

/-- Settles O15: what each owner block offers at a free place. -/
theorem placeFreeOffersAgain : Obligations.PlaceFreeOffersAgain := by
  intro s p
  simp only [exec_placeFree]
  refine ⟨rfl, fun hl => ⟨fun c hc => ?_, fun hn => ?_, fun t u hu hh hp ho hn => ?_, fun x hx ho hn => ?_, ?_, ?_⟩,
    fun x hx ho => ?_, fun u hu => ?_⟩
  · show Host.Outcome.next (offerOutbound p s) = _
    unfold offerOutbound
    rw [hc]
    dsimp only
    rw [offerList_up _ _ hl]
  · show Host.Outcome.next (offerTransit p s) = _
    have none : (indices 64).foldl (reofferRelease p) s = s := List.foldl_fixed' (fun t => reofferRelease_none (hn t)) _
    unfold offerTransit
    rw [none, offerBacklog_up hl]
  · exact congrArg _ (offerTransit_held hl hu hh hp ho hn)
  · show Host.Outcome.next (offerOwedTally p s) = _
    unfold offerOwedTally
    rw [hx]
    dsimp only
    rw [if_pos ho, offerTally_accepted hx (offerAnswer_accepted.mpr ⟨hl, hn⟩)]
    rfl
  · show Host.Outcome.next (offerVoucherReports p s) = _
    unfold offerVoucherReports
    rw [offerList_up _ _ hl]
    rfl
  · show Host.Outcome.next (offerFaultReports p s) = _
    unfold offerFaultReports
    rw [offerList_up _ _ hl]
    rfl
  · show Host.Outcome.next (offerOwedTally p s) = _
    unfold offerOwedTally
    rw [hx]
    simp [ho]
  · show Host.Outcome.next (sendOwed p s) = _
    unfold sendOwed
    rw [hu]

end Sys2Proof.Machine
end

section
/-! Port entries (R2, R3, R8) and the reads of tables and of working state (R174, R178), as management requests that are served
at once. -/

namespace Sys2Proof.Machine

section Requests
variable {s t : State} {p : Port} {r : Requester}

/-! ### Requests served at once (R172) -/

@[simp] theorem index?_val {n : Nat} (i : Fin n) : index? n i.val = some i := by simp [index?]

theorem index?_none {n i : Nat} (h : n ≤ i) : index? n i = none := by simp [index?, Nat.not_lt.mpr h]

/-- A request that changes nothing is answered at the tail of its port's queue. -/
theorem manage_unchanged {owner : State → Answer} {st : Status} {d : ReplyData} (h : ServesRequests s r.port)
    (e : owner s = ⟨st, d, s⟩) : manage r owner s = enqueue s r.port (.mgmtReply ⟨r.tag, st, d⟩) := by
  rw [manage_serves h (by rw [e]) (by rw [e]; exact offerAnswer_of_serves h), e]

/-- A request that is served has its owner's effect, and its reply is placed. -/
theorem manage_placed {owner : State → Answer} (h : ServesRequests s r.port) :
    manage r owner s = placeReply r (owner s).status (owner s).data (owner s).state := by
  simp [manage, mayTake_of_serves h]

theorem exec_portWrite (r : Requester) (i : Nat) (x : PortFields) (s : State) :
    exec (.portWrite r i x) s = .next (manage r (portWrite i x) s) := rfl

theorem exec_portReset (r : Requester) (i : Nat) (s : State) :
    exec (.portReset r i) s = .next (manage r (portReset i) s) := rfl

/-! ### A port entry as offered (R2, checks 1 and 6) -/

theorem clamp_eq (lo hi n : Nat) (h : lo ≤ hi) : clamp lo hi n = max lo (min hi n) := by
  unfold clamp
  split
  · omega
  · split <;> omega

theorem clampInt_eq (lo hi n : Int) (h : lo ≤ hi) : clampInt lo hi n = max lo (min hi n) := by
  unfold clampInt
  split
  · omega
  · split <;> omega

theorem decodeOptional_set {n : Nat} (h : n ≤ 11 ∨ n = 255) :
    decodeOptional 12 n = some (if h : n < 12 then some ⟨n, h⟩ else none) := by
  unfold decodeOptional
  obtain h | rfl := h
  · have hn : n ≠ 255 := by omega
    have hl : n < 12 := by omega
    simp [hn, hl, index?]
  · simp

/-- The entry an accepted write applies (R2, check 6). -/
def offeredEntry (x : PortFields) (role : Role) (enabled : Bool) : PortEntry :=
  ⟨role, enabled, if h : x.counterPort < 12 then some ⟨x.counterPort, h⟩ else none, max 1 (min 999999 x.creditLimit),
    max (-500) (min 500 x.tare), min 60000 x.holdLimit⟩

theorem portEntryOf_valid {x : PortFields} {role : Role} {enabled : Bool} (hr : decodeName roles x.role = some role)
    (he : decodeName enables x.admin = some enabled) (hc : x.counterPort ≤ 11 ∨ x.counterPort = 255) :
    portEntryOf x = some (offeredEntry x role enabled) := by
  simp only [portEntryOf, hr, he, decodeOptional_set hc, clamp_eq 1 999999 _ (by omega), clamp_eq 0 60000 _ (by omega),
    clampInt_eq (-500) 500 _ (by omega), Nat.zero_max]
  rfl

theorem portEntryOf_invalid {x : PortFields}
    (h : 5 < x.role ∨ 1 < x.admin ∨ 11 < x.counterPort ∧ x.counterPort ≠ 255) : portEntryOf x = none := by
  unfold portEntryOf
  split
  · rename_i hr he hc
    have hr' : x.role < 6 := (List.getElem?_eq_some_iff.mp hr).1
    have he' : x.admin < 2 := (List.getElem?_eq_some_iff.mp he).1
    unfold decodeOptional at hc
    split at hc
    · omega
    · split at hc
      · cases hc
      · rename_i hi
        unfold index? at hi
        split at hi
        · omega
        · cases hi
  · rfl

/-- Whether clamping left every value as it was offered (R175). -/
theorem clampStatus_offered (x : PortFields) (role : Role) (enabled : Bool) :
    clampStatus (portClamped x (offeredEntry x role enabled)) =
      if max 1 (min 999999 x.creditLimit) = x.creditLimit ∧ max (-500) (min 500 x.tare) = x.tare ∧
        min 60000 x.holdLimit = x.holdLimit then .done else .doneClamped := by
  simp only [clampStatus, portClamped, offeredEntry, Bool.or_eq_true, bne_iff_ne, ne_eq]
  by_cases h : max 1 (min 999999 x.creditLimit) = x.creditLimit ∧ max (-500) (min 500 x.tare) = x.tare ∧
      min 60000 x.holdLimit = x.holdLimit
  · simp only [h, not_true_eq_false, or_self, if_false, and_self, if_true]
  · rw [if_neg h, if_pos]
    tauto

/-! ### Checks 2 to 4 of R2 -/

/-- What checks 2 to 4 of R2 refuse. -/
def WriteRefused (s : State) (p : Port) (role : Role) (enabled : Bool) : Prop :=
  (role ≠ s.role p ∧ s.up p = true) ∨
  (role = .intake ∧ s.role p ≠ .intake ∧ 8 ≤ countRole s .intake) ∨
  (role = .counter ∧ s.role p ≠ .counter ∧ 4 ≤ countRole s .counter) ∨
  (role ≠ .controller ∧ s.role p = .controller ∧ ∀ q, q ≠ p → s.role q ≠ .controller) ∨
  (s.role p = .controller ∧ enabled = false ∧ ∀ q, q ≠ p → s.role q = .controller → (s.port q).entry.enabled = false)

theorem writeAllowed_eq_false (s : State) (p : Port) (e : PortEntry) :
    writeAllowed s p e = false ↔ WriteRefused s p e.role e.enabled := by
  have none : (((indices 12).filter fun q => q != p && s.role q == .controller).isEmpty = true) ↔
      ∀ q, q ≠ p → s.role q ≠ .controller := by
    simp [List.isEmpty_iff, List.filter_eq_nil_iff]
  have off : ((((indices 12).filter fun q => q != p && s.role q == .controller).any
      fun q => (s.port q).entry.enabled) = false) ↔
      ∀ q, q ≠ p → s.role q = .controller → (s.port q).entry.enabled = false := by
    simp [List.any_eq_false]
  simp only [writeAllowed, Bool.and_eq_false_iff, Bool.not_eq_false', Bool.and_eq_true, Bool.not_eq_true',
    bne_iff_ne, beq_iff_eq, none, off, decide_eq_true_eq, or_assoc, and_assoc]
  exact or_congr_right (or_congr_right (or_congr_right (or_congr_left and_left_comm)))

theorem portWrite_outside {i : Nat} {x : PortFields} (h : 12 ≤ i) : portWrite i x s = answer .badIndex s := by
  unfold portWrite
  rw [index?_none h]

theorem portWrite_badValue {x : PortFields} (h : portEntryOf x = none) : portWrite p.val x s = answer .badValue s := by
  unfold portWrite
  rw [index?_val, h]

theorem portWrite_notAllowed {x : PortFields} {e : PortEntry} (h : portEntryOf x = some e)
    (hw : WriteRefused s p e.role e.enabled) : portWrite p.val x s = answer .notAllowed s := by
  unfold portWrite
  rw [index?_val, h]
  exact if_pos ((writeAllowed_eq_false s p e).mpr hw)

theorem portWrite_locked {x : PortFields} {e : PortEntry} (h : portEntryOf x = some e)
    (hw : ¬ WriteRefused s p e.role e.enabled) (hl : s.catalogue.lock = .locked)
    (hc : x.creditLimit ≠ (s.port p).entry.creditLimit) : portWrite p.val x s = answer .locked s := by
  unfold portWrite
  rw [index?_val, h]
  exact (if_neg (mt (writeAllowed_eq_false s p e).mp hw)).trans (if_pos ⟨hl, hc⟩)

theorem portWrite_accepted {x : PortFields} {e : PortEntry} (h : portEntryOf x = some e)
    (hw : ¬ WriteRefused s p e.role e.enabled)
    (hl : s.catalogue.lock = .opened ∨ x.creditLimit = (s.port p).entry.creditLimit) :
    portWrite p.val x s = answer (clampStatus (portClamped x e)) (applyEntry p e s) := by
  have hl' : ¬ (s.catalogue.lock = .locked ∧ x.creditLimit ≠ (s.port p).entry.creditLimit) := by
    rintro ⟨h1, h2⟩
    obtain h3 | h3 := hl
    · rw [h1] at h3
      cases h3
    · exact h2 h3
  unfold portWrite
  rw [index?_val, h]
  exact (if_neg (mt (writeAllowed_eq_false s p e).mp hw)).trans (if_neg hl')

/-! ### ENABLE and DISABLE (R3) -/

/-- The fields of an entry are read back as that entry, where its values lie in their ranges. -/
theorem offeredEntry_fieldsOf {e : PortEntry} (b : Bool) (h1 : 1 ≤ e.creditLimit) (h2 : e.creditLimit ≤ 999999)
    (h3 : -500 ≤ e.tare) (h4 : e.tare ≤ 500) (h5 : e.holdLimit ≤ 60000) :
    offeredEntry (fieldsOf e b) e.role b = { e with enabled := b } := by
  have limit : max 1 (min 999999 e.creditLimit) = e.creditLimit := by omega
  have tare : max (-500) (min 500 e.tare) = e.tare := by omega
  have hold : min 60000 e.holdLimit = e.holdLimit := by omega
  cases hc : e.counterPort with
  | none => simp [offeredEntry, fieldsOf, hc, limit, tare, hold]
  | some c => simp [offeredEntry, fieldsOf, hc, limit, tare, hold, c.isLt]

theorem portEntryOf_fieldsOf (e : PortEntry) (b : Bool) :
    portEntryOf (fieldsOf e b) = some (offeredEntry (fieldsOf e b) e.role b) := by
  refine portEntryOf_valid ?_ ?_ ?_
  · cases hr : e.role <;> simp only [fieldsOf, hr] <;> rfl
  · cases b <;> rfl
  · cases hc : e.counterPort with
    | none => exact .inr (by simp [fieldsOf, hc])
    | some c => exact .inl (by simp [fieldsOf, hc]; omega)

theorem adminWrite_outside {i : Nat} {b : Bool} (h : 12 ≤ i) : adminWrite i b s = answer .badIndex s := by
  unfold adminWrite
  rw [index?_none h]

theorem adminWrite_eq (p : Port) (b : Bool) (s : State) :
    adminWrite p.val b s = portWrite p.val (fieldsOf (s.port p).entry b) s := by
  unfold adminWrite
  rw [index?_val]

/-! ### RESET (R8) -/

/-- A port reset, by its carrier (R4, R8). -/
def resetLink (l : LinkPort) : LinkPort :=
  let flush : LinkPort := { l with
    rx := [], tx := [], granted := 0, taken := 0, txCredit := 0, held := none, errorScore := 0, goodFrames := 0 }
  if l.link = .disabled then flush
  else if l.carrier then { flush with link := .training } else { flush with link := .down }

theorem portReset_eq (p : Port) (s : State) : portReset p.val s = answer .done (resetPort p s) := by
  unfold portReset
  rw [index?_val]

/-- A port reset in another state than DISABLED goes to DOWN, and on by its carrier. -/
theorem enterDown_clearScore {l : LinkPort} (h : l.link ≠ .disabled) : enterDown (clearScore l) = resetLink l := by
  unfold enterDown resetLink
  rw [if_neg h]
  rfl

theorem enterDisabled_clearScore {l : LinkPort} (h : l.link = .disabled) : enterDisabled (clearScore l) = resetLink l := by
  unfold resetLink
  rw [if_pos h]
  unfold enterDisabled clearScore flushed
  rw [← h]

theorem resetPort_off (h : (s.port p).link ≠ .up) :
    resetPort p s = (s.setBacklog p []).setPort p (resetLink (s.port p)) := by
  unfold resetPort
  dsimp only
  split
  · rename_i hl
    rw [moveLink_off (by exact h)]
    exact congrArg _ (enterDisabled_clearScore hl)
  all_goals
    rename_i hl
    rw [moveLink_off (by exact h)]
    exact congrArg _ (enterDown_clearScore (by simp [hl]))

theorem resetPort_up (h : (s.port p).link = .up) :
    resetPort p s = departure p ((s.setBacklog p []).setPort p (resetLink (s.port p))) := by
  unfold resetPort
  rw [h]
  dsimp only
  rw [moveLink_up (by exact h)]
  exact congrArg _ (congrArg _ (enterDown_clearScore (by simp [h])))

theorem resetLink_not_up {l : LinkPort} (h : l.link = .up) : (resetLink l).link ≠ .up := by
  unfold resetLink
  rw [if_neg (by simp [h])]
  split <;> simp

/-! ### What a departure leaves of the other ports' transmit side and slots -/

theorem slot_departureReports {q : Port} (h : q ≠ p) : (departureReports p s).slot q = s.slot q := by
  cases hr : s.role p with
  | unused => rw [departureReports_unused hr]
  | intake =>
    rw [departureReports_intake hr]
    show (evalOutputs (clearOwed p s)).slot q = _
    unfold evalOutputs clearOwed
    (repeat' split) <;> rfl
  | sorter =>
    rw [departureReports_sorter hr]
    rfl
  | bin =>
    rw [departureReports_bin hr]
    rfl
  | counter =>
    rw [departureReports_counter hr]
    rfl
  | controller =>
    rw [departureReports_controller hr]
    exact setSlot_slot_ne _ _ h

theorem ports_departureReports : (departureReports p s).ports = s.ports := by
  cases hr : s.role p with
  | unused => rw [departureReports_unused hr]
  | intake =>
    rw [departureReports_intake hr]
    show (evalOutputs (clearOwed p s)).ports = _
    unfold evalOutputs clearOwed
    (repeat' split) <;> rfl
  | sorter =>
    rw [departureReports_sorter hr]
  | bin =>
    rw [departureReports_bin hr]
    rfl
  | counter =>
    rw [departureReports_counter hr]
    rfl
  | controller =>
    rw [departureReports_controller hr]
    rfl

/-- A hold ended for a port that is not UP takes a head frame off a receive queue, and no more. -/
theorem endHold_cases {q : Port} (hl : (s.port p).link ≠ .up) :
    endHold p s q = s ∨ endHold p s q = dropHead q (s.request .undeliverable) := by
  by_cases hc : s.role q = .controller
  · exact .inl (endHold_none (.inl hc))
  · by_cases hh : (s.port q).held = some .pass
    · cases hr : (s.port q).rx with
      | nil => exact .inl (endHold_none (.inr (.inr (.inl hr))))
      | cons f rest =>
        by_cases hd : f.dst.val = p.val
        · exact .inr (endHold_station hc hh hr hd hl)
        · exact .inl (endHold_none (.inr (.inr (.inr ⟨f, rest, hr, hd⟩))))
    · exact .inl (endHold_none (.inr (.inl hh)))

theorem tx_dropHead {q x : Port} : ((dropHead q s).port x).tx = (s.port x).tx := by
  rw [dropHead_eq]
  by_cases e : x = q
  · subst e
    rw [setPort_port_self]
    unfold countTaken
    dsimp only
    split <;> rfl
  · rw [setPort_port_ne _ _ e]

theorem mgmt_dropHead {q : Port} : (dropHead q s).mgmt = s.mgmt := by rw [dropHead_eq]; rfl

/-- The holds ended for a port that is not UP touch no transmit queue and no slot. -/
theorem endHolds_leaves (hl : (s.port p).link ≠ .up) :
    (∀ x, ((endHolds p s).port x).tx = (s.port x).tx) ∧ (endHolds p s).mgmt = s.mgmt := by
  unfold endHolds
  generalize indices 12 = l
  induction l generalizing s with
  | nil => exact ⟨fun _ => rfl, rfl⟩
  | cons q l ih =>
    rw [List.foldl_cons]
    obtain h | h := endHold_cases (q := q) hl
    · rw [h]
      exact ih hl
    · rw [h]
      have hl' : ((dropHead q (s.request .undeliverable)).port p).link ≠ .up := by
        rw [link_dropHead]
        exact hl
      obtain ⟨h1, h2⟩ := ih hl'
      exact ⟨fun x => (h1 x).trans tx_dropHead, h2.trans mgmt_dropHead⟩

theorem offerAnswer_departure {q : Port} (hl : (s.port p).link ≠ .up) :
    offerAnswer (departure p s) q = offerAnswer s q := by
  have hb : ((s.setBacklog p []).port p).link ≠ .up := hl
  have up : ((departure p s).port q).link = (s.port q).link := by
    unfold departure
    rw [State.port, ports_departureReports]
    exact link_endHolds
  have tx : ((departure p s).port q).tx = (s.port q).tx := by
    unfold departure
    rw [State.port, ports_departureReports]
    exact (endHolds_leaves hb).1 q
  simp only [offerAnswer, up, tx]

theorem slot_departure {q : Port} (hl : (s.port p).link ≠ .up) (h : q ≠ p) : (departure p s).slot q = s.slot q := by
  have hb : ((s.setBacklog p []).port p).link ≠ .up := hl
  unfold departure
  rw [slot_departureReports h, State.slot, (endHolds_leaves hb).2]
  rfl

theorem slot_dropReplies : (dropReplies p s).slot p = ⟨none, orphan (s.slot p).carried, none⟩ :=
  setSlot_slot_self s p _

theorem slot_emptyReports {q : Port} : (emptyReports p s).slot q = s.slot q := rfl

/-- A controller port with no request and no reply leaves UP with an empty slot (R172). -/
theorem slot_departure_self (hl : (s.port p).link ≠ .up) (hr : s.role p = .controller) (hs : s.slot p = .empty) :
    (departure p s).slot p = .empty := by
  have hb : ((s.setBacklog p []).port p).link ≠ .up := hl
  have same : (endHolds p (s.setBacklog p [])).slot p = s.slot p := by
    rw [State.slot, (endHolds_leaves hb).2]
    rfl
  have role : (endHolds p (s.setBacklog p [])).role p = .controller := role_endHolds.trans hr
  unfold departure
  rw [departureReports_controller role, slot_emptyReports, slot_dropReplies, setQueued_slot, same, hs]
  rfl

/-- A reply for a port that is not UP is dropped (R172). -/
theorem placeReply_dropped {st : Status} {d : ReplyData} (hs : s.slot r.port = .empty)
    (ha : offerAnswer s r.port = .notUp) : placeReply r st d s = s := by
  have h2 : ∀ x, offerAnswer (s.setSlot r.port x) r.port = .notUp := fun _ => ha
  have h3 : s.setSlot r.port .empty = s := by
    have := setSlot_slot_eta s r.port
    rwa [hs] at this
  simp only [placeReply, hs, ControllerSlot.empty, offerReplies, offerSlot, settleOwed, setSlot_slot_self, h2,
    setSlot_setSlot]
  simpa [ControllerSlot.empty] using h3

end Requests

/-- Settles O17: the checks in their order, each by the branch of `portWrite` it decides. -/
theorem portWriteIsChecked : Obligations.PortWriteIsChecked := by
  intro s r i x hs
  have unchanged : ∀ {st : Status}, portWrite i x s = answer st s → Answers (.portWrite r i x) r st .none s s :=
    fun e => congrArg Host.Outcome.next (manage_unchanged hs e)
  refine ⟨fun h => unchanged (portWrite_outside h), ?_⟩
  rintro p rfl
  refine ⟨fun h => unchanged (portWrite_badValue (portEntryOf_invalid h)), fun role enabled hr he hc => ?_⟩
  have offered := portEntryOf_valid hr he hc
  refine ⟨fun hw => unchanged (portWrite_notAllowed offered hw), fun hw hl hx => unchanged (portWrite_locked offered hw hl hx),
    fun hw hl => ?_⟩
  rw [exec_portWrite, manage_placed hs, portWrite_accepted offered hw hl]
  simp only [answer, clampStatus_offered]
  rfl

/-- Settles O19: RESET by the link state and the requester's port, ENABLE and DISABLE as writes of one field. -/
theorem portControls : Obligations.PortControls := by
  intro s r i hs
  have admin : ∀ (b : Bool) {st : Status}, adminWrite i b s = answer st s →
      Answers (if b then .portEnable r i else .portDisable r i) r st .none s s := fun b st e => by
    cases b <;> exact congrArg Host.Outcome.next (manage_unchanged hs e)
  refine ⟨fun h => ⟨congrArg Host.Outcome.next (manage_unchanged hs ?_), admin true (adminWrite_outside h),
    admin false (adminWrite_outside h)⟩, ?_⟩
  · unfold portReset
    rw [index?_none h]
    rfl
  · rintro p rfl
    refine ⟨fun hl => ?_, fun hl hp => ?_, fun hp => ?_, fun e h1 h2 h3 h4 h5 he => ?_, fun hr ho => ?_⟩
    · have ne : r.port ≠ p := fun e => hl (up_iff.mp (e ▸ hs.2.1))
      have ha : offerAnswer (resetPort p s) r.port = .accepted := by
        rw [resetPort_off hl, offerAnswer, setPort_port_ne _ _ ne]
        exact offerAnswer_of_serves hs
      have served := manage_serves (owner := portReset p.val) hs (by rw [portReset_eq, answer_state, resetPort_off hl]; rfl)
        (by rw [portReset_eq]; exact ha)
      rw [portReset_eq, answer_state, resetPort_off hl] at served
      exact congrArg Host.Outcome.next served
    · have off : (((s.setBacklog p []).setPort p (resetLink (s.port p))).port p).link ≠ .up := by
        rw [setPort_port_self]
        exact resetLink_not_up hl
      have ha : offerAnswer (resetPort p s) r.port = .accepted := by
        rw [resetPort_up hl, offerAnswer_departure off, offerAnswer, setPort_port_ne _ _ hp.symm]
        exact offerAnswer_of_serves hs
      have served := manage_serves (owner := portReset p.val) hs
        (by rw [portReset_eq, answer_state, resetPort_up hl, slot_departure off hp.symm]; rfl) (by rw [portReset_eq]; exact ha)
      rw [portReset_eq, answer_state, resetPort_up hl] at served
      exact congrArg Host.Outcome.next served
    · subst hp
      have hl : (s.port r.port).link = .up := up_iff.mp hs.2.1
      have off : (((s.setBacklog r.port []).setPort r.port (resetLink (s.port r.port))).port r.port).link ≠ .up := by
        rw [setPort_port_self]
        exact resetLink_not_up hl
      have role : ((s.setBacklog r.port []).setPort r.port (resetLink (s.port r.port))).role r.port = .controller := by
        rw [setPort_role_self, ← hs.1]
        unfold resetLink
        dsimp only
        (repeat' split) <;> rfl
      rw [exec_portReset, manage_placed hs, portReset_eq, answer_state, resetPort_up hl]
      refine congrArg Host.Outcome.next (placeReply_dropped (slot_departure_self off role hs.2.2.2.1) ?_)
      rw [offerAnswer_departure off]
      exact offerAnswer_notUp.mpr off
    · have fields := offeredEntry_fieldsOf e h1 h2 h3 h4 h5
      have hw : ¬ WriteRefused s p (s.port p).entry.role e := by
        rintro (⟨h, -⟩ | ⟨hr, h, -⟩ | ⟨hr, h, -⟩ | ⟨h, hr, -⟩ | ⟨hr, hf, h⟩)
        · exact h rfl
        · exact h hr
        · exact h hr
        · exact h hr
        · obtain he | he | ⟨q, hq, hc, hen⟩ := he
          · rw [hf] at he
            cases he
          · exact he hr
          · rw [h q hq hc] at hen
            cases hen
      have written := portWrite_accepted (s := s) (p := p) (portEntryOf_fieldsOf (s.port p).entry e) hw (.inr rfl)
      have still : clampStatus (portClamped (fieldsOf (s.port p).entry e)
          (offeredEntry (fieldsOf (s.port p).entry e) (s.port p).entry.role e)) = .done := by
        rw [fields]
        simp [portClamped, fieldsOf, clampStatus]
      rw [still, fields] at written
      have done : manage r (adminWrite p.val e) s =
          placeReply r .done .none (applyEntry p { (s.port p).entry with enabled := e } s) := by
        rw [manage_placed hs, adminWrite_eq, written]
        rfl
      cases e <;> exact congrArg Host.Outcome.next done
    · refine admin false ?_
      rw [adminWrite_eq]
      exact portWrite_notAllowed (portEntryOf_fieldsOf _ _) (.inr (.inr (.inr (.inr ⟨hr, rfl, ho⟩))))

end Sys2Proof.Machine
end

section
/-! The reads of tables and of working state (R174, R178): what each answers, and the statement they settle. -/

namespace Sys2Proof.Machine

section Reads
variable {s : State} {p : Port} {r : Requester}

/-! ### One entry of a table -/

theorem readAt_val {n : Nat} (i : Fin n) (data : Fin n → ReplyData) (s : State) :
    readAt n i.val data s = ⟨.done, data i, s⟩ := by
  unfold readAt
  rw [index?_val]

theorem readAt_outside {n i : Nat} (h : n ≤ i) (data : Fin n → ReplyData) (s : State) :
    readAt n i data s = answer .badIndex s := by
  unfold readAt
  rw [index?_none h]

theorem readEntry_timer (i : Fin 4) (s : State) :
    readEntry 1 i.val s = ⟨.done, .timer (timerValue s.mgmt.timers i), s⟩ := readAt_val i _ s

theorem readEntry_conditions (s : State) : readEntry 11 0 s = ⟨.done, .conditions s.cond.mask, s⟩ :=
  readAt_val (0 : Fin 1) (fun _ => .conditions s.cond.mask) s

/-- A table code above 12 names no table (R174). -/
theorem readEntry_badTable {k i : Nat} (h : 12 < k) : readEntry k i s = answer .badTable s := by
  unfold readEntry
  split
  case h_14 => rfl
  all_goals omega

/-! ### Working state, target by target (R178) -/

theorem readSession_of {x : Session} (hr : s.role p = .intake) (hx : s.session p = some x) {n : Nat} {d : ReplyData}
    (hn : n ≤ 2) (hd : sessionPart x n = some d) : readSession p.val n s = ⟨.done, d, s⟩ := by
  unfold readSession
  rw [index?_val]
  dsimp only
  rw [if_neg (by omega), if_neg (by simp [hr]), hx]
  dsimp only
  rw [hd]

theorem readSession_role (hr : s.role p ≠ .intake) : readSession p.val 0 s = answer .notAllowed s := by
  unfold readSession
  rw [index?_val]
  exact if_pos hr

theorem readSession_outside {i n : Nat} (h : 12 ≤ i ∨ 2 < n) : readSession i n s = answer .badIndex s := by
  unfold readSession
  split
  · rfl
  · rename_i q hq
    obtain h | h := h
    · rw [index?_none h] at hq
      cases hq
    · exact if_pos h

theorem readContext_of {c : Context} (hr : s.role p = .intake) (hc : s.context p = some c) :
    readContext p.val 0 s = ⟨.done, .context c, s⟩ := by
  unfold readContext
  rw [index?_val]
  dsimp only
  rw [if_neg (by simp), if_neg (by simp [hr]), hc]

theorem readContext_role (hr : s.role p ≠ .intake) : readContext p.val 0 s = answer .notAllowed s := by
  unfold readContext
  rw [index?_val]
  exact if_pos hr

theorem readContext_outside {i n : Nat} (h : 12 ≤ i ∨ 0 < n) : readContext i n s = answer .badIndex s := by
  unfold readContext
  split
  · rfl
  · rename_i q hq
    obtain h | h := h
    · rw [index?_none h] at hq
      cases hq
    · exact if_pos h.ne'

theorem readErrorRecord_of {c : FaultContext} {e : ErrorRecord} (hr : s.role p = .intake)
    (hc : s.faultContext p = some c) (he : c.last = some e) : readErrorRecord p.val 0 s = ⟨.done, .errorRecord e, s⟩ := by
  unfold readErrorRecord
  rw [index?_val]
  dsimp only
  rw [if_neg (by simp), if_neg (by simp [hr]), hc]
  dsimp only
  rw [he]

theorem readErrorRecord_none {c : FaultContext} (hr : s.role p = .intake) (hc : s.faultContext p = some c)
    (he : c.last = none) : readErrorRecord p.val 0 s = answer .notFound s := by
  unfold readErrorRecord
  rw [index?_val]
  dsimp only
  rw [if_neg (by simp), if_neg (by simp [hr]), hc]
  dsimp only
  rw [he]

theorem readErrorRecord_role (hr : s.role p ≠ .intake) : readErrorRecord p.val 0 s = answer .notAllowed s := by
  unfold readErrorRecord
  rw [index?_val]
  exact if_pos hr

theorem readErrorRecord_outside {i n : Nat} (h : 12 ≤ i ∨ 0 < n) : readErrorRecord i n s = answer .badIndex s := by
  unfold readErrorRecord
  split
  · rfl
  · rename_i q hq
    obtain h | h := h
    · rw [index?_none h] at hq
      cases hq
    · exact if_pos h.ne'

theorem readTransit_of {t : Tag} {n : Nat} {d : ReplyData} (hd : entryPart (s.entry t) n = some d) :
    readTransit t.val n s = ⟨.done, d, s⟩ := by
  unfold readTransit
  rw [index?_val]
  dsimp only
  rw [hd]

theorem entryPart_zero (e : Entry) : entryPart e 0 = some (.entryState e) := rfl

theorem entryPart_free {e : Entry} (h : e.state = .free) :
    entryPart e 1 = some (.entryState e) ∧ entryPart e 2 = some (.entryState e) := by simp [entryPart, h]

theorem entryPart_taken {e : Entry} (h : e.state ≠ .free) :
    entryPart e 1 = some (.entryRoute e) ∧ entryPart e 2 = some (.entryCredit e) := by simp [entryPart, h]

theorem entryPart_outside (e : Entry) {n : Nat} (h : 2 < n) : entryPart e n = none := by
  unfold entryPart
  split
  case h_4 => rfl
  all_goals omega

theorem readTransit_outside {i n : Nat} (h : 64 ≤ i ∨ 2 < n) : readTransit i n s = answer .badIndex s := by
  unfold readTransit
  split
  · rfl
  · rename_i q hq
    obtain h | h := h
    · rw [index?_none h] at hq
      cases hq
    · rw [entryPart_outside _ h]

theorem readHoldQueue_of {n : Nat} {e : HoldEntry} (he : s.lines.holdQueue[n]? = some e) :
    readHoldQueue 0 n s = ⟨.done, .holdEntry s.lines.holdQueue.length e, s⟩ := by
  unfold readHoldQueue
  rw [if_neg (by simp), he]

theorem readHoldQueue_past {n : Nat} (h : s.lines.holdQueue.length ≤ n) :
    readHoldQueue 0 n s = ⟨.badIndex, .length s.lines.holdQueue.length, s⟩ := by
  unfold readHoldQueue
  rw [if_neg (by simp), List.getElem?_eq_none h]

theorem readHoldQueue_outside {i n : Nat} (h : 0 < i) : readHoldQueue i n s = answer .badIndex s := if_pos h.ne'

theorem readVoucherQueue_of {u : CounterUnit} (hr : s.role p = .counter) (hu : s.unit p = some u) {n : Nat}
    (h1 : n ≤ u.queue.length) (h2 : n ≤ 7) :
    readVoucherQueue p.val n s = ⟨.done, .voucher u.state u.queue.length u.queue[n]?, s⟩ := by
  have hn : ¬ (u.queue.length < n ∨ Config.voucherPlaces ≤ n) := by
    simp only [Config.voucherPlaces]
    omega
  unfold readVoucherQueue
  rw [index?_val]
  dsimp only
  rw [if_neg (by simp [hr]), hu]
  exact if_neg hn

theorem readVoucherQueue_past {u : CounterUnit} (hr : s.role p = .counter) (hu : s.unit p = some u) {n : Nat}
    (h : u.queue.length < n ∨ 7 < n) : readVoucherQueue p.val n s = ⟨.badIndex, .length u.queue.length, s⟩ := by
  unfold readVoucherQueue
  rw [index?_val]
  dsimp only
  rw [if_neg (by simp [hr]), hu]
  exact if_pos h

theorem readVoucherQueue_role (hr : s.role p ≠ .counter) (n : Nat) : readVoucherQueue p.val n s = answer .notAllowed s := by
  unfold readVoucherQueue
  rw [index?_val]
  exact if_pos hr

theorem readVoucherQueue_outside {i n : Nat} (h : 12 ≤ i) : readVoucherQueue i n s = answer .badIndex s := by
  unfold readVoucherQueue
  rw [index?_none h]

theorem readSegment_of (g : SegIx) : readSegment g.val 0 s = ⟨.done, .segment (cell s.lines.segments g), s⟩ :=
  readAt_val g _ s

theorem readSegment_outside {i n : Nat} (h : 12 ≤ i ∨ 0 < n) : readSegment i n s = answer .badIndex s := by
  unfold readSegment
  split
  · rfl
  · rename_i hn
    exact readAt_outside (h.resolve_right fun k => hn k.ne') _ s

theorem readState_badTable {k i n : Nat} (h : 6 < k) : readState k i n s = answer .badTable s := by
  unfold readState
  split
  case h_8 => rfl
  all_goals omega

end Reads

/-- Settles O25: each table and each target by what its read answers, the request changing nothing. -/
theorem tablesAndStateAreRead : Obligations.TablesAndStateAreRead := by
  refine ⟨fun s r hs => ?_, fun s r hs => ?_⟩
  · have reads : ∀ {k i : Nat} {st : Status} {d : ReplyData}, readEntry k i s = ⟨st, d, s⟩ →
        Answers (.readEntry r k i) r st d s s := fun e => congrArg Host.Outcome.next (manage_unchanged hs e)
    refine ⟨fun p => reads (readAt_val p _ s), reads (readEntry_timer 0 s), reads (readEntry_timer 1 s),
      reads (readEntry_timer 2 s), reads (readEntry_timer 3 s), fun i => reads (readAt_val i _ s), fun i => reads (readAt_val i _ s),
      fun i => reads (readAt_val i _ s), fun i => reads (readAt_val i _ s), fun l => reads (readAt_val l _ s),
      fun g => reads (readAt_val g _ s), fun n => reads (readAt_val n _ s), fun i => reads (readAt_val i _ s),
      fun i => reads (readAt_val i _ s), reads (readEntry_conditions s), fun i => rfl, fun t i hm j hj => ?_,
      fun t i h => reads (readEntry_badTable h)⟩
    simp only [List.mem_cons, Prod.mk.injEq, List.not_mem_nil, or_false] at hm
    rcases hm with ⟨rfl, rfl⟩ | ⟨rfl, rfl⟩ | ⟨rfl, rfl⟩ | ⟨rfl, rfl⟩ | ⟨rfl, rfl⟩ | ⟨rfl, rfl⟩ | ⟨rfl, rfl⟩ | ⟨rfl, rfl⟩ |
      ⟨rfl, rfl⟩ | ⟨rfl, rfl⟩ | ⟨rfl, rfl⟩ | ⟨rfl, rfl⟩ <;> exact reads (readAt_outside hj _ s)
  · have reads : ∀ {k i n : Nat} {st : Status} {d : ReplyData}, readState k i n s = ⟨st, d, s⟩ →
        Answers (.readState r k i n) r st d s s := fun e => congrArg Host.Outcome.next (manage_unchanged hs e)
    refine ⟨fun p hr => ⟨fun x hx => ⟨reads (readSession_of hr hx (by omega) rfl), reads (readSession_of hr hx (by omega) rfl),
        reads (readSession_of hr hx (by omega) rfl)⟩, fun c hc => reads (readContext_of hr hc),
        fun f e hf he => reads (readErrorRecord_of hr hf he), fun f hf he => reads (readErrorRecord_none hr hf he)⟩,
      fun p hr => ⟨reads (readSession_role hr), reads (readContext_role hr), reads (readErrorRecord_role hr)⟩,
      fun t => ⟨reads (readTransit_of (entryPart_zero _)), fun hf => ⟨reads (readTransit_of (entryPart_free hf).1),
        reads (readTransit_of (entryPart_free hf).2)⟩, fun hf => ⟨reads (readTransit_of (entryPart_taken hf).1),
        reads (readTransit_of (entryPart_taken hf).2)⟩⟩,
      fun q e he => reads (readHoldQueue_of he), fun q hq => reads (readHoldQueue_past hq),
      fun p u hr hu => ⟨fun q h1 h2 => reads (readVoucherQueue_of hr hu h1 h2),
        fun q h => reads (readVoucherQueue_past hr hu h)⟩,
      fun p hr q => reads (readVoucherQueue_role hr q), fun g => reads (readSegment_of g), fun i q h => ?_,
      fun i q h => reads (readTransit_outside (.inl h)), fun i q h => reads (readHoldQueue_outside h),
      fun i q h => ⟨reads (readSession_outside (.inr h)), reads (readTransit_outside (.inr h))⟩,
      fun i q h => ⟨reads (readContext_outside (.inr h)), reads (readErrorRecord_outside (.inr h)),
        reads (readSegment_outside (.inr h))⟩,
      fun t i q h => reads (readState_badTable h)⟩
    exact ⟨reads (readSession_outside (.inl h)), reads (readContext_outside (.inl h)),
      reads (readErrorRecord_outside (.inl h)), reads (readVoucherQueue_outside h), reads (readSegment_outside (.inl h))⟩

end Sys2Proof.Machine
end

section
/-! The frames the part sends (R19, R22, R23, sections 2.1 to 2.3): their sizes, and their bytes read back. -/

namespace Sys2Proof.Machine

/-! ### Sizes -/

@[simp] theorem length_put1 (n : Nat) : (put1 n).length = 1 := rfl
@[simp] theorem length_put2 (n : Nat) : (put2 n).length = 2 := rfl
@[simp] theorem length_put3 (n : Nat) : (put3 n).length = 3 := rfl
@[simp] theorem length_putName {α : Type} [DecidableEq α] (names : List α) (x : α) : (putName names x).length = 1 := rfl
@[simp] theorem length_putSchemes (v : Vector Nat 4) : (putSchemes v).length = 12 := rfl
@[simp] theorem length_putVoucher (r : VoucherRecord) : (putVoucher r).length = 34 := rfl

/-- An error record has 11 bytes, with and without a tag (section 2.3). -/
@[simp] theorem length_putError (e : ErrorRecord) : (putError e).length = 11 := by
  unfold putError
  cases e.tag <;> rfl

/-- The data of a reply have at most 47 bytes, the free value of a longer record too (section 2.2, log entry 12). -/
theorem length_sentData_le (d : ReplyData) : (sentData d).length ≤ 47 := by
  unfold sentData
  split
  · assumption
  · exact Vector.length_toList.le

theorem length_intakePayload_le (f : IntakeFrame) : (intakePayload f).length ≤ 2 := by
  cases f <;> simp [intakePayload]

/-- The payload of each frame the part makes fits in 48 bytes, a forwarded frame's when it did as received. -/
theorem length_payload_frameOf_le (p : Port) (x : TxFrame) (hp : ∀ q f, x = .pass q f → f.payload.length ≤ 48) :
    (frameOf p x).payload.length ≤ 48 := by
  cases x with
  | intake f => exact (length_intakePayload_le f).trans (by omega)
  | mgmtReply r =>
    have h := length_sentData_le r.data
    simp only [frameOf, ownFrame, List.length_append, length_putName]
    omega
  | pass q f => exact hp q f rfl
  | undeliverable f => exact List.length_take_le _ _
  | _ => simp [frameOf, ownFrame]

/-! ### Bytes -/

/-- A frame's bytes are read back as the frame (R9). -/
theorem checkFrame_bytes (f : Frame) (h : f.payload.length ≤ 48) :
    checkFrame f.bytes = some ⟨f.dst.toFin, f.kind, f.tag, f.gen, f.payload⟩ :=
  checkFrame_wireBody f.src 0 (f := ⟨f.dst.toFin, f.kind, f.tag, f.gen, f.payload⟩) h

/-- The frame of a PASS: its addressee as received, and the link it came by as its source (section 2.2). -/
theorem frameOf_pass (p q : Port) (f : RxFrame) : frameOf p (.pass q f) =
    ⟨BitVec.ofNat 4 f.dst.val, BitVec.ofNat 4 q.val, f.kind, f.tag, f.gen, f.payload⟩ := by
  rw [show BitVec.ofNat 4 f.dst.val = BitVec.ofFin f.dst from BitVec.eq_of_toNat_eq (Nat.mod_eq_of_lt f.dst.isLt)]
  rfl

/-- Data that fit are sent as they are. -/
theorem sentData_eq {d : ReplyData} (h : (replyData d).length ≤ 47) : sentData d = replyData d := if_pos h

/-- Settles O59: every frame by its kind, header and payload, and its bytes by the check. -/
theorem sentFramesAreReadBack : Obligations.SentFramesAreReadBack := by
  refine ⟨checkFrame_bytes, fun p x => ⟨rfl, length_payload_frameOf_le p x⟩, fun p => ⟨fun r n => rfl, fun n => rfl,
    fun t g q => rfl, fun q n => rfl, fun q => ⟨rfl, rfl⟩, fun q r => rfl, fun y n total => rfl, fun r => rfl, rfl,
    fun t g h gate q => rfl, fun c => rfl, fun r => rfl, fun r => ⟨rfl, sentData_eq⟩, fun c => rfl, fun e => ?_, fun r => rfl,
    fun f => rfl, frameOf_pass p⟩⟩
  obtain ⟨number, kind, ext, double, table, index, intake, seq, tag, hops, station⟩ := e
  cases tag <;> rfl

end Sys2Proof.Machine
end

section
/-! The configuration store (R180 to R182): the power-on reset, the end of its read, and a save. -/

namespace Sys2Proof.Machine

section StoreRead
variable {s : State} {p : Port} {i : Image}

/-! ### The tables a read loads (R181) -/

theorem validImage_iff (m : ConfigStore) : validImage m = true ↔
    m.answers = true ∧ m.format = 0x4C57A5C3 ∧ m.length = 724 ∧ m.check = checkValue (m.body.take 724) := by
  have length : imageLength = 724 := rfl
  have word : Config.formatWord = 0x4C57A5C3 := rfl
  simp only [validImage, Bool.and_eq_true, beq_iff_eq, and_assoc, length, word]

theorem tablesRead_invalid {m : ConfigStore} (h : validImage m = false) : tablesRead m = .default := by
  unfold tablesRead
  rw [if_neg (by simp [h])]

theorem tablesRead_valid {m : ConfigStore} (h : validImage m = true) : tablesRead m =
    { loadImage (m.body.take 724) with ports := limitRoles (loadImage (m.body.take 724)).ports } := by
  have length : imageLength = 724 := rfl
  unfold tablesRead
  rw [if_pos h, length]

/-! ### The blocks after a read -/

/-- The part with the tables of a read in place and its ports and inputs started, before the lines are reported (R181). -/
def tablesStarted (i : Image) (s : State) : State :=
  let s1 := createAll (loadTables i s)
  startInputs { s1 with ports := mapCells startPort s1.ports, mgmt := { s1.mgmt with loading := false } }

theorem readTables_eq (i : Image) (s : State) : readTables i s = reportLines (tablesStarted i s) := rfl

theorem port_tablesStarted : (tablesStarted i s).port p = startPort { s.port p with entry := cell i.ports p } :=
  (cell_mapCells _ _ p).trans (congrArg startPort (cell_tabulate _ _ p))

theorem role_loadTables : (loadTables i s).role p = (cell i.ports p).role :=
  congrArg (·.entry.role) (cell_tabulate 12 (fun q => { s.port q with entry := cell i.ports q }) p)

/-- What a block creates for the ports of a role (R56, R121, R140, R152). -/
theorem cell_whenRole {α : Type} (r : Role) (x : α) :
    cell (perPort (whenRole (loadTables i s) r x)) p = if (cell i.ports p).role = r then some x else none := by
  rw [cell_perPort, whenRole, role_loadTables]

theorem line_tablesStarted (l : LineIx) : (tablesStarted i s).line l = loadedLine (cell i.lines l) := cell_mapCells _ _ l

theorem input_tablesStarted (k : Fin 8) : cell (tablesStarted i s).cond.inputs k =
    restartedInput (cell i.sense k) (cell s.cond.inputs k) := cell_tabulate _ _ k

theorem entry_startPort (l : LinkPort) : (startPort l).entry = l.entry := by
  unfold startPort enterDown
  split
  · split <;> rfl
  · rfl

theorem link_startPort (l : LinkPort) : (startPort l).link =
    if l.entry.enabled = false ∨ l.entry.role = .unused then l.link else if l.carrier then .training else .down := by
  have on : (l.entry.enabled ∧ l.entry.role ≠ .unused) ↔ ¬ (l.entry.enabled = false ∨ l.entry.role = .unused) := by
    rw [not_or, Bool.not_eq_false]
  unfold startPort
  by_cases h : l.entry.enabled = false ∨ l.entry.role = .unused
  · rw [if_neg fun k => on.mp k h, if_pos h]
  · rw [if_pos (on.mpr h), if_neg h]
    unfold enterDown
    split <;> rfl

theorem restartedInput_eq (e : SenseEntry) (x : SenseInput) : restartedInput e x =
    if x.level = true ∧ e.function ≠ .none then ⟨true, .debouncing, some (e.debounce + 1)⟩ else ⟨x.level, .idle, none⟩ := by
  have on : (x.level && e.function != .none) = true ↔ x.level = true ∧ e.function ≠ .none := by simp
  unfold restartedInput
  by_cases h : x.level = true ∧ e.function ≠ .none
  · rw [if_pos (on.mpr h), if_pos h, h.1]
    rfl
  · rw [if_neg fun k => h (on.mp k), if_neg h]
    rfl

/-- The state of every line is told in turn (R101). -/
theorem reportLines_eq (s : State) :
    reportLines s = { s with mail := s.mail ++ (indices 8).map fun l => .lineStateReport l (s.line l).state } := by
  have told : ∀ (ls : List LineIx) (t : State), t.lines = s.lines →
      ls.foldl (fun t l => t.post (.lineStateReport l (t.line l).state)) t =
        ls.foldl (fun t l => t.post (.lineStateReport l (s.line l).state)) t := by
    intro ls
    induction ls with
    | nil => intro t _; rfl
    | cons l ls ih =>
      intro t ht
      have line : t.line l = s.line l := congrArg (fun u : LineUnit => cell u.lines l) ht
      rw [List.foldl_cons, List.foldl_cons, line]
      exact ih _ ht
  exact (told _ s rfl).trans (foldl_post _ _ _)

/-- The outputs evaluated at once again stand as they are (R167). -/
theorem evalOutputs_evalOutputs (s : State) : evalOutputs (evalOutputs s) = evalOutputs s := by
  unfold evalOutputs
  by_cases h : s.mgmt.loading = true
  · rw [if_pos h, if_pos h]
  · rw [if_neg h]
    exact if_neg h

/-- A read that completes: the tables in place, the ports and inputs started, every line told, CONFIG_DEFAULT asked for when
the image is not valid, and the outputs evaluated. -/
theorem completeRead_eq_tablesStarted (s : State) : ∃ high, completeRead s =
    { tablesStarted (tablesRead s.store) s with
      mail := s.mail ++ (indices 8).map (fun l => .lineStateReport l ((tablesStarted (tablesRead s.store) s).line l).state) ++
        if validImage s.store then [] else [.conditionRequest .configDefault]
      cond := { (tablesStarted (tablesRead s.store) s).cond with high := high } } := by
  rw [completeRead_eq]
  generalize tablesRead s.store = i
  rw [readTables_eq, reportLines_eq]
  cases validImage s.store with
  | false => exact ⟨_, if_neg Bool.false_ne_true⟩
  | true =>
    rw [if_pos rfl, if_pos rfl, List.append_nil]
    exact ⟨_, if_neg Bool.false_ne_true⟩

theorem exec_storeReadDone_idle (h : s.mgmt.loading = false) (m : Option ConfigStore) :
    exec (.storeReadDone m) s = .next s := congrArg Host.Outcome.next (if_neg (by simp [h]))

theorem exec_storeReadDone_loading (h : s.mgmt.loading = true) (m : Option ConfigStore) :
    exec (.storeReadDone m) s = .next (completeRead { s with store := m.getD s.store }) := by
  refine congrArg Host.Outcome.next ((if_pos h).trans ?_)
  cases m <;> rfl

end StoreRead

section Save
variable {s : State} {r : Requester}

/-! ### A save (R182) -/

theorem exec_storeSave (r : Requester) (s : State) : exec (.storeSave r) s = .next (storeSave r s) := rfl

theorem exec_storeSaveDone (how : SaveEnd) (s : State) : exec (.storeSaveDone how) s = .next (storeSaveDone how s) := rfl

theorem storeSave_busy (h : ServesRequests s r.port) (hv : s.mgmt.save.isSome = true) :
    storeSave r s = placeReply r .busy .none s := by
  unfold storeSave
  rw [if_neg (by simp [mayTake_of_serves h]), if_pos hv]

theorem storeSave_absent (h : ServesRequests s r.port) (hv : s.mgmt.save = none) (ha : s.store.answers = false) :
    storeSave r s = placeReply r .refused .none (s.request .storeFailed) := by
  unfold storeSave
  rw [if_neg (by simp [mayTake_of_serves h]), if_neg (by simp [hv]), if_pos ha]

theorem storeSave_begins (h : ServesRequests s r.port) (hv : s.mgmt.save = none) (ha : s.store.answers = true) :
    storeSave r s = beginSave r s := by
  unfold storeSave
  rw [if_neg (by simp [mayTake_of_serves h]), if_neg (by simp [hv]), if_neg (by simp [ha])]

/-- A save begun by a request whose slot is EMPTY: the copy is taken, the format word written as 0, the slot left as it
stands. -/
theorem beginSave_empty (h : s.slot r.port = .empty) : beginSave r s = { s with
    store := { s.store with format := 0 }
    mgmt := { s.mgmt with save := some ⟨some r, imageBody (imageOf s)⟩ } } := by
  have eta := setSlot_slot_eta (withSave (withStore s { s.store with format := 0 })
    (some ⟨some r, imageBody (imageOf s)⟩)) r.port
  rw [show (withSave (withStore s { s.store with format := 0 }) (some ⟨some r, imageBody (imageOf s)⟩)).slot r.port =
    s.slot r.port from rfl, h] at eta
  unfold beginSave
  rw [h]
  exact eta

/-- The reply a save owes joins the queue at once when its port has an EMPTY slot and a place. -/
theorem oweReply_empty {b : List Byte} {st : Status} (hs : s.slot r.port = .empty)
    (ha : offerAnswer s r.port = .accepted) :
    oweReply ⟨some r, b⟩ st s = enqueue s r.port (.mgmtReply ⟨r.tag, st, .none⟩) := by
  have offer : ∀ x, offerAnswer (s.setSlot r.port x) r.port = .accepted := fun _ => ha
  have commute : ∀ x f, enqueue (s.setSlot r.port x) r.port f = (enqueue s r.port f).setSlot r.port x := fun _ _ => rfl
  have eta := setSlot_slot_eta (enqueue s r.port (.mgmtReply ⟨r.tag, st, .none⟩)) r.port
  rw [show (enqueue s r.port (.mgmtReply ⟨r.tag, st, .none⟩)).slot r.port = s.slot r.port from rfl, hs] at eta
  simp only [oweReply, hs, ControllerSlot.empty, settleOwed, offerSlot, setSlot_slot_self, offer, commute, setSlot_setSlot]
  exact eta

theorem endSave_done {b : List Byte} (hs : s.slot r.port = .empty) (ha : offerAnswer s r.port = .accepted) :
    endSave ⟨some r, b⟩ true s = enqueue (withSave s none) r.port (.mgmtReply ⟨r.tag, .done, .none⟩) :=
  oweReply_empty (b := b) (s := withSave s none) hs ha

theorem endSave_failed {b : List Byte} (hs : s.slot r.port = .empty) (ha : offerAnswer s r.port = .accepted) :
    endSave ⟨some r, b⟩ false s =
      enqueue ((withSave s none).request .storeFailed) r.port (.mgmtReply ⟨r.tag, .refused, .none⟩) :=
  oweReply_empty (b := b) (s := (withSave s none).request .storeFailed) hs ha

theorem storeSaveDone_none (h : s.mgmt.save = none) (how : SaveEnd) : storeSaveDone how s = s := by
  unfold storeSaveDone
  rw [h]

theorem storeSaveDone_noAnswer {v : Save} (h : s.mgmt.save = some v) : storeSaveDone .noAnswer s = endSave v false s := by
  unfold storeSaveDone
  rw [h]

theorem storeSaveDone_body_same {v : Save} (h : s.mgmt.save = some v) :
    storeSaveDone (.bodyReadBack v.copy) s = withStore s (writtenStore s.store v.copy v.copy) := by
  unfold storeSaveDone
  rw [h]
  exact if_pos rfl

theorem storeSaveDone_body_differs {v : Save} (h : s.mgmt.save = some v) {c : List Byte} (hc : c ≠ v.copy) :
    storeSaveDone (.bodyReadBack c) s = endSave v false (withStore s (writtenStore s.store v.copy c)) := by
  unfold storeSaveDone
  rw [h]
  exact if_neg hc

theorem storeSaveDone_format {v : Save} (h : s.mgmt.save = some v) (w : BitVec 32) : storeSaveDone (.formatReadBack w) s =
    endSave v (w == Config.formatWord) (withStore s { writtenStore s.store v.copy v.copy with format := w }) := by
  unfold storeSaveDone
  rw [h]

end Save

/-- Settles O53: the read by the state with its tables started, the save by how it ends. -/
theorem storeIsReadAndSaved : Obligations.StoreIsReadAndSaved := by
  intro s
  refine ⟨rfl, fun m h => exec_storeReadDone_idle h m, fun fitted h => ⟨_, exec_storeReadDone_loading h fitted, ?_⟩,
    fun m => ⟨validImage_iff m, tablesRead_invalid, tablesRead_valid⟩, fun r hr => ?_⟩
  · intro m i
    obtain ⟨high, read⟩ := completeRead_eq_tablesStarted { s with store := m }
    have still : evalOutputs (completeRead { s with store := m }) = completeRead { s with store := m } := by
      rw [completeRead_eq]
      exact evalOutputs_evalOutputs _
    have loaded : tablesRead ({ s with store := m } : State).store = i := rfl
    rw [loaded] at read
    rw [read] at still ⊢
    clear_value i
    clear loaded read
    have port : ∀ p, (tablesStarted i { s with store := m }).port p = startPort { s.port p with entry := cell i.ports p } :=
      fun p => port_tablesStarted
    refine ⟨rfl, rfl, fun p => ⟨?_, ?_, cell_whenRole .intake _, cell_whenRole .intake _, cell_whenRole .intake _,
      cell_whenRole .counter _⟩, rfl, rfl, fun g => cell_mapCells _ _ g, fun l => line_tablesStarted l, rfl, rfl, rfl, rfl,
      fun k => (input_tablesStarted k).trans (restartedInput_eq _ _), still, rfl, rfl⟩
    · exact (congrArg LinkPort.entry (port p)).trans (entry_startPort _)
    · exact (congrArg LinkPort.link (port p)).trans (link_startPort _)
  · obtain ⟨-, -, -, empty, -⟩ := id hr
    have place := offerAnswer_of_serves hr
    have answers : ∀ {c : Instr} {st : Status} {u t : State}, exec c s = .next u →
        u = enqueue t r.port (.mgmtReply ⟨r.tag, st, .none⟩) → Answers c r st .none s t :=
      fun e h => e.trans (congrArg Host.Outcome.next h)
    refine ⟨fun hv => answers (exec_storeSave r s) ?_, fun hv ha => answers (exec_storeSave r s) ?_, fun hv ha => ?_,
      fun how hv => ?_, fun b hv => ⟨answers (exec_storeSaveDone _ s) ?_, fun c hc => answers (exec_storeSaveDone _ s) ?_, ?_,
        answers (exec_storeSaveDone _ s) ?_, fun w hw => answers (exec_storeSaveDone _ s) ?_⟩⟩
    · exact (storeSave_busy hr hv).trans (placeReply_empty empty place)
    · exact (storeSave_absent hr hv ha).trans (placeReply_empty (s := s.request .storeFailed) empty place)
    · rw [exec_storeSave, storeSave_begins hr hv ha, beginSave_empty empty]
    · rw [exec_storeSaveDone, storeSaveDone_none hv]
    · exact (storeSaveDone_noAnswer hv).trans (endSave_failed empty place)
    · exact (storeSaveDone_body_differs hv hc).trans
        (endSave_failed (s := withStore s (writtenStore s.store b c)) empty place)
    · exact congrArg Host.Outcome.next (storeSaveDone_body_same hv)
    · exact (storeSaveDone_format hv Config.formatWord).trans
        (endSave_done (s := withStore s { writtenStore s.store b b with format := Config.formatWord }) empty place)
    · have word : (w == Config.formatWord) = false := beq_false_of_ne hw
      rw [storeSaveDone_format hv, word]
      exact endSave_failed (s := withStore s { writtenStore s.store b b with format := w }) empty place

end Sys2Proof.Machine
end

section
/-! The effects of a written port entry (R3, R129, R134, R146): the link's move, the per-port state of the roles, and the close
that is tried again. -/

namespace Sys2Proof.Machine

section PortEntries
variable {s : State} {p : Port} {e : PortEntry}

/-! ### The link's move (R3) -/

theorem moveForWrite_off {old : PortEntry} (h : e.role = .unused ∨ e.enabled = false) :
    moveForWrite p old e s = moveLink p enterDisabled s := if_pos h

theorem moveForWrite_start {old : PortEntry} (h : ¬ (e.role = .unused ∨ e.enabled = false))
    (hm : (s.port p).link = .disabled ∨ e.role ≠ old.role) : moveForWrite p old e s = moveLink p enterDown s :=
  (if_neg h).trans (if_pos hm)

theorem moveForWrite_stays {old : PortEntry} (h : ¬ (e.role = .unused ∨ e.enabled = false))
    (hl : (s.port p).link ≠ .disabled) (hr : e.role = old.role) : moveForWrite p old e s = s :=
  (if_neg h).trans (if_neg fun k => k.elim hl fun c => c hr)

/-- A port that is not UP is moved with nobody told. -/
theorem setPort_moveLink_off {f : LinkPort → LinkPort} {l : LinkPort} (h : l.link ≠ .up) :
    moveLink p f (s.setPort p l) = s.setPort p (f l) := by
  rw [moveLink_off (by rwa [setPort_port_self]), setPort_setPort, setPort_port_self]

theorem setPort_moveLink_up {f : LinkPort → LinkPort} {l : LinkPort} (h : l.link = .up) :
    moveLink p f (s.setPort p l) = departure p (s.setPort p (f l)) := by
  rw [moveLink_up (by rwa [setPort_port_self]), setPort_setPort, setPort_port_self]

/-! ### The entry applied -/

/-- An entry of the port's own role moves the link alone. -/
theorem applyEntry_same_role (h : e.role = (s.port p).entry.role) {t : State}
    (ht : moveForWrite p (s.port p).entry e (s.setPort p { s.port p with entry := e }) = t) :
    applyEntry p e s = if e.counterPort = (s.port p).entry.counterPort then t else retryClose t p := by
  have same : changeRole p (s.port p).entry.role e.role t = t := if_pos h.symm
  unfold applyEntry
  dsimp only at ht ⊢
  rw [ht, same]

/-- An entry of another role moves the link, and then the per-port state of the two roles. -/
theorem applyEntry_other_role (h : e.role ≠ (s.port p).entry.role) {u t : State}
    (hu : moveForWrite p (s.port p).entry e (s.setPort p { s.port p with entry := e }) = u)
    (ht : evalOutputs ((createRole p e.role (removeRole p (s.port p).entry.role u)).post (.portEventReport p)) = t) :
    applyEntry p e s = if e.counterPort = (s.port p).entry.counterPort then t else retryClose t p := by
  have changed : changeRole p (s.port p).entry.role e.role u = t := (if_neg fun k => h k.symm).trans ht
  unfold applyEntry
  dsimp only at hu ⊢
  rw [hu, changed]

/-! ### A close tried again (R129) -/

theorem retryClose_waiting {x : Session} (hx : s.session p = some x) (h : x.state = .closingWait) :
    retryClose s p = (closeAttempt p s).2 := by
  unfold retryClose
  rw [hx]
  exact if_pos h

theorem retryClose_other {x : Session} (hx : s.session p = some x) (h : x.state ≠ .closingWait) : retryClose s p = s := by
  unfold retryClose
  rw [hx]
  exact if_neg h

/-- A session that already waits to close stays as it stands when it is sent to wait. -/
theorem enterClosingWait_waiting {x : Session} (hx : s.session p = some x) (h : x.state = .closingWait) :
    enterClosingWait p s = s := by
  unfold enterClosingWait
  rw [hx]
  exact if_pos h

/-- No close completes while a posting is awaited (R128, step 1). -/
theorem attemptClose_awaited {x : Session} (hx : s.session p = some x) (h : x.awaited.isSome = true) :
    attemptClose p s = (false, enterClosingWait p s) := by
  unfold attemptClose
  rw [hx]
  exact if_pos h

theorem closeAttempt_awaited {x : Session} (hx : s.session p = some x) (h : x.awaited.isSome = true) :
    closeAttempt p s = (false, enterClosingWait p s) := by
  unfold closeAttempt
  rw [attemptClose_awaited hx h]
  rfl

/-! ### The roles' per-port state (R3, R56, R134, R146) -/

theorem createSession_new (h : s.session p = none) : createSession p s = s.setSession p (some .new) := by
  unfold createSession
  rw [h]

theorem createSession_kept {x : Session} (h : s.session p = some x) :
    createSession p s = s.setSession p (some { x with reported := .stopped }) := by
  unfold createSession
  rw [h]

theorem removeContext_some {c : Context} (h : s.context p = some c) : removeContext p s = (askFree c s).setContext p none := by
  unfold removeContext
  rw [h]

/-- What a removed context asks of the transit table: to free its tag without credit (R56). -/
theorem askFree_eq (c : Context) (s : State) : askFree c s = { s with mail := s.mail ++ match c.tag with
    | none => []
    | some t => [.freeRequest t.tag t.gen] } := by
  unfold askFree
  cases c.tag with
  | none => exact congrArg (fun m => ({ s with mail := m } : State)) (List.append_nil _).symm
  | some t => rfl

theorem session_askFree {c : Context} : ((askFree c s).setContext p none).session p = s.session p := by
  rw [askFree_eq]
  rfl

theorem removeSession_idle {x : Session} (hx : s.session p = some x) (h : x.state = .idle) :
    removeSession p s = s.setSession p none := by
  unfold removeSession
  rw [hx]
  dsimp only
  rw [h]

theorem removeSession_open {x : Session} (hx : s.session p = some x) (h : x.state = .opened ∨ x.state = .closePending) :
    removeSession p s = (closeAttempt p s).2 := by
  unfold removeSession
  rw [hx]
  dsimp only
  obtain h | h := h <;> rw [h]

theorem removeSession_waiting {x : Session} (hx : s.session p = some x) (h : x.state = .closingWait) :
    removeSession p s = s := by
  unfold removeSession
  rw [hx]
  dsimp only
  rw [h]

/-- With no report of the port's link on its way, the role INTAKE is given up as the state stands. -/
theorem removeRole_intake (h : ∀ m ∈ s.mail, isLinkReport p m = false) {c : Context} (hc : s.context p = some c) :
    removeRole p .intake s = (removeSession p ((askFree c s).setContext p none)).setFaultContext p none := by
  have none_waiting : takeLinkReports p s = s := takeWaiting_none h
  unfold removeRole
  dsimp only
  rw [none_waiting, removeContext_some hc]

/-- A departure on its way is taken before the role INTAKE is given up (log entry 2). -/
theorem removeRole_intake_departure {a b : List Instr} (hs : s.mail = a ++ .intakeDeparture p :: b)
    (h : ∀ m ∈ a ++ b, isLinkReport p m = false) : removeRole p .intake s =
      (removeSession p (removeContext p (intakeDeparture p { s with mail := a ++ b }))).setFaultContext p none := by
  have taken : takeLinkReports p s = takeLinkReport p { s with mail := a ++ b } (.intakeDeparture p) :=
    takeWaiting_one hs (beq_self_eq_true p) h
  unfold removeRole
  dsimp only
  rw [taken, show takeLinkReport p { s with mail := a ++ b } (.intakeDeparture p) =
    intakeDeparture p { s with mail := a ++ b } from if_pos rfl]

theorem removeUnit_none (h : s.unit p = none) : removeUnit p s = s := by
  unfold removeUnit
  rw [h]

theorem removeUnit_empty {u : CounterUnit} (h : s.unit p = some u) (hq : u.queue = []) :
    removeUnit p s = s.setUnit p none := by
  unfold removeUnit
  rw [h]
  dsimp only
  rw [hq]
  rfl

theorem removeUnit_queued {u : CounterUnit} (h : s.unit p = some u) (hq : u.queue ≠ []) : removeUnit p s =
    ((u.queue.foldl (fun t r => reportVoucher ⟨r, .refused⟩ t) s).request .voucherRefused).setUnit p none := by
  unfold removeUnit
  rw [h]
  dsimp only
  rw [if_neg (by simpa using hq)]

theorem mail_offerReport {α : Type} (frame : α → TxFrame) (list : List α) (x : α) :
    (offerReport frame p list x s).2.mail = s.mail := by
  unfold offerReport
  split
  · cases offerAnswer s p <;> rfl
  · split <;> rfl

/-- What keeps the messages at each element keeps them over a list. -/
theorem mail_foldl {α : Type} {f : State → α → State} (h : ∀ t x, (f t x).mail = t.mail) (l : List α) (s : State) :
    (l.foldl f s).mail = s.mail := by
  induction l generalizing s with
  | nil => rfl
  | cons x l ih => rw [List.foldl_cons, ih, h]

theorem mail_reportVoucher (x : VoucherReport) (s : State) : (reportVoucher x s).mail = s.mail :=
  mail_foldl (f := voucherReportTo x) (fun _ _ => mail_offerReport _ _ _) _ _

end PortEntries

/-- Settles O18: the written entry by the move of its link, then each role taken and given up. -/
theorem acceptedEntriesAreApplied : Obligations.AcceptedEntriesAreApplied := by
  refine ⟨fun s p e => ⟨fun hr => ⟨fun off hl => ?_, fun off hl => ?_, fun on hl => ?_, fun on hl => ?_⟩, fun hr hl => ?_⟩,
    fun s p x hx => ⟨retryClose_other hx, retryClose_waiting hx, fun h ha => ?_⟩, fun s p => ⟨fun h => ?_, fun x hx => ?_, rfl,
      fun r h1 h2 => ?_, fun c x hc hx h hm => ?_, fun c x hc hx h hm => ?_, fun a b t hs hm ht => ?_, rfl, removeUnit_none,
      fun u => removeUnit_empty, fun u => removeUnit_queued, fun u hu => ⟨?_, fun hq => ?_⟩, fun r h => ?_⟩⟩
  · exact applyEntry_same_role hr ((moveForWrite_off off).trans (setPort_moveLink_off hl))
  · exact applyEntry_same_role hr ((moveForWrite_off off).trans (setPort_moveLink_up hl))
  · have started := moveForWrite_start (s := s.setPort p { s.port p with entry := e }) (p := p) (old := (s.port p).entry) on
      (.inl (by rw [setPort_port_self]; exact hl))
    exact applyEntry_same_role hr (started.trans (setPort_moveLink_off (by simp [hl])))
  · exact applyEntry_same_role hr (moveForWrite_stays on (by rw [setPort_port_self]; exact hl) hr)
  · refine applyEntry_other_role hr ?_ rfl
    split
    · rename_i off
      exact (moveForWrite_off off).trans (setPort_moveLink_off hl)
    · rename_i on
      exact (moveForWrite_start on (.inr hr)).trans (setPort_moveLink_off hl)
  · rw [retryClose_waiting hx h, closeAttempt_awaited hx ha]
    exact enterClosingWait_waiting hx h
  · exact congrArg (fun t => setReported p .stopped (State.setFaultContext t p (some .fresh)))
      (createSession_new (s := createContext p s) h)
  · exact congrArg (fun t => setReported p .stopped (State.setFaultContext t p (some .fresh))) 
      (createSession_kept (s := createContext p s) hx)
  · cases r with
    | intake => exact absurd rfl h1
    | counter => exact absurd rfl h2
    | _ => rfl
  · rw [removeRole_intake hm hc]
    obtain h | h := h
    · rw [removeSession_idle (session_askFree.trans hx) h, askFree_eq, if_pos h]
      rfl
    · rw [removeSession_waiting (session_askFree.trans hx) h, askFree_eq, if_neg (by simp [h])]
      rfl
  · rw [removeRole_intake hm hc, removeSession_open (session_askFree.trans hx) h, askFree_eq]
    rfl
  · rw [removeRole_intake_departure hs hm]
    cases ht
    rfl
  · by_cases hq : u.queue = []
    · rw [show removeRole p .counter s = _ from removeUnit_empty hu hq, setUnit_unit_self]
    · rw [show removeRole p .counter s = _ from removeUnit_queued hu hq, setUnit_unit_self]
  · rw [show removeRole p .counter s = _ from removeUnit_queued hu hq]
    exact congrArg (· ++ [Instr.conditionRequest .voucherRefused]) (mail_foldl (fun _ _ => mail_reportVoucher _ _) _ _)
  · obtain rfl | rfl | rfl := h <;> rfl

end Sys2Proof.Machine
end

section
/-! Every command completes, and leaves the queue of waiting commands alone: the lemmas on that queue for the meanings that
Laws/Calm.lean to Laws/Steady.lean do not cover, and the statement they settle. -/

namespace Sys2Proof.Machine

section Waiting
variable {s : State} {p : Port}

/-! ### Postings, container records and drops: whatever credit they carry -/

theorem pending_takePosting {g : Posting} : (takePosting p g s).pending = s.pending := by
  unfold takePosting
  split
  · rfl
  · exact (calm_offerTally (.refl _)).pending

theorem pending_carry {g : Posting} : (carry p g s).pending = s.pending := by
  unfold carry
  split <;> rfl

theorem pending_postPast {g : Posting} : (postPast p g s).pending = s.pending := by
  have closed : (closeAttempt p s).2.pending = s.pending := (calm_closeAttempt (.refl _)).pending
  unfold postPast
  dsimp only
  split
  · exact pending_takePosting.trans closed
  · exact pending_carry.trans closed

theorem pending_postWaiting {x : Session} {g : Posting} : (postWaiting p x g s).pending = s.pending := by
  unfold postWaiting
  split
  · have closed : (closeAttempt p (s.setSession p (some (addPosting x g)))).2.pending = s.pending :=
      (calm_closeAttempt (.refl _)).pending
    dsimp only
    split
    · exact closed
    · exact (calm_offerTally (.refl _)).pending.trans closed
  · rfl

theorem pending_takePostingEvent {g : Posting} : (takePostingEvent g s).pending = s.pending := by
  unfold takePostingEvent
  split
  · rfl
  · split
    case h_1 => exact pending_postWaiting
    all_goals
      split
      · exact pending_postPast
      · exact pending_takePosting

theorem pending_takeRecord {tag : Tag} {g : Gen} {r : ContainerRecord} : (takeRecord tag g r s).pending = s.pending := by
  unfold takeRecord
  dsimp only
  split
  · rfl
  · rename_i u _
    have offered : (offerGates tag g 0 u.route s).2.pending = s.pending := (calm_offerGates (.refl _)).pending
    split
    · split
      · exact offered
      · exact (calm_cancelWithFault (.refl _)).pending.trans offered
    · rfl

theorem pending_dropped {q : Byte} : (dropped p q s).pending = s.pending := by
  unfold dropped
  split
  · rfl
  · split <;> rfl

/-! ### Management requests -/

/-- A management request leaves the queue of waiting commands alone when its owner does (R172). -/
theorem pending_manage {r : Requester} {f : State → Answer} (hf : (f s).state.pending = s.pending) :
    (manage r f s).pending = s.pending := by
  unfold manage
  split
  · exact (calm_placeReply (.refl _)).pending.trans hf
  · rfl

theorem pending_lockRead {n : Nat} : (lockRead n s).state.pending = s.pending := by
  unfold lockRead
  (repeat' split) <;> rfl

theorem pending_readEntry {n i : Nat} : (readEntry n i s).state.pending = s.pending := by
  unfold readEntry
  split
  case h_13 => exact pending_lockRead
  case h_14 => rfl
  all_goals rw [readAt_state]

theorem pending_timerWrite {i v : Nat} : (timerWrite i v s).state.pending = s.pending := by
  unfold timerWrite
  split <;> rfl

theorem pending_materialWrite {i v : Nat} : (materialWrite i v s).state.pending = s.pending := by
  unfold materialWrite
  (repeat' split) <;> rfl

theorem pending_pitchWrite {i v : Nat} : (pitchWrite i v s).state.pending = s.pending := by
  unfold pitchWrite
  (repeat' split) <;> rfl

theorem pending_classWrite {i k : Nat} {d : Fin 65536} : (classWrite i d k s).state.pending = s.pending := by
  unfold classWrite
  (repeat' split) <;> rfl

theorem pending_schemeWrite {i v : Nat} : (schemeWrite i v s).state.pending = s.pending := by
  unfold schemeWrite
  (repeat' split) <;> rfl

theorem pending_lineWrite {i : Nat} {x : LineFields} : (lineWrite i x s).state.pending = s.pending := by
  unfold lineWrite
  (repeat' split)
  case h_2.isFalse hr _ => exact (calm_applyLine (lineRecordOf_nodup hr) (.refl s)).pending
  all_goals rfl

theorem pending_lineControl {i : Nat} {b : Bool} : (lineControl i b s).state.pending = s.pending := by
  unfold lineControl
  split
  · rfl
  · exact (calm_rederive (.refl (s.setLine _ _))).pending

theorem pending_segmentWrite {i v : Nat} : (segmentWrite i v s).state.pending = s.pending := by
  unfold segmentWrite
  split
  · rfl
  · exact (calm_walk (.refl _)).pending

theorem pending_dispositionWrite {i : Nat} {x : DispositionFields} :
    (dispositionWrite i x s).state.pending = s.pending := by
  unfold dispositionWrite
  (repeat' split) <;> rfl

theorem pending_senseWrite {i : Nat} {x : SenseFields} : (senseWrite i x s).state.pending = s.pending := by
  unfold senseWrite applySense
  (repeat' split)
  case h_2.isFalse => exact (calm_evalOutputs (calm_setInput (calm_cond (calm_releaseInput (.refl s))))).pending
  all_goals rfl

theorem pending_outputWrite {i : Nat} {x : OutputFields} : (outputWrite i x s).state.pending = s.pending := by
  unfold outputWrite
  (repeat' split)
  case h_2 => exact (calm_evalOutputs (calm_cond (.refl s))).pending
  all_goals rfl

theorem pending_maskWrite {i : Nat} {b : BitVec 24} : (maskWrite i b s).state.pending = s.pending := by
  unfold maskWrite
  split
  · rfl
  · exact (calm_evalOutputs (calm_cond (.refl s))).pending

theorem pending_lockWrite {i : Nat} {k : Key} : (lockWrite i k s).state.pending = s.pending := by
  unfold lockWrite
  (repeat' split) <;> rfl

theorem pending_articleInsert {x : ArticleFields} : (articleInsert x s).state.pending = s.pending := by
  unfold articleInsert
  dsimp only
  (repeat' split) <;> rfl

theorem pending_articleReplace {x : ArticleFields} : (articleReplace x s).state.pending = s.pending := by
  unfold articleReplace
  dsimp only
  (repeat' split) <;> rfl

theorem pending_articleDelete {k : ArticleCode} : (articleDelete k s).state.pending = s.pending := by
  unfold articleDelete
  dsimp only
  (repeat' split) <;> rfl

theorem pending_articleFind {k : ArticleCode} : (articleFind k s).state.pending = s.pending := by
  unfold articleFind
  dsimp only
  (repeat' split) <;> rfl

theorem pending_articleRead {n : Nat} : (articleRead n s).state.pending = s.pending := by
  unfold articleRead
  split <;> rfl

theorem pending_unlock {k : Key} : (unlock k s).state.pending = s.pending := by
  unfold unlock
  split <;> rfl

/-! ### Resets and the store -/

theorem pending_completeRead : (completeRead s).pending = s.pending := by
  rw [completeRead_eq]
  refine (calm_evalOutputs (.refl _)).pending.trans ?_
  have tables : (readTables (tablesRead s.store) s).pending = s.pending := calm_reportLines.pending
  split <;> exact tables

theorem pending_storeReadDone {m : Option ConfigStore} : (storeReadDone m s).pending = s.pending := by
  unfold storeReadDone
  split
  · split <;> exact pending_completeRead
  · rfl

theorem pending_softAdmission : (softAdmission s).pending = s.pending :=
  (calm_foldl calm_resetContext (.refl { s with admission := { s.admission with roomStop := false } })).pending

theorem pending_softLines : (softLines s).pending = s.pending := by
  unfold softLines
  exact calm_reportLines.pending

theorem pending_softConditions : (softConditions s).pending = s.pending := by
  unfold softConditions
  exact (calm_evalOutputs (calm_withConditions (.refl _))).pending

theorem pending_softReset : (softReset s).pending = s.pending := by
  have counters (u : State) : (softFaults (softTally (softTransit u))).pending = u.pending := rfl
  have catalogue : (softCatalogue s).pending = s.pending := rfl
  exact pending_softConditions.trans ((counters _).trans (pending_softLines.trans (pending_softAdmission.trans catalogue)))

theorem pending_softResetRequest : (softResetRequest s).state.pending = s.pending := by
  unfold softResetRequest
  split
  · rfl
  · rw [answer_state, pending_softReset]

theorem pending_storeSave {r : Requester} : (storeSave r s).pending = s.pending := by
  unfold storeSave
  (repeat' split)
  · rfl
  · exact (calm_placeReply (.refl _)).pending
  · exact (calm_placeReply (calm_request (.refl s))).pending
  · rfl

theorem pending_endSave {v : Save} {b : Bool} : (endSave v b s).pending = s.pending := by
  unfold endSave
  split <;> exact calm_oweReply.pending

theorem pending_storeSaveDone {e : SaveEnd} : (storeSaveDone e s).pending = s.pending := by
  unfold storeSaveDone
  dsimp only
  split
  · rfl
  · split
    · exact pending_endSave
    · split
      · rfl
      · exact pending_endSave
    · exact pending_endSave

/-! ### Every command -/

/-- A command completes: it answers a next state, and the queue of waiting commands is as it was. -/
def Completes (c : Instr) (s : State) : Prop := ∃ t, exec c s = .next t ∧ t.pending = s.pending

theorem completes_of_calm {c : Instr} {t : State} (e : exec c s = .next t) (h : Calm s t) : Completes c s :=
  ⟨t, e, h.pending⟩

theorem completes_of_steady {c : Instr} {t : State} (e : exec c s = .next t) (h : Steady s t) : Completes c s :=
  ⟨t, e, h.pending⟩

theorem completes_of_manage {c : Instr} {r : Requester} {f : State → Answer} (e : exec c s = .next (manage r f s))
    (h : (f s).state.pending = s.pending) : Completes c s :=
  ⟨_, e, pending_manage h⟩

/-- Every command completes: each meaning by what it is known to keep. -/
theorem exec_completes (c : Instr) (s : State) : Completes c s := by
  have same : Calm s s := .refl s
  have still : Steady s s := .refl s
  cases c with
  | powerOnReset => exact ⟨_, rfl, rfl⟩
  | storeReadDone m => exact ⟨_, rfl, pending_storeReadDone⟩
  | signalDetect p => exact completes_of_steady rfl (steady_signalDetect still)
  | signalLoss p => exact completes_of_steady rfl (steady_signalLoss still)
  | frameArrival p b => exact completes_of_steady rfl (steady_frameArrival still)
  | announce p f => exact completes_of_steady rfl (steady_takeAnnounce still)
  | credit p f => exact completes_of_steady rfl (steady_creditFrame still)
  | frameTransmit p => exact completes_of_steady rfl (steady_frameTransmit still)
  | placeFree p o => exact completes_of_steady rfl (steady_placeFree still)
  | frameDispatch p => exact completes_of_steady rfl (steady_dispatchFrame still)
  | pass p => exact completes_of_steady rfl (steady_passFrame still)
  | sighting p x => exact completes_of_calm rfl (calm_sighting same)
  | faultOutcome p n o => exact completes_of_calm rfl (calm_applyOutcome same)
  | withdrawn p q => exact completes_of_calm rfl (calm_withdrawn same)
  | returned p q => exact completes_of_calm rfl (calm_returned same)
  | dropped p q => exact ⟨_, rfl, pending_dropped⟩
  | present p => exact completes_of_calm rfl (calm_restartIdle same)
  | finish p =>
    refine completes_of_calm rfl ?_
    split
    · exact same
    · exact calm_applyFinish ‹_› same
  | headFault p n k => exact completes_of_calm rfl (calm_headFault same)
  | gateAck p g n k r => exact completes_of_calm rfl (calm_gateAck same)
  | passage p g n k => exact completes_of_calm rfl (calm_passage same)
  | arrival p g n => exact completes_of_calm rfl (calm_arrival same)
  | fill p n => exact completes_of_calm rfl (calm_fill same)
  | voucherDone p n r => exact completes_of_calm rfl (calm_voucherDone same)
  | holdTimerExpiry p => exact completes_of_calm rfl (calm_holdExpiry same)
  | handoverTimerExpiry p => exact completes_of_calm rfl (calm_handoverExpiry same)
  | gateAckTimerExpiry g => exact completes_of_calm rfl (calm_gateAckExpiry same)
  | transitTimerExpiry g => exact completes_of_calm rfl (calm_transitExpiry same)
  | idleTimerExpiry p => exact completes_of_calm rfl (calm_idleExpiry same)
  | replyTimerExpiry p => exact completes_of_calm rfl (calm_replyExpiry same)
  | senseAssert n => exact completes_of_calm rfl calm_senseAssert
  | senseRelease n => exact completes_of_calm rfl calm_senseRelease
  | debounceTimerExpiry n => exact completes_of_calm rfl calm_debounceExpiry
  | claim k => exact completes_of_calm rfl (calm_takeClaim same)
  | containerRecord g n r => exact ⟨_, rfl, pending_takeRecord⟩
  | grantNotice p q g n l k => exact completes_of_calm rfl (calm_grantNotice same)
  | reselectionNotice p q l k => exact completes_of_calm rfl (calm_reselectionNotice same)
  | removalRequest p => exact completes_of_calm rfl (calm_removeEntry same)
  | releaseNotice g n l k q => exact completes_of_calm rfl (calm_release same)
  | cancelRequest g n => exact completes_of_calm rfl (calm_cancelRequest same)
  | freeRequest g n => exact completes_of_calm rfl (calm_freeRequest same)
  | gatesSetReport p g n => exact completes_of_calm rfl (calm_gatesSet same)
  | gateFault p k g n b => exact completes_of_calm rfl (calm_gateFault same)
  | dropReport p g n => exact completes_of_calm rfl (calm_dropReport same)
  | posting x => exact ⟨_, rfl, pending_takePostingEvent⟩
  | dropNote p g q k => exact completes_of_calm rfl (calm_dropNote same)
  | stateReport p x r q => exact completes_of_steady rfl (steady_stateReport still)
  | returnRequest p => exact completes_of_calm rfl (calm_returnRequest same)
  | returnAnswer p b x => exact completes_of_calm rfl (calm_returnAnswer same)
  | closeCompleted p => exact completes_of_calm rfl (calm_closeCompleted same)
  | roomStopReport b => exact completes_of_calm rfl (calm_roomStopReport same)
  | binFullReport l b => exact completes_of_calm rfl (calm_withCauses same)
  | flagClear p => exact completes_of_calm rfl (calm_clearFlag same)
  | transitFault k g n p q => exact completes_of_calm rfl (calm_transitFault same)
  | voucherRequest x =>
    have made : Calm s (createVoucher x s).2 := calm_createVoucher same
    exact ⟨_, rfl, made.pending⟩
  | voucherPlaceFreed p => exact completes_of_calm rfl (calm_placeFreed same)
  | intakeDeparture p => exact completes_of_calm rfl (calm_intakeDeparture same)
  | intakeArrival p b => exact completes_of_calm rfl (calm_intakeArrival same)
  | portEventReport p => exact completes_of_calm rfl (calm_portEvent same)
  | sorterDownReport p => exact completes_of_calm rfl (calm_foldl calm_sorterDownEntry same)
  | counterPortReport p b => exact completes_of_calm rfl (calm_counterPortReport same)
  | conditionRequest k => exact completes_of_calm rfl (calm_setCondition same)
  | lineStateReport l x => exact completes_of_calm rfl (calm_evalOutputs (calm_cond same))
  | readEntry r k i => exact completes_of_manage rfl pending_readEntry
  | lockRecordRead r i => exact completes_of_manage rfl pending_lockRead
  | portWrite r i x => exact completes_of_manage rfl (steady_portWrite still).pending
  | timerWrite r i v => exact completes_of_manage rfl pending_timerWrite
  | materialWrite r i v => exact completes_of_manage rfl pending_materialWrite
  | pitchWrite r i v => exact completes_of_manage rfl pending_pitchWrite
  | classWrite r i d k => exact completes_of_manage rfl pending_classWrite
  | schemeWrite r i v => exact completes_of_manage rfl pending_schemeWrite
  | lineWrite r i x => exact completes_of_manage rfl pending_lineWrite
  | segmentWrite r i v => exact completes_of_manage rfl pending_segmentWrite
  | dispositionWrite r i x => exact completes_of_manage rfl pending_dispositionWrite
  | senseWrite r i x => exact completes_of_manage rfl pending_senseWrite
  | outputWrite r i x => exact completes_of_manage rfl pending_outputWrite
  | maskWrite r i b => exact completes_of_manage rfl pending_maskWrite
  | lockRecordWrite r i k => exact completes_of_manage rfl pending_lockWrite
  | articleInsert r x => exact completes_of_manage rfl pending_articleInsert
  | articleReplace r x => exact completes_of_manage rfl pending_articleReplace
  | articleDelete r k => exact completes_of_manage rfl pending_articleDelete
  | articleFind r k => exact completes_of_manage rfl pending_articleFind
  | articleRead r n => exact completes_of_manage rfl pending_articleRead
  | articleClear r => exact completes_of_manage (f := articleClear) rfl rfl
  | unlock r k => exact completes_of_manage rfl pending_unlock
  | relock r => exact completes_of_manage (f := relock) rfl rfl
  | clearConditions r b => exact completes_of_manage (f := clearConditions b) rfl (calm_clearNamed same).pending
  | clearSense r b => exact completes_of_manage (f := clearSense b) rfl (calm_releaseInputs same).pending
  | intakeResume r n =>
    exact completes_of_manage rfl (calm_intakeControl (fun _ _ => calm_resumeContext same) same).pending
  | intakeStopControl r n =>
    exact completes_of_manage rfl (calm_intakeControl (fun _ _ => calm_stopControl same) same).pending
  | clearFault r n => exact completes_of_manage rfl (calm_intakeControl (fun _ _ => calm_clearFlag same) same).pending
  | portEnable r n => exact completes_of_manage rfl (steady_adminWrite still).pending
  | portDisable r n => exact completes_of_manage rfl (steady_adminWrite still).pending
  | portReset r n => exact completes_of_manage rfl (steady_portReset still).pending
  | lineEnable r n => exact completes_of_manage rfl pending_lineControl
  | lineDisable r n => exact completes_of_manage rfl pending_lineControl
  | counterResume r n => exact completes_of_manage rfl calm_counterResume.pending
  | readState r k i n => exact completes_of_manage rfl (congrArg State.pending readState_state)
  | softReset r => exact completes_of_manage rfl pending_softResetRequest
  | storeSave r => exact ⟨_, rfl, pending_storeSave⟩
  | storeSaveDone x => exact ⟨_, rfl, pending_storeSaveDone⟩

end Waiting

/-- Settles O3: exec_completes, command by command. -/
theorem everyCommandCompletes : Obligations.EveryCommandCompletes := exec_completes

end Sys2Proof.Machine
end

section
/-! The state after a power-on reset: what each table reads back (R33, R54, R80, R101, R120, R135, R148, R162, R171, R183),
and the laws of Safety.lean there. -/

namespace Sys2Proof.Machine

/-! ### What the reset state reads back -/

@[simp] theorem reset_port (p : Port) : State.reset.port p = LinkPort.reset p := cell_perPort LinkPort.reset p
@[simp] theorem reset_unit (p : Port) : State.reset.unit p = none := cell_replicate none p
@[simp] theorem reset_session (p : Port) : State.reset.session p = none := cell_replicate none p
@[simp] theorem reset_context (p : Port) : State.reset.context p = none := cell_replicate none p
@[simp] theorem reset_entry (t : Tag) : State.reset.entry t = Entry.free 0 := cell_replicate (Entry.free 0) t
@[simp] theorem reset_segment (g : SegIx) : cell State.reset.lines.segments g = ⟨0, 0⟩ := cell_replicate _ g

@[simp] theorem reset_line (l : LineIx) : State.reset.line l = Line.reset l := by
  revert l
  decide

/-- No transit entry is in use, and no message is on its way: no space is reserved. -/
theorem reservations_reset : reservations State.reset = [] := by
  have idle : entryReservation State.reset = fun _ => none := funext fun t => by simp [entryReservation, Entry.free]
  simp [reservations, idle, show State.reset.mail = [] from rfl]

/-! ### The laws -/

theorem articleLaw_reset : ArticleLaw State.reset := ⟨.nil, nofun, Nat.zero_le _⟩

theorem linkLaw_reset : LinkLaw State.reset := fun p => reset_port p ▸ portLaw_reset p false []

theorem voucherLaw_reset : VoucherLaw State.reset := fun p u h => by simp at h

theorem transitLaw_reset : TransitLaw State.reset := fun t => reset_entry t ▸ entryLaw_free 0

theorem moneyLaw_reset : MoneyLaw State.reset :=
  ⟨fun p x h => by simp at h, fun p c k h => by simp at h, fun t r h => by simp [Entry.free] at h, nofun, nofun⟩

theorem holdLaw_reset : HoldLaw State.reset := ⟨fun l => by simp [Line.reset, LineRecord.default], nofun⟩

theorem spaceLaw_reset : SpaceLaw State.reset := by
  simp [SpaceLaw, reservations_reset, Line.reset]

/-- Settles O4: law by law, from what the tables read back. -/
theorem resetIsSound : Obligations.ResetIsSound :=
  ⟨articleLaw_reset, linkLaw_reset, voucherLaw_reset, transitLaw_reset, moneyLaw_reset, holdLaw_reset, spaceLaw_reset⟩

end Sys2Proof.Machine
end

section
/-! The frame dispatcher (chapter 2): the codes of the frame kinds, the tests of R25 one equation per case, and the PASS
frames (R28 to R31). -/

namespace Sys2Proof.Machine

/-! ### The kinds and their codes (section 2.2, R26) -/

/-- A kind is named by its own code and by no other. -/
theorem kindOf_eq_some {c : Byte} {k : Kind} : kindOf c = some k ↔ c = kindCode k := by
  constructor
  · intro h
    obtain ⟨x, hx, rfl⟩ := Option.map_eq_some_iff.mp h
    have listed : ∀ y ∈ kindCodes, y.1 = kindCode y.2 := by decide
    have named : x.1 = c := by simpa using List.find?_some hx
    exact named ▸ listed x (List.mem_of_find?_eq_some hx)
  · rintro rfl
    cases k <;> rfl

/-- The acceptance table by the codes of its kinds (R26). -/
theorem kindCode_mem_accepted {r : Role} {k : Kind} : kindCode k ∈ (acceptedKinds r).map kindCode ↔ k ∈ acceptedKinds r := by
  have injective : Function.Injective kindCode := fun a b h =>
    Option.some.inj ((kindOf_eq_some.mpr rfl).symm.trans (kindOf_eq_some.mpr h))
  exact List.mem_map_of_injective injective

theorem mgmtReq_accepted {r : Role} : .mgmtReq ∈ acceptedKinds r ↔ r = .controller := by
  cases r <;> decide

theorem pass_not_accepted (r : Role) : .pass ∉ acceptedKinds r := by
  cases r <;> decide

section Dispatcher
variable {s : State} {p : Port} {f : RxFrame} {rest : List RxFrame} {k : Kind}

/-! ### The tests of R25 -/

theorem exec_frameDispatch (s : State) (p : Port) : exec (.frameDispatch p) s = .next (dispatchFrame p s) := rfl

/-- A queue that is empty, or whose head is held, is left (R24). -/
theorem dispatchFrame_left (h : (s.port p).rx = [] ∨ (s.port p).held ≠ none) : dispatchFrame p s = s := by
  unfold dispatchFrame
  split
  · rename_i hr hh
    obtain h | h := h
    · cases h.symm.trans hr
    · exact absurd hh h
  · rfl

theorem dispatchFrame_head (hr : (s.port p).rx = f :: rest) (hh : (s.port p).held = none) :
    dispatchFrame p s = decideFrame p f s := by
  unfold dispatchFrame
  rw [hr, hh]

/-- Tests 1, 4 and 5: no kind, not to the switch, or not of the sender's role. -/
theorem decideFrame_refused (hp : f.kind ≠ 0x70) (hm : f.kind = 0x60 → s.role p = .controller)
    (h : f.dst ≠ 15 ∨ f.kind ∉ (acceptedKinds (s.role p)).map kindCode) :
    decideFrame p f s = dropHead p (s.request .kindRefused) := by
  unfold decideFrame
  split
  · rfl
  · rename_i k hk
    have code : f.kind = kindCode k := kindOf_eq_some.mp hk
    have notForeign : ¬ (k = .mgmtReq ∧ s.role p ≠ .controller) := fun ⟨e, r⟩ => r (hm (code.trans (congrArg kindCode e)))
    have notPass : k ≠ .pass := fun e => hp (code.trans (congrArg kindCode e))
    rw [if_neg notForeign, if_neg notPass]
    split
    · rfl
    · rename_i hd
      obtain h | h := h
      · exact absurd h hd
      · exact if_neg fun hk => h (code ▸ kindCode_mem_accepted.mpr hk)

/-- Test 2: a MGMT_REQ of a station that is no controller. -/
theorem decideFrame_foreign (hk : f.kind = 0x60) (hr : s.role p ≠ .controller) :
    decideFrame p f s = dropHead p (s.request .mgmtForeign) := by
  unfold decideFrame
  rw [show kindOf f.kind = some .mgmtReq from kindOf_eq_some.mpr hk]
  exact if_pos ⟨rfl, hr⟩

/-- Test 3: a PASS. -/
theorem decideFrame_pass (hk : f.kind = 0x70) : decideFrame p f s = decidePass p f s := by
  unfold decideFrame
  rw [show kindOf f.kind = some .pass from kindOf_eq_some.mpr hk]
  rfl

/-- A frame to the switch of a kind its sender may send is handed over. -/
theorem decideFrame_accepted (hd : f.dst = 15) (hk : kindOf f.kind = some k) (ha : k ∈ acceptedKinds (s.role p)) :
    decideFrame p f s = handOver p k f s := by
  have notForeign : ¬ (k = .mgmtReq ∧ s.role p ≠ .controller) := fun ⟨e, r⟩ => r (mgmtReq_accepted.mp (e ▸ ha))
  have notPass : k ≠ .pass := fun e => pass_not_accepted _ (e ▸ ha)
  unfold decideFrame
  rw [hk]
  dsimp only
  rw [if_neg notForeign, if_neg notPass, if_neg (fun h : f.dst ≠ Config.switchAddress => h hd), if_pos ha]

/-! ### What is handed over (R18, R26, R172, R175) -/

theorem handOver_refused (hk : k ≠ .mgmtReq) (h : stationCommand p k f = none) :
    handOver p k f s = dropHead p (s.request .kindRefused) := by
  unfold handOver
  rw [if_neg hk, h]
  rfl

theorem handOver_command {i : Instr} (hk : k ≠ .mgmtReq) (h : stationCommand p k f = some i) :
    handOver p k f s = (dropHead p s).post i := by
  unfold handOver
  rw [if_neg hk, h]

theorem handOver_request : handOver p .mgmtReq f s =
    if f.payload = [] then dropHead p (s.request .kindRefused) else takeRequest p f s := by
  simp only [handOver, if_true, List.isEmpty_iff]
  rfl

/-- The state in which a request taken from port p is carried out: it has left the queue, and its slot is carrying (R172). -/
def requestTaken (p : Port) (s : State) : State := (dropHead p s).setSlot p { s.slot p with carried := .carrying }

theorem slot_dropHead {q : Port} : (dropHead p s).slot q = s.slot q :=
  congrArg (fun m : ManagementUnit => cell m.slots q) mgmt_dropHead

/-- The count in the answer to an article operation (R36). -/
theorem refusalData_eq (x : List Byte) (s : State) : refusalData x s = match x with
    | [] => .none
    | op :: _ => if 2 ≤ op.toNat ∧ op.toNat ≤ 7 then .article none none s.catalogue.articles.length else .none := by
  cases x with
  | nil => rfl
  | cons op x => simp [refusalData, isArticleOperation, articleData]

theorem catalogue_requestTaken : (requestTaken p s).catalogue = s.catalogue := (steady_dropHead (.refl s)).catalogue

theorem takeRequest_waits (h : takesRequest s p = false) : takeRequest p f s = s := by simp [takeRequest, h]

theorem takeRequest_refused {st : Status} (h : takesRequest s p = true) (hr : requestOf ⟨p, f.tag⟩ f.payload = .refused st) :
    takeRequest p f s = placeReply ⟨p, f.tag⟩ st (refusalData f.payload s) (requestTaken p s) := by
  have count (x : List Byte) : refusalData x (requestTaken p s) = refusalData x s := by
    simp only [refusalData, articleData, catalogue_requestTaken]
  simp only [takeRequest, h, hr, if_true, slot_dropHead]
  exact congrArg (fun d => placeReply ⟨p, f.tag⟩ st d (requestTaken p s)) (count f.payload)

theorem takeRequest_command {i : Instr} (h : takesRequest s p = true) (hr : requestOf ⟨p, f.tag⟩ f.payload = .command i) :
    takeRequest p f s = (requestTaken p s).post i := by
  simp only [takeRequest, h, hr, if_true, slot_dropHead]
  rfl

/-! ### PASS (R28 to R31) -/

theorem exec_pass (s : State) (p : Port) : exec (.pass p) s = .next (passFrame p s) := rfl

theorem passFrame_pass (hr : (s.port p).rx = f :: rest) (hh : (s.port p).held = none) (hk : f.kind = 0x70) :
    passFrame p s = decidePass p f s := by
  unfold passFrame
  rw [hr, hh]
  exact if_pos (kindOf_eq_some.mpr hk)

theorem passFrame_other (hr : (s.port p).rx = f :: rest) (hh : (s.port p).held = none) (hk : f.kind ≠ 0x70) :
    passFrame p s = s := by
  unfold passFrame
  rw [hr, hh]
  exact if_neg fun e => hk (kindOf_eq_some.mp e)

theorem passFrame_held (h : (s.port p).held ≠ none) : passFrame p s = reoffer p s := by
  unfold passFrame
  split
  · exact absurd ‹_› h
  · rfl

theorem reoffer_pass (hr : (s.port p).rx = f :: rest) (h : (s.port p).held = some .pass) :
    reoffer p s = offerPass p f s := by
  unfold reoffer
  rw [hr, h]

theorem reoffer_undeliverable {u : RxFrame} (hr : (s.port p).rx = f :: rest)
    (h : (s.port p).held = some (.undeliverable u)) : reoffer p s = offerUndeliverable p u s := by
  unfold reoffer
  rw [hr, h]

theorem namesController_iff {d : Fin 16} :
    namesController s d = true ↔ ∃ q : Port, d.val = q.val ∧ s.role q = .controller := by
  unfold namesController index?
  split
  · rename_i h
    split at h
    · cases h
    · rename_i hd
      refine ⟨nofun, fun ⟨q, hq, _⟩ => absurd (hq ▸ q.isLt) hd⟩
  · rename_i q h
    split at h <;> cases h
    refine ⟨fun h => ⟨_, rfl, by simpa using h⟩, fun ⟨x, hx, hr⟩ => ?_⟩
    rw [show x = ⟨d.val, _⟩ from Fin.ext hx.symm] at hr
    simpa using hr

/-- R31: a controller's PASS goes to any address but the switch's. -/
theorem decidePass_controller (hr : s.role p = .controller) :
    decidePass p f s = if f.dst = 15 then dropHead p (s.request .kindRefused) else offerPass p f s := if_pos hr

/-- R31: a station's PASS goes to a controller. -/
theorem decidePass_station (hr : s.role p ≠ .controller) (h : ∃ q : Port, f.dst.val = q.val ∧ s.role q = .controller) :
    decidePass p f s = offerPass p f s := by
  unfold decidePass
  rw [if_neg hr, if_pos (namesController_iff.mpr h)]

theorem decidePass_stray (hr : s.role p ≠ .controller) (h : ∀ q : Port, f.dst.val = q.val → s.role q ≠ .controller) :
    decidePass p f s = dropHead p (s.request .kindRefused) := by
  have strays : ¬ namesController s f.dst = true := fun e => by
    obtain ⟨q, hq, hc⟩ := namesController_iff.mp e
    exact h q hq hc
  unfold decidePass
  rw [if_neg hr, if_neg strays]
  rfl

/-- The address of a port. -/
theorem index?_address {d : Fin 16} {q : Port} (h : d.val = q.val) : index? 12 d.val = some q := h ▸ index?_val q

theorem addressAnswer_port {d : Fin 16} {q : Port} (h : d.val = q.val) :
    addressAnswer s p d = if q = p then .notUp else offerAnswer s q := by
  unfold addressAnswer
  rw [index?_address h]

theorem addressAnswer_outside {d : Fin 16} (h : 12 ≤ d.val) : addressAnswer s p d = .notUp := by
  unfold addressAnswer
  rw [index?_none h]

theorem offerPass_accepted {q : Port} (hd : f.dst.val = q.val) (hq : q ≠ p) (ha : offerAnswer s q = .accepted) :
    offerPass p f s = dropHead p (enqueue s q (.pass p f)) := by
  unfold offerPass enqueueAt
  rw [addressAnswer_port hd, if_neg hq, ha, index?_address hd]

theorem offerPass_queueFull {q : Port} (hd : f.dst.val = q.val) (hq : q ≠ p) (ha : offerAnswer s q = .queueFull) :
    offerPass p f s = s.setPort p { s.port p with held := some .pass } := by
  unfold offerPass
  rw [addressAnswer_port hd, if_neg hq, ha]
  rfl

theorem offerPass_notUp (h : addressAnswer s p f.dst = .notUp) : offerPass p f s = undeliverable p f s := by
  unfold offerPass
  rw [h]

end Dispatcher

/-- Settles O12: the tests of R25 one by one. -/
theorem headFrameIsDispatched : Obligations.HeadFrameIsDispatched := by
  intro s p
  refine ⟨fun h => by rw [exec_frameDispatch, dispatchFrame_left h], fun f rest hr hh => ?_⟩
  intro refused accepted
  have listed : accepted.Perm ((acceptedKinds (s.role p)).map kindCode) := by
    simp only [accepted]
    cases s.role p <;> decide
  have codes : f.kind ∈ accepted ↔ f.kind ∈ (acceptedKinds (s.role p)).map kindCode := listed.mem_iff
  have dispatched : exec (.frameDispatch p) s = .next (decideFrame p f s) := by
    rw [exec_frameDispatch, dispatchFrame_head hr hh]
  have taken : ∀ k, kindOf f.kind = some k → f.dst = 15 → f.kind ∈ accepted → decideFrame p f s = handOver p k f s := by
    intro k hk hd ha
    rw [codes, kindOf_eq_some.mp hk] at ha
    exact decideFrame_accepted hd hk (kindCode_mem_accepted.mp ha)
  refine ⟨fun hk => ?_, fun hk hc => ?_, fun hk => ?_, fun hp hm h => ?_, fun hd ha hm k hk => ?_, fun hd hk hc => ?_⟩
  · exact dispatched.trans (congrArg _ (by unfold decideFrame; rw [hk]; rfl))
  · exact dispatched.trans (congrArg _ (decideFrame_foreign hk hc))
  · rw [dispatched, decideFrame_pass hk, exec_pass, passFrame_pass hr hh hk]
  · exact dispatched.trans (congrArg _ (decideFrame_refused hp hm (h.imp_right fun ha => mt codes.mpr ha)))
  · have other : k ≠ .mgmtReq := fun e => hm ((kindOf_eq_some.mp hk).trans (congrArg kindCode e))
    rw [taken k hk hd ha] at dispatched
    exact ⟨fun h => dispatched.trans (congrArg _ (handOver_refused other h)),
      fun i h => dispatched.trans (congrArg _ (handOver_command other h))⟩
  · have named : kindOf f.kind = some .mgmtReq := kindOf_eq_some.mpr hk
    have request := decideFrame_accepted (s := s) (p := p) hd named (mgmtReq_accepted.mpr hc)
    rw [request, handOver_request] at dispatched
    refine ⟨fun h => ?_, fun h ht => ?_, fun h ht => ⟨fun st hq => ?_, fun i hq => ?_⟩⟩
    · exact dispatched.trans (congrArg _ (if_pos h))
    · rw [dispatched, if_neg h, takeRequest_waits ht]
    · rw [dispatched, if_neg h, takeRequest_refused ht hq, refusalData_eq]
      rfl
    · rw [dispatched, if_neg h, takeRequest_command ht hq]
      rfl

/-- Settles O14: each PASS by its source, its destination and the answer to its offer. -/
theorem passFramesAreForwarded : Obligations.PassFramesAreForwarded := by
  intro s p f rest hr back failed forwards
  have backed (u : RxFrame) (t : State) : offerUndeliverable p u t = back u t := by
    unfold offerUndeliverable
    simp only [back]
    cases offerAnswer t p <;> rfl
  have fails : undeliverable p f s = failed := by
    unfold undeliverable
    simp only [failed, backed]
  have offered (h : exec (.pass p) s = .next (offerPass p f s)) : forwards := by
    refine ⟨fun q hq => ⟨fun hn ha => ?_, fun hn ha => ?_, fun hn => ?_⟩, fun hd => ?_⟩
    · rw [h, offerPass_accepted hq hn ha]
    · rw [h, offerPass_queueFull hq hn ha]
    · have refused : addressAnswer s p f.dst = .notUp := by
        rw [addressAnswer_port hq]
        split
        · rfl
        · exact hn.resolve_left ‹_›
      rw [h, offerPass_notUp refused, fails]
    · rw [h, offerPass_notUp (addressAnswer_outside hd), fails]
  have held (h : (s.port p).held ≠ none) : exec (.pass p) s = .next (reoffer p s) := by rw [exec_pass, passFrame_held h]
  refine ⟨fun hh hk => ?_, fun hh hk => ?_, fun hh => ?_, fun u hh => ?_, fun q => ?_⟩
  · rw [exec_pass, passFrame_other hr hh hk]
  · have decided : exec (.pass p) s = .next (decidePass p f s) := by rw [exec_pass, passFrame_pass hr hh hk]
    refine ⟨fun hc hd => ?_, fun hc hd => ?_, fun hc hd => offered ?_, fun hc hd => offered ?_⟩
    · rw [decided, decidePass_controller hc, if_pos hd]
    · rw [decided, decidePass_stray hc hd]
    · rw [decided, decidePass_controller hc, if_neg hd]
    · rw [decided, decidePass_station hc hd]
  · exact offered (by rw [held (by simp [hh]), reoffer_pass hr hh])
  · rw [held (by simp [hh]), reoffer_undeliverable hr hh, backed]
  · rw [exec_placeFree]
    unfold placeFree
    dsimp only
    split
    · rename_i hw
      rw [held fun hn => ?_]
      simp [waitsFor, hn] at hw
    · rfl

end Sys2Proof.Machine
end

section
/-! Numbers read from bytes, most significant byte first (R20, R173): each is the number of the bytes joined. -/

namespace Sys2Proof.Machine

theorem toNat_append_byte {n : Nat} (x : BitVec n) (b : Byte) : (x ++ b).toNat = x.toNat * 256 + b.toNat := by
  rw [BitVec.toNat_append, ← Nat.shiftLeft_add_eq_or_of_lt b.isLt, Nat.shiftLeft_eq]

theorem number_concat (l : List Byte) (b : Byte) : number (l ++ [b]) = number l * 256 + b.toNat := by
  simp [number]

theorem number_pair (a b : Byte) : number [a, b] = (a ++ b).toNat := by
  simp [number, toNat_append_byte]

theorem number_triple (a b c : Byte) : number [a, b, c] = (a ++ b ++ c).toNat := by
  simp [number, toNat_append_byte]

/-- An article code read from its six bytes (R173). -/
theorem ofNat_number_code (c5 c4 c3 c2 c1 c0 : Byte) :
    (BitVec.ofNat 48 (number [c5, c4, c3, c2, c1, c0]) : ArticleCode) = c5 ++ c4 ++ c3 ++ c2 ++ c1 ++ c0 := by
  have joined : number [c5, c4, c3, c2, c1, c0] = (c5 ++ c4 ++ c3 ++ c2 ++ c1 ++ c0).toNat := by
    simp [number, toNat_append_byte]
  rw [joined, BitVec.ofNat_toNat, BitVec.setWidth_eq]

/-- The n low bytes of a word, most significant first. -/
def lowBytes {w : Nat} (n : Nat) (x : BitVec w) : List Byte := (List.range n).map fun i => x.extractLsb' (8 * (n - 1 - i)) 8

theorem lowBytes_succ {w : Nat} (n : Nat) (x : BitVec w) :
    lowBytes (n + 1) x = lowBytes n (x >>> 8) ++ [x.extractLsb' 0 8] := by
  have shifted : ∀ i ∈ List.range n, x.extractLsb' (8 * (n + 1 - 1 - i)) 8 = (x >>> 8).extractLsb' (8 * (n - 1 - i)) 8 := by
    intro i hi
    have := List.mem_range.mp hi
    ext j hj
    simp only [BitVec.getElem_extractLsb', BitVec.getLsbD_ushiftRight]
    congr 1
    omega
  simp only [lowBytes, List.range_succ, List.map_append, List.map_congr_left shifted]
  simp

theorem number_lowBytes {w : Nat} (n : Nat) (x : BitVec w) : number (lowBytes n x) = x.toNat % 256 ^ n := by
  induction n generalizing x with
  | zero => simp [lowBytes, number, Nat.mod_one]
  | succ n ih =>
    rw [lowBytes_succ, number_concat, ih]
    have low : (x.extractLsb' 0 8).toNat = x.toNat % 256 := by simp [BitVec.extractLsb'_toNat]
    rw [low, BitVec.toNat_ushiftRight, Nat.shiftRight_eq_div_pow, show (2 : Nat) ^ 8 = 256 from rfl,
      show 256 ^ (n + 1) = 256 * 256 ^ n from Nat.pow_succ', Nat.mod_mul]
    omega

/-- A key read from its sixteen bytes (R173). -/
theorem keyOperand_lowBytes (x : Key) : keyOperand (lowBytes 16 x) = some x := by
  have whole : number (lowBytes 16 x) = x.toNat := (number_lowBytes 16 x).trans (Nat.mod_eq_of_lt x.isLt)
  rw [keyOperand, if_pos (by simp [lowBytes]), whole, BitVec.ofNat_toNat, BitVec.setWidth_eq]

end Sys2Proof.Machine
end

section
/-! Station frames read into commands (R21, R27): what each reader answers, and to which payloads alone it answers a
command. -/

namespace Sys2Proof.Machine

/-! ### Codes and indices in their ranges -/

theorem decodeName_lt {α : Type} {names : List α} {n : Nat} {x : α} (h : decodeName names n = some x) : n < names.length :=
  (List.getElem?_eq_some_iff.mp h).1

theorem decodeName_outside {α : Type} {names : List α} {n : Nat} (h : names.length ≤ n) : decodeName names n = none :=
  List.getElem?_eq_none h

theorem index?_eq_some {m n : Nat} {i : Fin m} : index? m n = some i ↔ n = i.val := by
  constructor
  · intro h
    unfold index? at h
    split at h <;> cases h
    rfl
  · rintro rfl
    exact index?_val i

theorem index?_lt {m n : Nat} {i : Fin m} (h : index? m n = some i) : n < m := index?_eq_some.mp h ▸ i.isLt

/-- A number below 256 written as one byte reads back. -/
theorem toNat_ofNat_byte {m : Nat} (i : Fin m) (h : m ≤ 256) : (BitVec.ofNat 8 i.val).toNat = i.val :=
  Nat.mod_eq_of_lt (Nat.lt_of_lt_of_le i.isLt h)

section Station
variable {p : Port} {f : RxFrame}

/-! ### SIGHTING (section 2.3, R21, R27) -/

theorem sightedMaterial_eq {m : Byte} {material : Option Material}
    (h : m = 6 ∧ material = none ∨ ∃ x, decodeName materials m.toNat = some x ∧ material = some x) :
    sightedMaterial m.toNat = some material := by
  obtain ⟨rfl, rfl⟩ | ⟨x, hx, rfl⟩ := h
  · rfl
  · have : m.toNat ≠ 6 := (show m.toNat < 6 from decodeName_lt hx).ne
    simp [sightedMaterial, this, hx]

theorem sightedMaterial_outside {n : Nat} (h : 6 < n) : sightedMaterial n = none := by
  have : decodeName materials n = none := decodeName_outside h.le
  simp [sightedMaterial, h.ne', this]

theorem sightingOf_valid {q sh m mk : Byte} {code : ArticleCode} {shape : Shape} {material : Option Material} {mark : Mark}
    (hs : decodeName shapes sh.toNat = some shape) (hm : sightedMaterial m.toNat = some material)
    (hk : decodeName marks mk.toNat = some mark) (w : Fin 65536) (n : Option (Fin 256)) :
    sightingOf q code sh m mk w n = some ⟨q, code, shape, material, mark, w, if shape = .crate then n else none⟩ := by
  unfold sightingOf
  rw [hs, hm, hk]

theorem sightingOf_invalid {sh m mk : Byte} (h : 4 < sh.toNat ∨ 6 < m.toNat ∨ 2 < mk.toNat) (q : Byte) (code : ArticleCode)
    (w : Fin 65536) (n : Option (Fin 256)) : sightingOf q code sh m mk w n = none := by
  unfold sightingOf
  split
  · rename_i hs hm hk
    obtain h | h | h := h
    · exact absurd (decodeName_lt hs) (Nat.not_lt.mpr h)
    · cases hm.symm.trans (sightedMaterial_outside h)
    · exact absurd (decodeName_lt hk) (Nat.not_lt.mpr h)
  · rfl

theorem sightingPayload_twelve (q c5 c4 c3 c2 c1 c0 sh m mk w1 w0 : Byte) :
    sightingPayload [q, c5, c4, c3, c2, c1, c0, sh, m, mk, w1, w0] =
      sightingOf q (c5 ++ c4 ++ c3 ++ c2 ++ c1 ++ c0) sh m mk (w1 ++ w0).toFin none := by
  simp only [sightingPayload, ofNat_number_code, word16]

theorem sightingPayload_thirteen (q c5 c4 c3 c2 c1 c0 sh m mk w1 w0 n : Byte) :
    sightingPayload [q, c5, c4, c3, c2, c1, c0, sh, m, mk, w1, w0, n] =
      sightingOf q (c5 ++ c4 ++ c3 ++ c2 ++ c1 ++ c0) sh m mk (w1 ++ w0).toFin (some n.toFin) := by
  simp only [sightingPayload, ofNat_number_code, word16]

theorem stationCommand_sighting : stationCommand p .sighting f = (sightingPayload f.payload).map (.sighting p) := by
  simp only [stationCommand]
  cases sightingPayload f.payload <;> rfl

theorem sightingPayload_length {b : List Byte} (h : sightingPayload b ≠ none) : b.length = 12 ∨ b.length = 13 := by
  unfold sightingPayload at h
  split at h
  · exact .inl rfl
  · exact .inr rfl
  · exact absurd rfl h

/-! ### HEAD_FAULT, GATE_ACK, PASSAGE, ARRIVAL and VOUCHER_DONE (R27) -/

theorem headFaultPayload_number (n : FaultNo) (c : Byte) :
    headFaultPayload p [BitVec.ofNat 8 n.val, c] = if 22 ≤ n.val then some (.headFault p n c) else none := by
  simp only [headFaultPayload, toNat_ofNat_byte n (by decide), index?_val]
  by_cases h : 22 ≤ n.val
  · rw [if_pos h, if_neg (by omega)]
  · rw [if_neg h, if_pos (by omega)]

theorem headFaultPayload_form {b : List Byte} (h : headFaultPayload p b ≠ none) :
    ∃ n c, b = [n, c] ∧ 22 ≤ n.toNat ∧ n.toNat ≤ 31 := by
  unfold headFaultPayload at h
  split at h
  · rename_i n c
    split at h
    · exact absurd rfl h
    · rename_i k hk
      split at h
      · exact absurd rfl h
      · have := index?_eq_some.mp hk
        exact ⟨n, c, rfl, by omega, by omega⟩
  · exact absurd rfl h

theorem gateAckPayload_form (h : gateAckPayload p f ≠ none) :
    f.tag.toNat ≤ 63 ∧ ∃ i r, f.payload = [i, r] ∧ i.toNat ≤ 5 ∧ r.toNat ≤ 3 := by
  unfold gateAckPayload at h
  split at h
  · rename_i i r hp
    split at h
    · rename_i ht hi hr
      exact ⟨Nat.le_of_lt_succ (index?_lt ht), i, r, hp, Nat.le_of_lt_succ (index?_lt hi),
        Nat.le_of_lt_succ (decodeName_lt hr)⟩
    · exact absurd rfl h
  · exact absurd rfl h

theorem passagePayload_form (h : passagePayload p f ≠ none) : f.tag.toNat ≤ 63 ∧ ∃ i, f.payload = [i] ∧ i.toNat ≤ 3 := by
  unfold passagePayload at h
  split at h
  · rename_i i hp
    split at h
    · rename_i ht hi
      exact ⟨Nat.le_of_lt_succ (index?_lt ht), i, hp, Nat.le_of_lt_succ (index?_lt hi)⟩
    · exact absurd rfl h
  · exact absurd rfl h

theorem arrivalPayload_form (h : arrivalPayload p f ≠ none) : f.tag.toNat ≤ 63 ∧ f.payload = [] := by
  unfold arrivalPayload at h
  split at h
  · rename_i hp ht
    exact ⟨Nat.le_of_lt_succ (index?_lt ht), hp⟩
  · exact absurd rfl h

theorem voucherDonePayload_form {b : List Byte} (h : voucherDonePayload p b ≠ none) :
    ∃ n1 n0 r, b = [n1, n0, r] ∧ r.toNat ≤ 2 := by
  unfold voucherDonePayload at h
  split at h
  · rename_i n1 n0 r
    split at h
    · exact absurd rfl h
    · exact ⟨n1, n0, r, rfl, Nat.le_of_lt_succ (decodeName_lt ‹_›)⟩
  · exact absurd rfl h

theorem gateAckPayload_fields {t : Tag} {i : HopIx} {r : Fin 4} (ht : f.tag.toNat = t.val)
    (hp : f.payload = [BitVec.ofNat 8 i.val, BitVec.ofNat 8 r.val]) :
    gateAckPayload p f = (gateResults[r.val]?).map (.gateAck p t f.gen i) := by
  simp only [gateAckPayload, hp, ht, toNat_ofNat_byte i (by decide), toNat_ofNat_byte r (by decide), index?_val, decodeName]
  cases gateResults[r.val]? <;> rfl

theorem passagePayload_fields {t : Tag} {i : Gate} (ht : f.tag.toNat = t.val) (hp : f.payload = [BitVec.ofNat 8 i.val]) :
    passagePayload p f = some (.passage p t f.gen i) := by
  simp only [passagePayload, hp, ht, toNat_ofNat_byte i (by decide), index?_val]

theorem arrivalPayload_fields {t : Tag} (ht : f.tag.toNat = t.val) (hp : f.payload = []) :
    arrivalPayload p f = some (.arrival p t f.gen) := by
  simp only [arrivalPayload, hp, ht, index?_val]

theorem voucherDonePayload_fields (n1 n0 : Byte) (r : Fin 3) : voucherDonePayload p [n1, n0, BitVec.ofNat 8 r.val] =
    (voucherResults[r.val]?).map (.voucherDone p (n1 ++ n0).toFin) := by
  simp only [voucherDonePayload, toNat_ofNat_byte r (by decide), decodeName]
  cases voucherResults[r.val]? <;> rfl

end Station

end Sys2Proof.Machine
end

section
/-! The payload of a MGMT_REQ read into a command, or refused by its form (R173 to R175): the length of each reader's
operands, the fields of each record, and the request of each operation. -/

namespace Sys2Proof.Machine

/-! ### Readers of operands of one length -/

/-- A reader of operands of n bytes: it reads nothing from operands of another length (R175). -/
def Reads {α : Type} (n : Nat) (read : List Byte → Option α) : Prop := ∀ x, x.length ≠ n → read x = none

theorem Reads.map {α β : Type} {n : Nat} {read : List Byte → Option α} (h : Reads n read) (f : α → β) :
    Reads n fun x => (read x).map f := fun x hx => congrArg (Option.map f) (h x hx)

theorem reads_oneByte (make : Byte → Instr) : Reads 1 (oneByte make) := fun x hx => by
  unfold oneByte
  split
  · exact absurd rfl hx
  · rfl

theorem reads_noBytes (i : Instr) : Reads 0 (noBytes i) := fun x hx => by
  unfold noBytes
  split
  · exact absurd rfl hx
  · rfl

theorem reads_oneWord (make : Nat → Instr) : Reads 2 (oneWord make) := fun x hx => by
  unfold oneWord
  split
  · exact absurd rfl hx
  · rfl

theorem reads_conditionBytes (make : BitVec 24 → Instr) : Reads 3 (conditionBytes make) := fun x hx => by
  unfold conditionBytes
  split
  · exact absurd rfl hx
  · rfl

theorem reads_classBytes (make : Fin 65536 → Nat → Instr) : Reads 3 (classBytes make) := fun x hx => by
  unfold classBytes
  split
  · exact absurd rfl hx
  · rfl

theorem reads_fourBytes (make : Byte → Byte → Byte → Byte → Instr) : Reads 4 (fourBytes make) := fun x hx => by
  unfold fourBytes
  split
  · exact absurd rfl hx
  · rfl

theorem reads_codeOperand : Reads 6 codeOperand := fun x hx => by
  unfold codeOperand
  split
  · exact absurd rfl hx
  · rfl

theorem reads_keyOperand : Reads 16 keyOperand := fun _ hx => if_neg hx

theorem reads_portFieldsOf : Reads 10 portFieldsOf := fun x hx => by
  unfold portFieldsOf
  split
  · exact absurd rfl hx
  · rfl

/-- Operands of a length the reader does not take are refused BAD_VALUE (R175, test 3). -/
theorem Reads.refuses {n : Nat} {read : List Byte → Option Instr} (h : Reads n read) {x : List Byte} (hx : x.length ≠ n) :
    whenFits (read x) = .refused .badValue := by
  rw [h x hx]
  rfl

theorem controlRequest_length {make : Nat → Nat → Request} {x : List Byte} (hx : x.length ≠ 2) :
    controlRequest make x = .refused .badValue := by
  unfold controlRequest
  split
  · exact absurd rfl hx
  · rfl

/-! ### The records of R173 -/

theorem portFieldsOf_bytes (a b c l2 l1 l0 t1 t0 h1 h0 : Byte) : portFieldsOf [a, b, c, l2, l1, l0, t1, t0, h1, h0] =
    some ⟨a.toNat, b.toNat, c.toNat, (l2 ++ l1 ++ l0).toNat, (t1 ++ t0).toInt, (h1 ++ h0).toNat⟩ := by
  simp only [portFieldsOf, number_triple, number_pair]

theorem oneWord_bytes (make : Nat → Instr) (v1 v0 : Byte) : oneWord make [v1, v0] = some (make (v1 ++ v0).toNat) := by
  simp only [oneWord, number_pair]

theorem codeOperand_bytes (c5 c4 c3 c2 c1 c0 : Byte) :
    codeOperand [c5, c4, c3, c2, c1, c0] = some (c5 ++ c4 ++ c3 ++ c2 ++ c1 ++ c0) := by
  simp only [codeOperand, ofNat_number_code]

/-- The hops at the front of a list of bytes, three bytes each (R173). -/
theorem takeHops_eq_some {n : Nat} {l rest : List Byte} {hops : List (Nat × Nat × Nat)} :
    takeHops n l = some (hops, rest) ↔ ∃ route : List (Byte × Byte × Byte), route.length = n ∧
      l = route.flatMap (fun h => [h.1, h.2.1, h.2.2]) ++ rest ∧
      hops = route.map fun h => (h.1.toNat, h.2.1.toNat, h.2.2.toNat) := by
  constructor
  · intro h
    induction n generalizing l hops with
    | zero =>
      cases h
      exact ⟨[], rfl, rfl, rfl⟩
    | succ n ih =>
      obtain _ | ⟨p, _ | ⟨g, _ | ⟨q, l⟩⟩⟩ := l
      case cons.cons.cons =>
        simp only [takeHops] at h
        split at h
        · cases h
        · rename_i x hx
          cases h
          obtain ⟨route, rfl, rfl, hr⟩ := ih hx
          exact ⟨(p, g, q) :: route, rfl, rfl, by rw [hr]; rfl⟩
      all_goals cases h
  · rintro ⟨route, rfl, rfl, rfl⟩
    induction route with
    | nil => rfl
    | cons h route ih => simp [takeHops, ih]

/-- The numbers of one byte each at the front of a list of bytes (R173). -/
theorem takeNumbers_eq_some {n : Nat} {l rest : List Byte} {numbers : List Nat} :
    takeNumbers n l = some (numbers, rest) ↔ ∃ bytes : List Byte, bytes.length = n ∧ l = bytes ++ rest ∧
      numbers = bytes.map (·.toNat) := by
  constructor
  · intro h
    induction n generalizing l numbers with
    | zero =>
      cases h
      exact ⟨[], rfl, rfl, rfl⟩
    | succ n ih =>
      obtain _ | ⟨b, l⟩ := l
      case nil => cases h
      simp only [takeNumbers] at h
      split at h
      · cases h
      · rename_i x hx
        cases h
        obtain ⟨bytes, rfl, rfl, hb⟩ := ih hx
        exact ⟨b :: bytes, rfl, rfl, by rw [hb]; rfl⟩
  · rintro ⟨bytes, rfl, rfl, rfl⟩
    induction bytes with
    | nil => rfl
    | cons b bytes ih => simp [takeNumbers, ih]

/-- The bytes that code the written fields of a line record (R81, R173). -/
def LineBytes (x : LineFields) (b : List Byte) : Prop :=
  ∃ (route : List (Byte × Byte × Byte)) (segments : List Byte) (bin alt mat near full l1 l0 : Byte),
    route.length ≤ 255 ∧ segments.length ≤ 255 ∧
    b = [BitVec.ofNat 8 route.length] ++ route.flatMap (fun h => [h.1, h.2.1, h.2.2]) ++
      [BitVec.ofNat 8 segments.length] ++ segments ++ [bin, alt, mat, near, full, l1, l0] ∧
    x = ⟨route.map fun h => (h.1.toNat, h.2.1.toNat, h.2.2.toNat), segments.map (·.toNat), bin.toNat, alt.toNat,
      mat.setWidth 6, near.toNat, full.toNat, (l1 ++ l0).toNat⟩

theorem lineTail_eq_some {route : List (Nat × Nat × Nat)} {segments : List Nat} {l : List Byte} {x : LineFields} :
    lineTail route segments l = some x ↔ ∃ bin alt mat near full l1 l0 : Byte, l = [bin, alt, mat, near, full, l1, l0] ∧
      x = ⟨route, segments, bin.toNat, alt.toNat, mat.setWidth 6, near.toNat, full.toNat, (l1 ++ l0).toNat⟩ := by
  constructor
  · intro h
    unfold lineTail at h
    split at h
    · cases h
      exact ⟨_, _, _, _, _, _, _, rfl, by rw [number_pair]⟩
    · cases h
  · rintro ⟨bin, alt, mat, near, full, l1, l0, rfl, rfl⟩
    simp only [lineTail, number_pair]

theorem lineSegments_eq_some {route : List (Nat × Nat × Nat)} {l : List Byte} {x : LineFields} :
    lineSegments route l = some x ↔ ∃ (segments rest : List Byte), segments.length ≤ 255 ∧
      l = [BitVec.ofNat 8 segments.length] ++ segments ++ rest ∧ lineTail route (segments.map (·.toNat)) rest = some x := by
  constructor
  · intro h
    obtain _ | ⟨n, l⟩ := l
    case nil => cases h
    simp only [lineSegments] at h
    split at h
    · cases h
    · rename_i y hy
      obtain ⟨segments, hn, rfl, hs⟩ := takeNumbers_eq_some.mp hy
      refine ⟨segments, y.2, ?_, ?_, hs ▸ h⟩
      · have := n.isLt
        omega
      · rw [hn, BitVec.ofNat_toNat, BitVec.setWidth_eq]
        rfl
  · rintro ⟨segments, rest, hn, rfl, h⟩
    have count : (BitVec.ofNat 8 segments.length).toNat = segments.length := Nat.mod_eq_of_lt (Nat.lt_succ_of_le hn)
    have taken : takeNumbers segments.length (segments ++ rest) = some (segments.map (·.toNat), rest) :=
      takeNumbers_eq_some.mpr ⟨segments, rfl, rfl, rfl⟩
    simp [lineSegments, count, taken, h]

theorem lineFieldsOf_eq_some {b : List Byte} {x : LineFields} : lineFieldsOf b = some x ↔ LineBytes x b := by
  constructor
  · intro h
    obtain _ | ⟨n, l⟩ := b
    case nil => cases h
    simp only [lineFieldsOf] at h
    split at h
    · cases h
    · rename_i y hy
      obtain ⟨route, hn, rfl, hr⟩ := takeHops_eq_some.mp hy
      obtain ⟨segments, rest, hs, hl, ht⟩ := lineSegments_eq_some.mp h
      obtain ⟨bin, alt, mat, near, full, l1, l0, rfl, rfl⟩ := lineTail_eq_some.mp ht
      refine ⟨route, segments, bin, alt, mat, near, full, l1, l0, ?_, hs, ?_, by rw [hr]⟩
      · have := n.isLt
        omega
      · rw [hl, hn, BitVec.ofNat_toNat, BitVec.setWidth_eq]
        simp
  · rintro ⟨route, segments, bin, alt, mat, near, full, l1, l0, hr, hs, rfl, hx⟩
    have count : (BitVec.ofNat 8 route.length).toNat = route.length := Nat.mod_eq_of_lt (Nat.lt_succ_of_le hr)
    have taken (rest : List Byte) := takeHops_eq_some.mpr ⟨route, rfl, rfl (a := _ ++ rest), rfl⟩
    have tail := lineTail_eq_some.mpr ⟨bin, alt, mat, near, full, l1, l0, rfl, hx⟩
    have record := lineSegments_eq_some.mpr ⟨segments, _, hs, rfl, tail⟩
    simp only [List.append_assoc, List.cons_append, List.nil_append] at record ⊢
    simp only [lineFieldsOf, count, taken, record]

theorem crateFieldsOf_none {n : Nat} (h : n ≠ 3) : crateFieldsOf n [] = some none := if_neg h

theorem crateFieldsOf_crate {n : Nat} (h : n = 3) (c k m1 m0 x1 x0 : Byte) : crateFieldsOf n [c, k, m1, m0, x1, x0] =
    some (some ⟨c.toNat, k.toNat, (m1 ++ m0).toNat, (x1 ++ x0).toNat⟩) := by
  simp only [crateFieldsOf, if_pos h, number_pair]

theorem crateFieldsOf_length {n : Nat} {x : List Byte} (hx : x.length ≠ if n = 3 then 6 else 0) :
    crateFieldsOf n x = none := by
  unfold crateFieldsOf
  split
  · exact if_pos (by by_contra h; simp [h] at hx)
  · exact if_neg fun h => by simp [h] at hx
  · rfl

theorem articleFieldsOf_bytes (c5 c4 c3 c2 c1 c0 d m sh a1 a0 b1 b0 l fl : Byte) (x : List Byte) :
    articleFieldsOf ([c5, c4, c3, c2, c1, c0, d, m, sh, a1, a0, b1, b0, l, fl] ++ x) =
      (crateFieldsOf sh.toNat x).map fun k => ⟨c5 ++ c4 ++ c3 ++ c2 ++ c1 ++ c0, d.toNat, m.toNat, sh.toNat,
        (a1 ++ a0).toFin, (b1 ++ b0).toFin, l.toNat, fl.getLsbD 0, fl.getLsbD 1, fl.getLsbD 2, k⟩ := by
  simp only [articleFieldsOf, List.cons_append, List.nil_append, ofNat_number_code]
  cases crateFieldsOf sh.toNat x <;> rfl

theorem articleFieldsOf_short {x : List Byte} (hx : x.length < 15) : articleFieldsOf x = none := by
  unfold articleFieldsOf
  split
  · simp only [List.length_cons] at hx
    omega
  · rfl

/-! ### The operations (R174, R175) -/

section Requests
variable {r : Requester}

theorem requestOf_unknown {op : Byte} {x : List Byte} (h : 18 < op.toNat) : requestOf r (op :: x) = .refused .badValue := by
  obtain ⟨n, hn⟩ : ∃ n, op.toNat = n + 19 := ⟨op.toNat - 19, by omega⟩
  show operationRequest r op.toNat x = _
  rw [hn]
  rfl

/-- An operation whose operands have one length refuses every other (R174, R175). -/
theorem requestOf_length {op : Byte} {x : List Byte} {n : Nat} (h : (op, n) ∈ [(4#8, 6), (5, 6), (6, 2), (7, 0), (8, 16),
    (9, 0), (10, 3), (11, 1), (12, 2), (13, 2), (14, 2), (15, 1), (17, 0), (18, 0)]) (hx : x.length ≠ n) :
    requestOf r (op :: x) = .refused .badValue := by
  simp only [List.mem_cons, List.not_mem_nil, or_false, Prod.mk.injEq] at h
  obtain ⟨rfl, rfl⟩ | ⟨rfl, rfl⟩ | ⟨rfl, rfl⟩ | ⟨rfl, rfl⟩ | ⟨rfl, rfl⟩ | ⟨rfl, rfl⟩ | ⟨rfl, rfl⟩ | ⟨rfl, rfl⟩ |
    ⟨rfl, rfl⟩ | ⟨rfl, rfl⟩ | ⟨rfl, rfl⟩ | ⟨rfl, rfl⟩ | ⟨rfl, rfl⟩ | ⟨rfl, rfl⟩ := h
  · exact (reads_codeOperand.map _).refuses hx
  · exact (reads_codeOperand.map _).refuses hx
  · exact (reads_oneWord _).refuses hx
  · exact (reads_noBytes _).refuses hx
  · exact (reads_keyOperand.map _).refuses hx
  · exact (reads_noBytes _).refuses hx
  · exact (reads_conditionBytes _).refuses hx
  · exact (reads_oneByte _).refuses hx
  · exact controlRequest_length hx
  · exact controlRequest_length hx
  · exact controlRequest_length hx
  · exact (reads_oneByte _).refuses hx
  · exact (reads_noBytes _).refuses hx
  · exact (reads_noBytes _).refuses hx

theorem readRequest_badTable {t : Byte} {x : List Byte} (h : 12 < t.toNat) : readRequest r (t :: x) = .refused .badTable :=
  if_pos h

theorem readRequest_length {t : Byte} {x : List Byte} (h : t.toNat ≤ 12) (hx : x.length ≠ 1) :
    readRequest r (t :: x) = .refused .badValue := by
  unfold readRequest
  dsimp only
  rw [if_neg (Nat.not_lt.mpr h)]
  split
  · exact absurd rfl hx
  · rfl

theorem readRequest_entry {t i : Byte} (h : t.toNat < 12) :
    readRequest r [t, i] = .command (.readEntry r t.toNat i.toNat) := by
  have other : t ≠ 12 := fun e => by simp [e] at h
  exact (if_neg (Nat.not_lt.mpr h.le)).trans (congrArg Request.command (if_neg other))

theorem stateRequest_badTable {t : Byte} {x : List Byte} (h : 6 < t.toNat) : stateRequest r (t :: x) = .refused .badTable :=
  if_pos h

theorem stateRequest_length {t : Byte} {x : List Byte} (h : t.toNat ≤ 6) (hx : x.length ≠ 2) :
    stateRequest r (t :: x) = .refused .badValue := by
  unfold stateRequest
  dsimp only
  rw [if_neg (Nat.not_lt.mpr h)]
  split
  · exact absurd rfl hx
  · rfl

theorem stateRequest_target {t i q : Byte} (h : t.toNat ≤ 6) :
    stateRequest r [t, i, q] = .command (.readState r t.toNat i.toNat q.toNat) := if_neg (Nat.not_lt.mpr h)

theorem writeRequest_badTable {t : Byte} {x : List Byte} (h : 12 < t.toNat) : writeRequest r (t :: x) = .refused .badTable :=
  if_pos h

/-- A write whose fields, after the index, are read at one length alone. -/
theorem writeRequest_length {t : Byte} {n : Nat} {x : List Byte} (ht : t.toNat ≤ 12)
    (h : ∀ i, Reads n (writeCommand r t.toNat i)) (hx : x.length ≠ n + 1) :
    writeRequest r (t :: x) = .refused .badValue := by
  unfold writeRequest
  dsimp only
  rw [if_neg (Nat.not_lt.mpr ht)]
  cases x with
  | nil => rfl
  | cons i x => exact (h i.toNat).refuses fun e => hx (congrArg (· + 1) e)

/-- A write on a table whose fields have one length is refused at every other (R173, R175). -/
theorem writeRequest_table_length {t : Byte} {x : List Byte} {n : Nat} (h : (t, n) ∈ [(0#8, 10), (1, 2), (2, 2), (3, 1), (4, 3),
    (5, 1), (7, 1), (8, 4), (9, 4), (10, 4), (11, 3), (12, 16)]) (hx : x.length ≠ n + 1) :
    writeRequest r (t :: x) = .refused .badValue := by
  simp only [List.mem_cons, List.not_mem_nil, or_false, Prod.mk.injEq] at h
  obtain ⟨rfl, rfl⟩ | ⟨rfl, rfl⟩ | ⟨rfl, rfl⟩ | ⟨rfl, rfl⟩ | ⟨rfl, rfl⟩ | ⟨rfl, rfl⟩ | ⟨rfl, rfl⟩ | ⟨rfl, rfl⟩ |
    ⟨rfl, rfl⟩ | ⟨rfl, rfl⟩ | ⟨rfl, rfl⟩ | ⟨rfl, rfl⟩ := h
  · exact writeRequest_length (by decide) (fun i => reads_portFieldsOf.map (Instr.portWrite r i)) hx
  · exact writeRequest_length (by decide) (fun i => reads_oneWord (.timerWrite r i)) hx
  · exact writeRequest_length (by decide) (fun i => reads_oneWord (.materialWrite r i)) hx
  · exact writeRequest_length (by decide) (fun _ => reads_oneByte _) hx
  · exact writeRequest_length (by decide) (fun _ => reads_classBytes _) hx
  · exact writeRequest_length (by decide) (fun _ => reads_oneByte _) hx
  · exact writeRequest_length (by decide) (fun _ => reads_oneByte _) hx
  · exact writeRequest_length (by decide) (fun _ => reads_fourBytes _) hx
  · exact writeRequest_length (by decide) (fun _ => reads_fourBytes _) hx
  · exact writeRequest_length (by decide) (fun _ => reads_fourBytes _) hx
  · exact writeRequest_length (by decide) (fun _ => reads_conditionBytes _) hx
  · exact writeRequest_length (by decide) (fun i => reads_keyOperand.map (Instr.lockRecordWrite r i)) hx

theorem intakeRequest_unknown {q op : Nat} (h : 2 < op) : intakeRequest r q op = unknownControl 12 q := by
  obtain ⟨n, rfl⟩ : ∃ n, op = n + 3 := ⟨op - 3, by omega⟩
  rfl

theorem portRequest_unknown {q op : Nat} (h : 2 < op) : portRequest r q op = unknownControl 12 q := by
  obtain ⟨n, rfl⟩ : ∃ n, op = n + 3 := ⟨op - 3, by omega⟩
  rfl

theorem lineRequest_unknown {q op : Nat} (h : 1 < op) : lineRequest r q op = unknownControl 8 q := by
  obtain ⟨n, rfl⟩ : ∃ n, op = n + 2 := ⟨op - 2, by omega⟩
  rfl

/-! ### The written fields and the articles -/

theorem requestOf_portWrite {i : Byte} {b : List Byte} {x : PortFields} (h : portFieldsOf b = some x) :
    requestOf r ([1, 0, i] ++ b) = .command (.portWrite r i.toNat x) :=
  congrArg (fun o : Option PortFields => whenFits (o.map (.portWrite r i.toNat))) h

theorem requestOf_senseWrite {i a b d1 d0 : Byte} :
    requestOf r [1, 9, i, a, b, d1, d0] = .command (.senseWrite r i.toNat ⟨a.toNat, b.toNat, (d1 ++ d0).toNat⟩) :=
  congrArg (fun n => Request.command (.senseWrite r i.toNat ⟨a.toNat, b.toNat, n⟩)) (number_pair d1 d0)

theorem requestOf_lockRecordWrite {i : Byte} {b : List Byte} {x : Key} (h : keyOperand b = some x) :
    requestOf r ([1, 12, i] ++ b) = .command (.lockRecordWrite r i.toNat x) :=
  congrArg (fun o : Option Key => whenFits (o.map (.lockRecordWrite r i.toNat))) h

theorem requestOf_unlock {b : List Byte} {x : Key} (h : keyOperand b = some x) :
    requestOf r ([8] ++ b) = .command (.unlock r x) :=
  congrArg (fun o : Option Key => whenFits (o.map (.unlock r))) h

/-- The operations on one article code (R39, R40). -/
theorem requestOf_codeOperation {b : List Byte} {x : ArticleCode} (h : codeOperand b = some x) :
    requestOf r (4 :: b) = .command (.articleDelete r x) ∧ requestOf r (5 :: b) = .command (.articleFind r x) :=
  ⟨congrArg (fun o : Option ArticleCode => whenFits (o.map (.articleDelete r))) h,
    congrArg (fun o : Option ArticleCode => whenFits (o.map (.articleFind r))) h⟩

/-- A write on the line table: the fields are those of the bytes that code a line record (R81). -/
theorem requestOf_lineWrite {i : Byte} {b : List Byte} {x : LineFields} (h : LineBytes x b) :
    requestOf r ([1, 6, i] ++ b) = .command (.lineWrite r i.toNat x) :=
  congrArg (fun o : Option LineFields => whenFits (o.map (.lineWrite r i.toNat))) (lineFieldsOf_eq_some.mpr h)

theorem requestOf_lineWrite_refused {i : Byte} {b : List Byte} (h : ∀ x, ¬ LineBytes x b) :
    requestOf r ([1, 6, i] ++ b) = .refused .badValue :=
  congrArg (fun o : Option LineFields => whenFits (o.map (.lineWrite r i.toNat)))
    (Option.eq_none_iff_forall_ne_some.mpr fun x e => h x (lineFieldsOf_eq_some.mp e))

/-- An article operation on an entry that is read, or is not (R37, R38). -/
theorem requestOf_article {x : List Byte} {e : Option ArticleFields} (h : articleFieldsOf x = e) :
    requestOf r (2 :: x) = whenFits (e.map (.articleInsert r)) ∧
    requestOf r (3 :: x) = whenFits (e.map (.articleReplace r)) := h ▸ ⟨rfl, rfl⟩

end Requests

end Sys2Proof.Machine
end

section
/-! The statement on the station frames and the management requests (R21, R27, R173 to R175). -/

namespace Sys2Proof.Machine

/-- Settles O13: form by form, by what each reader answers. -/
theorem stationFramesAreRead : Obligations.StationFramesAreRead := by
  intro p d g k tag frame key
  have outside (h : 63 < tag.toNat) : ¬ tag.toNat ≤ 63 := Nat.not_le.mpr h
  refine ⟨fun q c5 c4 c3 c2 c1 c0 sh m mk w1 w0 shape mark material hs hk hm => ⟨?_, fun n => ?_⟩,
    fun q c5 c4 c3 c2 c1 c0 sh m mk w1 w0 h => ⟨?_, fun n => ?_⟩,
    fun b h => sightingPayload_length fun e => h (by rw [stationCommand_sighting, e]; rfl),
    fun b => rfl, fun b => rfl, fun b => rfl, fun b => by cases b <;> rfl, fun b => by cases b <;> rfl,
    headFaultPayload_number, fun b => headFaultPayload_form, fun b => gateAckPayload_form, fun b => passagePayload_form,
    fun b => arrivalPayload_form, fun b => voucherDonePayload_form,
    fun t i r ht => gateAckPayload_fields (f := frame _) ht rfl, fun t i ht => passagePayload_fields (f := frame _) ht rfl,
    fun t ht => arrivalPayload_fields (f := frame []) ht rfl,
    fun h b => ⟨not_not.mp fun e => outside h (gateAckPayload_form e).1,
      not_not.mp fun e => outside h (passagePayload_form e).1, not_not.mp fun e => outside h (arrivalPayload_form e).1⟩,
    fun b => rfl, voucherDonePayload_fields, fun r => ?_⟩
  · rw [stationCommand_sighting, sightingPayload_twelve, sightingOf_valid hs (sightedMaterial_eq hm) hk, ite_self]
    rfl
  · rw [stationCommand_sighting, sightingPayload_thirteen, sightingOf_valid hs (sightedMaterial_eq hm) hk]
    rfl
  · rw [stationCommand_sighting, sightingPayload_twelve, sightingOf_invalid h]
    rfl
  · rw [stationCommand_sighting, sightingPayload_thirteen, sightingOf_invalid h]
    rfl
  intro refused gives
  refine ⟨rfl, fun op x => requestOf_unknown, fun op x n => requestOf_length, rfl, rfl, rfl,
    fun t x => ⟨fun h => ⟨readRequest_badTable h, writeRequest_badTable h⟩, readRequest_length, stateRequest_badTable,
      stateRequest_length, fun n => writeRequest_table_length⟩,
    fun t i => readRequest_entry, fun i => rfl, fun t i q => stateRequest_target,
    fun i => ⟨fun a b c l2 l1 l0 t1 t0 h1 h0 => requestOf_portWrite (portFieldsOf_bytes a b c l2 l1 l0 t1 t0 h1 h0),
      fun v1 v0 => ⟨congrArg whenFits (oneWord_bytes _ v1 v0), congrArg whenFits (oneWord_bytes _ v1 v0)⟩,
      fun v => ⟨rfl, rfl, rfl⟩, fun d1 d0 k => rfl,
      fun a b c d => ⟨rfl, requestOf_senseWrite, rfl⟩,
      fun m2 m1 m0 => rfl, fun k => requestOf_lockRecordWrite (keyOperand_lowBytes k), rfl, fun x b => requestOf_lineWrite,
      fun b => requestOf_lineWrite_refused⟩,
    fun c5 c4 c3 c2 c1 c0 => ?_, fun x hx => requestOf_article (articleFieldsOf_short hx),
    fun p1 p0 => congrArg whenFits (oneWord_bytes _ p1 p0), rfl, fun k => requestOf_unlock (keyOperand_lowBytes k), rfl,
    fun b2 b1 b0 => rfl, fun b => rfl,
    fun q op => ⟨rfl, rfl, rfl, rfl, rfl, rfl, rfl, rfl, fun h => ⟨intakeRequest_unknown h, portRequest_unknown h⟩,
      lineRequest_unknown, rfl⟩, rfl, rfl⟩
  have code := codeOperand_bytes c5 c4 c3 c2 c1 c0
  refine ⟨requestOf_codeOperation code |>.1, requestOf_codeOperation code |>.2, fun d m sh a1 a0 b1 b0 l fl => ?_⟩
  intro entry fields
  have read (x : List Byte) : articleFieldsOf (entry x) = (crateFieldsOf sh.toNat x).map fields :=
    articleFieldsOf_bytes c5 c4 c3 c2 c1 c0 d m sh a1 a0 b1 b0 l fl x
  have crate : sh.toNat = 3 ↔ sh = 3 := BitVec.toNat_inj (y := 3)
  refine ⟨fun hs => requestOf_article (e := some (fields none)) ?_, fun k n m1 m0 x1 x0 hs => ?_,
    fun x hx => requestOf_article (e := none) ?_⟩
  · rw [read, crateFieldsOf_none (mt crate.mp hs)]
    rfl
  · intro part
    refine requestOf_article (e := some (fields part)) ?_
    rw [read, crateFieldsOf_crate (crate.mpr hs)]
    rfl
  · rw [read, crateFieldsOf_length (by simpa only [crate] using hx)]
    rfl

end Sys2Proof.Machine
end

section
/-! The article table (R35 to R42): which offered entries are valid, the table's operations on a table in ascending order of code,
each by the position of the code, and the law they keep. -/

namespace Sys2Proof.Machine

/-! ### Codes and indices (R20) -/

theorem decodeName_isSome {α : Type} {names : List α} {n : Nat} : (∃ x, decodeName names n = some x) ↔ n < names.length := by
  simp [decodeName, List.getElem?_eq_some_iff]

/-- A code names the value whose code it is. -/
theorem codeOf_decodeName {α : Type} [DecidableEq α] {names : List α} (hn : names.Nodup) {n : Nat} {x : α}
    (h : decodeName names n = some x) : codeOf names x = n := by
  obtain ⟨hl, rfl⟩ := List.getElem?_eq_some_iff.mp h
  exact hn.idxOf_getElem n hl

theorem index?_isSome {m n : Nat} : (∃ i, index? m n = some i) ↔ n < m := by
  simp [index?]

theorem shape_crate {n : Nat} {sh : Shape} (h : decodeName shapes n = some sh) : sh = .crate ↔ n = 3 := by
  have code : codeOf shapes sh = n := codeOf_decodeName (by decide) h
  subst code
  cases sh <;> decide

/-! ### Offered entries (R35) -/

/-- Test 5 of R35: a crate part that passes is taken as it is written. -/
theorem cratePartOf_eq_some {k : CrateFields} {c : CratePart} : cratePartOf k = some c ↔
    k = ⟨c.contentClass.val, c.capacity, c.bottleMin, c.bottleMax⟩ ∧ 1 ≤ k.capacity ∧ k.capacity ≤ 40 ∧
      k.bottleMin ≤ k.bottleMax := by
  unfold cratePartOf
  constructor
  · intro h
    split at h
    · cases h
    · rename_i i hi
      split at h
      · cases h
      · cases h
        exact ⟨by rw [← index?_eq_some.mp hi], by omega⟩
  · rintro ⟨hk, room, most, order⟩
    rw [show k.contentClass = c.contentClass.val from congrArg CrateFields.contentClass hk, index?_val]
    refine (if_neg (by omega)).trans ?_
    rw [hk]

theorem cratePartOf_isSome {k : CrateFields} : (∃ c, cratePartOf k = some c) ↔
    k.contentClass ≤ 31 ∧ 1 ≤ k.capacity ∧ k.capacity ≤ 40 ∧ k.bottleMin ≤ k.bottleMax := by
  constructor
  · rintro ⟨c, hc⟩
    obtain ⟨hk, rest⟩ := cratePartOf_eq_some.mp hc
    have cls : k.contentClass = c.contentClass.val := congrArg CrateFields.contentClass hk
    exact ⟨by omega, rest⟩
  · rintro ⟨hk, rest⟩
    exact ⟨⟨⟨k.contentClass, by omega⟩, k.capacity, k.bottleMin, k.bottleMax⟩, cratePartOf_eq_some.mpr ⟨rfl, rest⟩⟩

/-- Tests 4 and 5 of R35: a crate has a valid crate part, and nothing else has one. -/
theorem cratesAgree_isSome {sh : Shape} {k : Option CrateFields} : (∃ c, cratesAgree sh k = some c) ↔
    (k.isSome = true ↔ sh = .crate) ∧ ∀ y, k = some y → ∃ d, cratePartOf y = some d := by
  cases k with
  | none => by_cases h : sh = .crate <;> simp [cratesAgree, h]
  | some y =>
    by_cases h : sh = .crate
    · cases hy : cratePartOf y <;> simp [cratesAgree, h, hy]
    · simp [cratesAgree, h]

theorem cratesAgree_crate {sh : Shape} {k : Option CrateFields} {c : Option CratePart} (h : cratesAgree sh k = some c) :
    k = c.map fun d => ⟨d.contentClass.val, d.capacity, d.bottleMin, d.bottleMax⟩ := by
  unfold cratesAgree at h
  split at h
  · split at h
    · cases h
    · cases h
      rfl
  · split at h
    · split at h
      · cases h
      · cases h
        exact congrArg some (cratePartOf_eq_some.mp ‹_›).1
    · cases h

/-- The tests of R35 that an entry has passed. -/
theorem articleOf_some {x : ArticleFields} {e : ArticleEntry} (h : articleOf x = some e) :
    index? 32 x.depositClass = some e.depositClass ∧ decodeName materials x.material = some e.material ∧
      decodeName shapes x.shape = some e.shape ∧ index? 8 x.line = some e.line ∧
      cratesAgree e.shape x.crate = some e.crate ∧ x.code ≠ 0 ∧ x.weightMin ≤ x.weightMax ∧
      (e.shape = .crate → x.refillable = true) ∧ e = ⟨x.code, e.depositClass, e.material, e.shape, x.weightMin.val,
        x.weightMax.val, e.line, x.active, x.markRequired, x.refillable, e.crate⟩ := by
  unfold articleOf at h
  split at h
  · split at h
    · cases h
    · split at h
      · cases h
      · rename_i hd hm hs hl _ _ hc hn
        simp only [not_or, not_and, not_lt, Bool.not_eq_false] at hn
        obtain ⟨h0, hw, hr⟩ := hn
        cases h
        exact ⟨hd, hm, hs, hl, hc, h0, hw, hr, rfl⟩
  · cases h

/-- An offered entry that passes the tests of R35 is valid. -/
theorem articleOf_isSome {x : ArticleFields} {d : ClassIx} {m : Material} {sh : Shape} {l : LineIx} {c : Option CratePart}
    (hd : index? 32 x.depositClass = some d) (hm : decodeName materials x.material = some m)
    (hs : decodeName shapes x.shape = some sh) (hl : index? 8 x.line = some l) (hc : cratesAgree sh x.crate = some c)
    (h0 : x.code ≠ 0) (hw : x.weightMin ≤ x.weightMax) (hr : sh = .crate → x.refillable = true) :
    ∃ e, articleOf x = some e := by
  simp only [articleOf, hd, hm, hs, hl, hc]
  exact ⟨_, if_neg fun k => k.elim h0 fun k => k.elim (not_lt.mpr hw) fun k => by simp [hr k.1] at k⟩

section Articles
variable {t : List ArticleEntry} {e x : ArticleEntry} {code : ArticleCode}

/-- Ascending order of code (R36). -/
def Ascending (t : List ArticleEntry) : Prop := t.Pairwise fun a b => a.code < b.code

theorem code_lt_of_not_lt {a b : ArticleCode} (h : ¬ a < b) (hn : b ≠ a) : b < a := by bv_omega

/-! ### The position of a code (R36) -/

theorem positionOf_nil (code : ArticleCode) : positionOf code [] = 0 := rfl

/-- A code no higher than the first entry's stands at position 0. -/
theorem positionOf_first (h : Ascending (e :: t)) (hc : code ≤ e.code) : positionOf code (e :: t) = 0 := by
  have none_lower : ∀ a ∈ e :: t, ¬ a.code < code := fun a ha => by
    obtain rfl | ha := List.mem_cons.mp ha
    · exact BitVec.not_lt.mpr hc
    · have := List.rel_of_pairwise_cons h ha
      bv_omega
  unfold positionOf
  rw [List.filter_eq_nil_iff.mpr fun a ha => by simpa using none_lower a ha]
  rfl

/-- Past a lower entry the position is one more than in the rest. -/
theorem positionOf_later (hc : e.code < code) : positionOf code (e :: t) = positionOf code t + 1 := by
  simp [positionOf, hc]

/-! ### Finding an entry (R40, R42) -/

theorem findArticle_isSome : (findArticle code t).isSome = true ↔ ∃ e ∈ t, e.code = code := by
  simp [findArticle, List.find?_isSome]

theorem findArticle_none (h : ∀ e ∈ t, e.code ≠ code) : findArticle code t = none := by
  simpa [findArticle] using h

/-- In a table in order an entry is the one found by its code. -/
theorem findArticle_mem (h : Ascending t) (he : e ∈ t) : findArticle e.code t = some e := by
  induction t with
  | nil => cases he
  | cons a t ih =>
    obtain ⟨first, rest⟩ := List.pairwise_cons.mp h
    obtain rfl | he := List.mem_cons.mp he
    · simp [findArticle]
    · have : a.code ≠ e.code := fun k => absurd (first e he) (by simp [k])
      rw [← ih rest he]
      simp [findArticle, this]

/-! ### Writing the table (R37 to R39) -/

/-- A new code is inserted at its position (R37). -/
theorem insertArticle_eq (h : Ascending t) (hn : ∀ a ∈ t, a.code ≠ x.code) :
    insertArticle x t = t.take (positionOf x.code t) ++ x :: t.drop (positionOf x.code t) := by
  induction t with
  | nil => rfl
  | cons a t ih =>
    by_cases hc : x.code < a.code
    · rw [positionOf_first h (BitVec.le_of_lt hc)]
      simp [insertArticle, hc]
    · have later := code_lt_of_not_lt hc (hn a (by simp))
      rw [positionOf_later later]
      simp [insertArticle, hc, ih (List.pairwise_cons.mp h).2 fun b hb => hn b (by simp [hb])]

/-- The entry of a known code is overwritten where it stands (R38). -/
theorem replaceArticle_eq (h : Ascending t) (hk : ∃ a ∈ t, a.code = x.code) :
    replaceArticle x t = t.set (positionOf x.code t) x := by
  induction t with
  | nil => simp at hk
  | cons a t ih =>
    obtain ⟨first, rest⟩ := List.pairwise_cons.mp h
    by_cases hc : a.code = x.code
    · have others : ∀ b ∈ t, b.code ≠ x.code := fun b hb k => absurd (first b hb) (by simp [k, hc])
      rw [positionOf_first h (by simp [hc])]
      simp only [replaceArticle, List.map_cons, hc, if_true, List.set_cons_zero]
      exact congrArg _ ((List.map_congr_left fun b hb => if_neg (others b hb)).trans (List.map_id' t))
    · obtain ⟨b, hb, hx⟩ := hk
      have hb : b ∈ t := (List.mem_cons.mp hb).resolve_left fun k => hc (k ▸ hx)
      rw [positionOf_later (hx ▸ first b hb)]
      simp only [List.set_cons_succ, ← ih rest ⟨b, hb, hx⟩]
      simp [replaceArticle, hc]

/-- The entry of a known code is removed where it stands (R39). -/
theorem deleteArticle_eq (h : Ascending t) (hk : ∃ a ∈ t, a.code = code) :
    deleteArticle code t = t.eraseIdx (positionOf code t) := by
  induction t with
  | nil => simp at hk
  | cons a t ih =>
    obtain ⟨first, rest⟩ := List.pairwise_cons.mp h
    by_cases hc : a.code = code
    · have others : ∀ b ∈ t, b.code ≠ code := fun b hb k => absurd (first b hb) (by simp [k, hc])
      rw [positionOf_first h (by simp [hc])]
      simpa [deleteArticle, hc] using others
    · obtain ⟨b, hb, hx⟩ := hk
      have hb : b ∈ t := (List.mem_cons.mp hb).resolve_left fun k => hc (k ▸ hx)
      rw [positionOf_later (hx ▸ first b hb)]
      simp only [List.eraseIdx_cons_succ, ← ih rest ⟨b, hb, hx⟩]
      simp [deleteArticle, hc]

/-! ### Order, codes and length after a write -/

theorem mem_insertArticle {a : ArticleEntry} : a ∈ insertArticle x t ↔ a = x ∨ a ∈ t := by
  induction t with
  | nil => simp [insertArticle]
  | cons b t ih =>
    unfold insertArticle
    split
    · simp
    · simp [ih, or_left_comm]

theorem length_insertArticle : (insertArticle x t).length = t.length + 1 := by
  induction t with
  | nil => rfl
  | cons b t ih =>
    unfold insertArticle
    split
    · rfl
    · simp [ih]

theorem ascending_insertArticle (h : Ascending t) (hn : ∀ a ∈ t, a.code ≠ x.code) : Ascending (insertArticle x t) := by
  induction t with
  | nil => exact List.pairwise_singleton _ _
  | cons b t ih =>
    obtain ⟨first, rest⟩ := List.pairwise_cons.mp h
    unfold insertArticle
    split
    · rename_i hc
      refine List.pairwise_cons.mpr ⟨fun a ha => ?_, h⟩
      obtain rfl | ha := List.mem_cons.mp ha
      · exact hc
      · exact BitVec.lt_trans hc (first a ha)
    · rename_i hc
      refine List.pairwise_cons.mpr ⟨fun a ha => ?_, ih rest fun c hb => hn c (by simp [hb])⟩
      obtain rfl | ha := mem_insertArticle.mp ha
      · exact code_lt_of_not_lt hc (hn b (by simp))
      · exact first a ha

theorem length_replaceArticle : (replaceArticle x t).length = t.length := List.length_map _

theorem length_deleteArticle (h : Ascending t) (hk : ∃ a ∈ t, a.code = code) :
    (deleteArticle code t).length = t.length - 1 := by
  obtain ⟨a, ha, hc⟩ := hk
  have lower : positionOf code t < t.length := by
    unfold positionOf
    refine List.length_filter_lt_length_iff_exists.mpr ⟨a, ha, by simp [hc]⟩
  rw [deleteArticle_eq h ⟨a, ha, hc⟩, List.length_eraseIdx_of_lt lower]

theorem code_replaced (x a : ArticleEntry) : (if a.code = x.code then x else a).code = a.code := by
  split
  · exact Eq.symm ‹_›
  · rfl

theorem ascending_replaceArticle (h : Ascending t) : Ascending (replaceArticle x t) := by
  refine List.pairwise_map.mpr (h.imp fun {a b} hab => ?_)
  rwa [code_replaced, code_replaced]

/-! ### The law of the table (R36) -/

variable {s : State}

/-- The law rests on the article table alone. -/
theorem ArticleLaw.same {u : State} (h : ArticleLaw s) (e : u.catalogue.articles = s.catalogue.articles) : ArticleLaw u := by
  unfold ArticleLaw
  rwa [e]

theorem articleLaw_articleInsert {y : ArticleFields} (h : ArticleLaw s) : ArticleLaw (articleInsert y s).state := by
  unfold articleInsert
  split
  · exact h
  · rename_i e he
    obtain ⟨order, codes, room⟩ := h
    dsimp only
    split
    · exact ⟨order, codes, room⟩
    · rename_i unknown
      split
      · exact ⟨order, codes, room⟩
      · rename_i free
        have new : ∀ a ∈ s.catalogue.articles, a.code ≠ e.code :=
          fun a ha k => unknown (findArticle_isSome.mpr ⟨a, ha, k⟩)
        refine ⟨ascending_insertArticle order new, fun a ha => ?_, ?_⟩
        · obtain rfl | ha := mem_insertArticle.mp ha
          · obtain ⟨-, -, -, -, -, h0, -, -, fields⟩ := articleOf_some he
            rw [fields]
            exact h0
          · exact codes a ha
        · show (insertArticle e s.catalogue.articles).length ≤ _
          rw [length_insertArticle]
          omega

theorem articleLaw_articleReplace {y : ArticleFields} (h : ArticleLaw s) : ArticleLaw (articleReplace y s).state := by
  unfold articleReplace
  split
  · exact h
  · rename_i e he
    dsimp only
    split
    · refine ⟨ascending_replaceArticle h.1, fun a ha => ?_, length_replaceArticle.trans_le h.2.2⟩
      obtain ⟨b, hb, rfl⟩ := List.mem_map.mp ha
      rw [code_replaced]
      exact h.2.1 b hb
    · exact h

theorem articleLaw_articleDelete (h : ArticleLaw s) : ArticleLaw (articleDelete code s).state := by
  unfold articleDelete
  split
  · exact h
  · dsimp only
    split
    · exact ⟨h.1.filter _, fun a ha => h.2.1 a (List.mem_filter.mp ha).1, (List.length_filter_le _ _).trans h.2.2⟩
    · exact h

end Articles

end Sys2Proof.Machine
end

section
/-! The catalogue's statements on its article table (R35 to R42): what the article operations answer, by their tests. -/

namespace Sys2Proof.Machine

section Requests
variable {s : State} {r : Requester}

theorem articleInsert_invalid {x : ArticleFields} (h : articleOf x = none) :
    articleInsert x s = ⟨.badValue, .article none none s.catalogue.articles.length, s⟩ := by
  simp [articleInsert, h, articleData]

theorem articleReplace_invalid {x : ArticleFields} (h : articleOf x = none) :
    articleReplace x s = ⟨.badValue, .article none none s.catalogue.articles.length, s⟩ := by
  simp [articleReplace, h, articleData]

/-- A request served at once whose owner leaves the ports and the slots alone: the owner's answer is the reply, at the tail of the
requester's queue (R172). -/
theorem manage_answers {owner : State → Answer} {st : Status} {d : ReplyData} {t : State} (h : ServesRequests s r.port)
    (e : owner s = ⟨st, d, t⟩) (hp : t.ports = s.ports) (hm : t.mgmt.slots = s.mgmt.slots) :
    manage r owner s = enqueue t r.port (.mgmtReply ⟨r.tag, st, d⟩) := by
  have port : t.port r.port = s.port r.port := by simp [State.port, hp]
  have answer : offerAnswer t r.port = .accepted := by
    rw [← offerAnswer_of_serves h]
    simp [offerAnswer, port]
  rw [manage_serves h (by rw [e]; exact congrArg (cell · r.port) hm) (by rw [e]; exact answer), e]

/-! ### The article operations by their tests (R37 to R41) -/

variable {x : ArticleFields} {e : ArticleEntry} {code : ArticleCode}

theorem articleInsert_known (hx : articleOf x = some e) (hk : ∃ a ∈ s.catalogue.articles, a.code = e.code) :
    articleInsert x s = ⟨.duplicate,
      .article (some (positionOf e.code s.catalogue.articles)) none s.catalogue.articles.length, s⟩ := by
  simp only [articleInsert, hx, findArticle_isSome.mpr hk, if_true]
  rfl

theorem articleInsert_full (hx : articleOf x = some e) (hk : ¬ ∃ a ∈ s.catalogue.articles, a.code = e.code)
    (hn : s.catalogue.articles.length = 16384) :
    articleInsert x s = ⟨.tableFull, .article none none s.catalogue.articles.length, s⟩ := by
  simp only [articleInsert, hx, mt findArticle_isSome.mp hk]
  exact if_pos hn.ge

theorem articleInsert_new (hx : articleOf x = some e) (hk : ¬ ∃ a ∈ s.catalogue.articles, a.code = e.code)
    (hn : s.catalogue.articles.length < 16384) (order : Ascending s.catalogue.articles) :
    articleInsert x s = ⟨.done,
      .article (some (positionOf e.code s.catalogue.articles)) none (s.catalogue.articles.length + 1),
      withArticles s (s.catalogue.articles.take (positionOf e.code s.catalogue.articles) ++
        e :: s.catalogue.articles.drop (positionOf e.code s.catalogue.articles))⟩ := by
  rw [← insertArticle_eq order fun a ha k => hk ⟨a, ha, k⟩, ← length_insertArticle (x := e)]
  simp only [articleInsert, hx, mt findArticle_isSome.mp hk]
  exact if_neg hn.not_ge

theorem articleReplace_known (hx : articleOf x = some e) (hk : ∃ a ∈ s.catalogue.articles, a.code = e.code)
    (order : Ascending s.catalogue.articles) :
    articleReplace x s = ⟨.done,
      .article (some (positionOf e.code s.catalogue.articles)) none s.catalogue.articles.length,
      withArticles s (s.catalogue.articles.set (positionOf e.code s.catalogue.articles) e)⟩ := by
  rw [← replaceArticle_eq order hk, ← length_replaceArticle (x := e)]
  simp only [articleReplace, hx, findArticle_isSome.mpr hk, if_true]
  rfl

theorem articleReplace_new (hx : articleOf x = some e) (hk : ¬ ∃ a ∈ s.catalogue.articles, a.code = e.code) :
    articleReplace x s = ⟨.notFound,
      .article (some (positionOf e.code s.catalogue.articles)) none s.catalogue.articles.length, s⟩ := by
  simp only [articleReplace, hx, mt findArticle_isSome.mp hk]
  rfl

theorem articleDelete_known (h0 : code ≠ 0) (hk : ∃ a ∈ s.catalogue.articles, a.code = code)
    (order : Ascending s.catalogue.articles) :
    articleDelete code s = ⟨.done,
      .article (some (positionOf code s.catalogue.articles)) none (s.catalogue.articles.length - 1),
      withArticles s (s.catalogue.articles.eraseIdx (positionOf code s.catalogue.articles))⟩ := by
  rw [← length_deleteArticle order hk, ← deleteArticle_eq order hk]
  simp only [articleDelete, if_neg h0, findArticle_isSome.mpr hk, if_true]
  rfl

theorem articleDelete_new (h0 : code ≠ 0) (hk : ¬ ∃ a ∈ s.catalogue.articles, a.code = code) :
    articleDelete code s = ⟨.notFound,
      .article (some (positionOf code s.catalogue.articles)) none s.catalogue.articles.length, s⟩ := by
  simp only [articleDelete, if_neg h0, mt findArticle_isSome.mp hk]
  rfl

theorem articleFind_known (law : ArticleLaw s) (he : e ∈ s.catalogue.articles) :
    articleFind e.code s = ⟨.done,
      .article (some (positionOf e.code s.catalogue.articles)) (some e) s.catalogue.articles.length, s⟩ := by
  simp only [articleFind, if_neg (law.2.1 e he), findArticle_mem law.1 he]
  rfl

theorem articleFind_new (h0 : code ≠ 0) (hk : ∀ a ∈ s.catalogue.articles, a.code ≠ code) :
    articleFind code s = ⟨.notFound,
      .article (some (positionOf code s.catalogue.articles)) none s.catalogue.articles.length, s⟩ := by
  simp only [articleFind, if_neg h0, findArticle_none hk]
  rfl

theorem articleRead_outside {i : Nat} (h : s.catalogue.articles.length ≤ i) :
    articleRead i s = ⟨.badIndex, .article none none s.catalogue.articles.length, s⟩ := by
  simp only [articleRead, List.getElem?_eq_none h]
  rfl

theorem articleRead_at {i : Nat} (h : i < s.catalogue.articles.length) :
    articleRead i s = ⟨.done, .article none (some s.catalogue.articles[i]) s.catalogue.articles.length, s⟩ := by
  simp only [articleRead, List.getElem?_eq_getElem h]
  rfl

theorem lookup_known (law : ArticleLaw s) (he : e ∈ s.catalogue.articles) : lookup s.catalogue e.code =
    .found ⟨e, positionOf e.code s.catalogue.articles, cell s.catalogue.allowances (materialIndex e.material),
      cell s.catalogue.classes e.depositClass, e.crate.map fun c => cell s.catalogue.classes c.contentClass⟩ := by
  simp only [lookup, if_neg (law.2.1 e he), findArticle_mem law.1 he]

theorem lookup_new (h0 : code ≠ 0) (hk : ∀ a ∈ s.catalogue.articles, a.code ≠ code) :
    lookup s.catalogue code = .notFound (positionOf code s.catalogue.articles) := by
  simp only [lookup, if_neg h0, findArticle_none hk]

end Requests

/-- Settles O20: each test of R35 by the field it judges, and the refusal of what fails one. -/
theorem articleEntriesAreJudged : Obligations.ArticleEntriesAreJudged := by
  intro x
  refine ⟨⟨?_, ?_⟩, fun e he => ?_, fun s r hs hx => ?_⟩
  · rintro ⟨e, he⟩
    obtain ⟨hd, hm, hs, hl, hc, h0, hw, hr, -⟩ := articleOf_some he
    obtain ⟨agree, parts⟩ := cratesAgree_isSome.mp ⟨_, hc⟩
    have hm := decodeName_isSome.mp ⟨_, hm⟩
    have hs' := decodeName_isSome.mp ⟨_, hs⟩
    rw [shape_crate hs] at agree hr
    exact ⟨h0, Nat.le_of_lt_succ (index?_lt hd), Nat.le_of_lt_succ hm, Nat.le_of_lt_succ hs', Nat.le_of_lt_succ (index?_lt hl),
      hw, agree, hr, fun k hk => cratePartOf_isSome.mp (parts k hk)⟩
  · rintro ⟨h0, hd, hm, hs, hl, hw, agree, hr, parts⟩
    obtain ⟨d, hd⟩ := index?_isSome.mpr (Nat.lt_succ_of_le hd)
    obtain ⟨m, hm⟩ := decodeName_isSome.mpr (show x.material < materials.length from Nat.lt_succ_of_le hm)
    obtain ⟨sh, hs⟩ := decodeName_isSome.mpr (show x.shape < shapes.length from Nat.lt_succ_of_le hs)
    obtain ⟨l, hl⟩ := index?_isSome.mpr (Nat.lt_succ_of_le hl)
    rw [← shape_crate hs] at agree hr
    obtain ⟨c, hc⟩ := cratesAgree_isSome.mpr ⟨agree, fun k hk => cratePartOf_isSome.mpr (parts k hk)⟩
    exact articleOf_isSome hd hm hs hl hc h0 hw hr
  · obtain ⟨hd, hm, hs, hl, hc, -, -, -, fields⟩ := articleOf_some he
    refine ⟨?_, (index?_eq_some.mp hd).symm, codeOf_decodeName (by decide) hm, codeOf_decodeName (by decide) hs,
      (index?_eq_some.mp hl).symm, ?_, ?_, ?_, ?_, ?_, ?_⟩
    case refine_7 =>
      rw [cratesAgree_crate hc, Option.map_map]
      rfl
    all_goals
      rw [fields]
  · exact ⟨congrArg Host.Outcome.next (manage_unchanged hs (articleInsert_invalid hx)),
      congrArg Host.Outcome.next (manage_unchanged hs (articleReplace_invalid hx))⟩

/-- Settles O21: each operation by whether its code is known, and the table it leaves by the position of the code. -/
theorem articlesAreEdited : Obligations.ArticlesAreEdited := by
  intro s r hs law old n k known table
  have writes : ∀ {c : Instr} {owner : State → Answer} {st : Status} {d : ReplyData} {l : List ArticleEntry},
      exec c s = .next (manage r owner s) → owner s = ⟨st, d, withArticles s l⟩ → Answers c r st d s (table l) :=
    fun hc e => hc.trans (congrArg Host.Outcome.next (manage_answers hs e rfl rfl))
  have keeps : ∀ {c : Instr} {owner : State → Answer} {st : Status} {d : ReplyData},
      exec c s = .next (manage r owner s) → owner s = ⟨st, d, s⟩ → Answers c r st d s s := writes
  exact ⟨fun x hx => ⟨keeps rfl (articleInsert_invalid hx), keeps rfl (articleReplace_invalid hx)⟩,
    fun x e hx => ⟨
      fun hk => ⟨keeps rfl (articleInsert_known hx hk), writes rfl (articleReplace_known hx hk law.1)⟩,
      fun hk => ⟨keeps rfl (articleReplace_new hx hk), fun full => keeps rfl (articleInsert_full hx hk full),
        fun free => writes rfl (articleInsert_new hx hk free law.1)⟩⟩,
    fun code => ⟨fun h0 => keeps rfl (if_pos h0), fun h0 hk => keeps rfl (articleDelete_new h0 hk),
      fun ⟨a, ha, hc⟩ => writes rfl (articleDelete_known (hc ▸ law.2.1 a ha) ⟨a, ha, hc⟩ law.1)⟩,
    writes rfl rfl⟩

/-- Settles O22: ARTICLE_FIND and the lookup by whether the code is known, ARTICLE_READ by the position. -/
theorem articlesAreFound : Obligations.ArticlesAreFound := by
  intro s r hs law table n k
  have reads : ∀ {c : Instr} {owner : State → Answer} {st : Status} {d : ReplyData},
      exec c s = .next (manage r owner s) → owner s = ⟨st, d, s⟩ → Answers c r st d s s :=
    fun hc e => hc.trans (congrArg Host.Outcome.next (manage_unchanged hs e))
  exact ⟨reads rfl rfl, rfl, fun e he => ⟨reads rfl (articleFind_known law he), lookup_known law he⟩,
    fun code h0 hk => ⟨reads rfl (articleFind_new h0 hk), lookup_new h0 hk⟩,
    fun i hi => reads rfl (articleRead_outside hi), fun i hi => reads rfl (articleRead_at hi)⟩

end Sys2Proof.Machine
end

section
/-! The tariff lock and the writes it protects (R45, R46, R49 to R53), and the writes of the other tables (R44, R90, R150, R166,
R168, R176): each request by its tests, one equation per case. -/

namespace Sys2Proof.Machine

section Writes
variable {s : State} {r : Requester}

/-! ### The protected tables and the lock (R45, R46, R49 to R53) -/

theorem classWrite_index {i : Nat} {d : Fin 65536} {k : Nat} (h : 32 ≤ i) : classWrite i d k s = answer .badIndex s := by
  simp only [classWrite, index?_none h]

theorem classWrite_scheme {i : ClassIx} {d : Fin 65536} {k : Nat} (h : 4 ≤ k) :
    classWrite i.val d k s = answer .badValue s := by
  simp only [classWrite, index?_val, index?_none h]

theorem classWrite_locked {i : ClassIx} {d : Fin 65536} {k : SchemeIx} (hl : s.catalogue.lock = .locked)
    (hc : cell s.catalogue.classes i ≠ ⟨d.val, k⟩) : classWrite i.val d k.val s = answer .locked s := by
  simp only [classWrite, index?_val]
  exact if_pos ⟨hl, hc⟩

theorem classWrite_written {i : ClassIx} {d : Fin 65536} {k : SchemeIx}
    (h : s.catalogue.lock = .opened ∨ cell s.catalogue.classes i = ⟨d.val, k⟩) :
    classWrite i.val d k.val s =
      answer .done { s with catalogue := { s.catalogue with classes := put s.catalogue.classes i ⟨d.val, k⟩ } } := by
  simp only [classWrite, index?_val]
  exact if_neg fun ⟨hl, hc⟩ => h.elim (fun h => by simp [h] at hl) hc

theorem schemeWrite_index {i v : Nat} (h : 4 ≤ i) : schemeWrite i v s = answer .badIndex s := by
  simp only [schemeWrite, index?_none h]

theorem clamp_rate (v : Nat) : clamp 0 250 v = min v 250 := by
  rw [clamp_eq 0 250 v (by decide)]
  omega

theorem schemeWrite_locked {i : SchemeIx} {v : Nat} (hl : s.catalogue.lock = .locked)
    (hc : cell s.catalogue.rates i ≠ min v 250) : schemeWrite i.val v s = answer .locked s := by
  simp only [schemeWrite, index?_val, clamp_rate]
  exact if_pos ⟨hl, hc⟩

theorem schemeWrite_written {i : SchemeIx} {v : Nat}
    (h : s.catalogue.lock = .opened ∨ cell s.catalogue.rates i = min v 250) :
    schemeWrite i.val v s = answer (if v ≤ 250 then .done else .doneClamped)
      { s with catalogue := { s.catalogue with rates := put s.catalogue.rates i (min v 250) } } := by
  simp only [schemeWrite, index?_val, clamp_rate]
  rw [if_neg fun ⟨hl, hc⟩ => h.elim (fun h => by simp [h] at hl) hc]
  congr 1
  by_cases hv : v ≤ 250
  · simp [clampStatus, hv]
  · simp [clampStatus, hv, Nat.lt_of_not_le hv]

theorem lockWrite_locked {c : Key} (h : s.catalogue.lock = .locked) : lockWrite 0 c s = answer .locked s := by
  simp [lockWrite, h]

theorem lockWrite_written {c : Key} (h : s.catalogue.lock = .opened) :
    lockWrite 0 c s = answer .done { s with catalogue := { s.catalogue with code := c } } := by
  simp [lockWrite, h]

theorem lockRead_opened (h : s.catalogue.lock = .opened) : lockRead 0 s = ⟨.done, .lock .opened s.catalogue.code, s⟩ := by
  simp [lockRead, h]

theorem lockRead_locked (h : s.catalogue.lock = .locked) (hk : s.catalogue.code ≠ BitVec.allOnes 128) :
    lockRead 0 s = ⟨.done, .lock .locked 0, s⟩ := by
  simp only [lockRead, h]
  exact if_neg hk

theorem lockRead_opens (h : s.catalogue.lock = .locked) (hk : s.catalogue.code = BitVec.allOnes 128) :
    lockRead 0 s = ⟨.done, .lock .opened 0, withLock s .opened⟩ := by
  simp only [lockRead, h]
  exact if_pos hk

theorem unlock_opens (h : s.catalogue.code ≠ 0) : unlock s.catalogue.code s = answer .done (withLock s .opened) :=
  if_pos ⟨rfl, h⟩

theorem unlock_fails {c : Key} (h : c ≠ s.catalogue.code ∨ s.catalogue.code = 0) :
    unlock c s = answer .refused ((withLock s .locked).request .unlockFailed) :=
  if_neg fun ⟨hc, h0⟩ => h.elim (· hc) h0

/-! ### The material, pitch and timer tables (R44, R90, R176) -/

theorem materialWrite_index {i v : Nat} (h : 6 ≤ i) : materialWrite i v s = answer .badIndex s := by
  simp only [materialWrite, index?_none h]

theorem materialWrite_value {i : Fin 6} {v : Nat} (h : 2000 < v) : materialWrite i.val v s = answer .badValue s := by
  simp only [materialWrite, index?_val, if_pos h]

theorem materialWrite_written {i : Fin 6} {v : Nat} (h : v ≤ 2000) : materialWrite i.val v s =
    answer .done { s with catalogue := { s.catalogue with allowances := put s.catalogue.allowances i v } } := by
  simp only [materialWrite, index?_val, if_neg h.not_gt]

theorem pitchWrite_index {i v : Nat} (h : 5 ≤ i) : pitchWrite i v s = answer .badIndex s := by
  simp only [pitchWrite, index?_none h]

theorem pitchWrite_value {i : Fin 5} {v : Nat} (h : v = 0 ∨ 15 < v) : pitchWrite i.val v s = answer .badValue s := by
  simp only [pitchWrite, index?_val, if_pos h]

theorem pitchWrite_written {i : Fin 5} {v : Nat} (h1 : 1 ≤ v) (h2 : v ≤ 15) : pitchWrite i.val v s =
    answer .done { s with lines := { s.lines with pitches := put s.lines.pitches i v } } := by
  simp only [pitchWrite, index?_val]
  exact if_neg (by omega)

theorem timerWrite_index {i v : Nat} (h : 4 ≤ i) : timerWrite i v s = answer .badIndex s := by
  simp only [timerWrite, index?_none h]

/-- A write with clamping is DONE when the value was in range (R175). -/
theorem clampStatus_ne (w v : Nat) : clampStatus (w != v) = if w = v then .done else .doneClamped := by
  by_cases h : w = v <;> simp [clampStatus, h]

/-- A timer write with the value its index leaves of it (R176). -/
theorem timerWrite_written {i : Fin 4} {v w : Nat} (h : clampTimer i v = w) : timerWrite i.val v s =
    answer (if w = v then .done else .doneClamped)
      { s with mgmt := { s.mgmt with timers := setTimerValue s.mgmt.timers i w } } := by
  subst h
  simp only [timerWrite, index?_val, clampStatus_ne]

theorem clampTimer_gateAck (v : Nat) : clampTimer 0 v = max 10 (min 2000 v) := clamp_eq _ _ v (by decide)

theorem clampTimer_handover (v : Nat) : clampTimer 1 v = max 200 (min 10000 v) := clamp_eq _ _ v (by decide)

theorem clampTimer_reply (v : Nat) : clampTimer 2 v = max 500 (min 30000 v) := clamp_eq _ _ v (by decide)

theorem clampTimer_idle (v : Nat) : clampTimer 3 v = if v = 0 then 0 else max 10 (min 600 v) := by
  rw [← clamp_eq 10 600 v (by decide)]
  rfl

/-! ### Dispositions (R150) -/

theorem decodeFlag_toNat (f : Bool) : decodeFlag f.toNat = some f := by cases f <;> rfl

theorem decodeFlag_outside {n : Nat} (h : 1 < n) : decodeFlag n = none := by
  unfold decodeFlag
  rw [if_neg (by omega), if_neg (by omega)]

theorem dispositionWrite_index {i : Nat} {x : DispositionFields} (h : 32 ≤ i) :
    dispositionWrite i x s = answer .badIndex s := by
  simp only [dispositionWrite, index?_none h]

/-- A field outside its set is refused (R150, log entry 21). -/
theorem dispositionOf_invalid {x : DispositionFields} (h : 2 < x.action ∨ 7 < x.keepLine ∨ 1 < x.cls ∨ 1 < x.report) :
    dispositionOf x = none := by
  unfold dispositionOf
  split
  · rename_i ha hl hc hr
    have := decodeName_lt ha
    have := index?_lt hl
    have := decodeName_lt hc
    obtain h | h | h | h := h
    · simp [actions] at *
      omega
    · omega
    · simp [faultClasses] at *
      omega
    · cases (decodeFlag_outside h).symm.trans hr
  · rfl

theorem dispositionOf_valid {x : DispositionFields} {a : Action} {c : FaultClass} {f : Bool} {l : LineIx}
    (ha : actions[x.action]? = some a) (hl : x.keepLine = l.val) (hc : faultClasses[x.cls]? = some c)
    (hr : x.report = f.toNat) : dispositionOf x = some ⟨a, l, c, f⟩ := by
  simp only [dispositionOf, decodeName, ha, hl, hc, hr, index?_val, decodeFlag_toNat]

theorem dispositionWrite_value {i : FaultNo} {x : DispositionFields} (h : dispositionOf x = none) :
    dispositionWrite i.val x s = answer .badValue s := by
  simp only [dispositionWrite, index?_val, h]

theorem dispositionWrite_written {i : FaultNo} {x : DispositionFields} {d : Disposition} (h : dispositionOf x = some d) :
    dispositionWrite i.val x s = answer .done { s with faults := { s.faults with
      dispositions := put s.faults.dispositions i (writtenDisposition i (cell s.faults.dispositions i) d) } } := by
  simp only [dispositionWrite, index?_val, h]

/-! ### Output entries and the mask (R166, R168) -/

theorem outputFunctionOf_eq (f o : Nat) : outputFunctionOf f o =
    if f = 0 then some .manual
    else if f = 1 then (if h : o < 8 then some (.lineOpen ⟨o, h⟩) else none)
    else if f = 2 then (if h : o < 12 then some (.intakeReady ⟨o, h⟩) else none)
    else if f = 3 then some .anyCondition else none := by
  unfold outputFunctionOf
  split
  · rfl
  · by_cases h : o < 8 <;> simp [index?, h]
  · by_cases h : o < 12 <;> simp [index?, h]
  · rfl
  · rename_i h0 h1 h2 h3
    rw [if_neg h0, if_neg h1, if_neg h2, if_neg h3]

/-- A list of two values is named by 0 and by 1 (R20). -/
theorem decodeName_pair {α : Type} (a b : α) (n : Nat) :
    decodeName [a, b] n = if 1 < n then none else some (if n = 0 then a else b) := by
  match n with
  | 0 => rfl
  | 1 => rfl
  | n + 2 => simp [decodeName]

theorem outputEntryOf_eq (x : OutputFields) : outputEntryOf x = if 1 < x.polarity ∨ 1 < x.manual then none
    else (outputFunctionOf x.function x.operand).map fun f =>
      ⟨f, if x.polarity = 0 then .activeHigh else .activeLow, decide (x.manual = 0)⟩ := by
  unfold outputEntryOf polarities manualValues
  rw [decodeName_pair, decodeName_pair]
  by_cases hp : 1 < x.polarity
  · simp [hp]
  · by_cases hm : 1 < x.manual
    · simp [hm]
    · cases outputFunctionOf x.function x.operand <;> simp [hp, hm]

theorem outputWrite_index {i : Nat} {x : OutputFields} (h : 8 ≤ i) : outputWrite i x s = answer .badIndex s := by
  simp only [outputWrite, index?_none h]

theorem outputWrite_value {i : OutIx} {x : OutputFields} (h : outputEntryOf x = none) :
    outputWrite i.val x s = answer .badValue s := by
  simp only [outputWrite, index?_val, h]

theorem outputWrite_written {i : OutIx} {x : OutputFields} {e : OutputEntry} (h : outputEntryOf x = some e) :
    outputWrite i.val x s = answer .done (evalOutputs { s with cond := { s.cond with outputs := put s.cond.outputs i e } }) := by
  simp only [outputWrite, index?_val, h]

theorem evalOutputs_ports : (evalOutputs s).ports = s.ports := by
  unfold evalOutputs
  split <;> rfl

theorem evalOutputs_mgmt : (evalOutputs s).mgmt = s.mgmt := by
  unfold evalOutputs
  split <;> rfl

end Writes

/-- Settles O23: each write and the lock's own requests by their tests in order. -/
theorem theLockProtectsTariffs : Obligations.TheLockProtectsTariffs := by
  intro s r hs lock key with_
  have keeps : ∀ {c : Instr} {owner : State → Answer} {st : Status} {d : ReplyData},
      exec c s = .next (manage r owner s) → owner s = ⟨st, d, s⟩ → Answers c r st d s s :=
    fun hc e => hc.trans (congrArg Host.Outcome.next (manage_unchanged hs e))
  have writes : ∀ {c : Instr} {owner : State → Answer} {st : Status} {d : ReplyData} {k : Catalogue},
      exec c s = .next (manage r owner s) → owner s = ⟨st, d, { s with catalogue := k }⟩ → Answers c r st d s (with_ k) :=
    fun hc e => hc.trans (congrArg Host.Outcome.next (manage_answers hs e rfl rfl))
  exact ⟨fun i d k h => keeps rfl (classWrite_index h), fun i d k h => keeps rfl (classWrite_scheme h),
    fun i d k => ⟨fun hl hc => keeps rfl (classWrite_locked hl hc), fun h => writes rfl (classWrite_written h)⟩,
    fun i v h => keeps rfl (schemeWrite_index h),
    fun i v => ⟨fun hl hc => keeps rfl (schemeWrite_locked hl hc), fun h => writes rfl (schemeWrite_written h)⟩,
    fun i c h => ⟨keeps rfl (if_pos h), keeps rfl (if_pos h)⟩,
    fun c => ⟨fun h => keeps rfl (lockWrite_locked h), fun h => writes rfl (lockWrite_written h)⟩,
    fun h => keeps rfl (lockRead_opened h), fun h hk => keeps rfl (lockRead_locked h hk),
    fun h hk => writes rfl (lockRead_opens h hk), fun h => writes rfl (unlock_opens h),
    fun c h => congrArg Host.Outcome.next (manage_answers hs (unlock_fails h) rfl rfl), writes rfl rfl⟩

/-- Settles O24: each table's write by its index, then its value. -/
theorem tableEntriesAreWritten : Obligations.TableEntriesAreWritten := by
  intro s r hs
  have keeps : ∀ {c : Instr} {owner : State → Answer} {st : Status} {d : ReplyData},
      exec c s = .next (manage r owner s) → owner s = ⟨st, d, s⟩ → Answers c r st d s s :=
    fun hc e => hc.trans (congrArg Host.Outcome.next (manage_unchanged hs e))
  have writes : ∀ {c : Instr} {owner : State → Answer} {st : Status} {t : State}, t.ports = s.ports →
      t.mgmt.slots = s.mgmt.slots → exec c s = .next (manage r owner s) → owner s = answer st t → Answers c r st .none s t :=
    fun hp hm hc e => hc.trans (congrArg Host.Outcome.next (manage_answers hs e hp hm))
  have evaluates : ∀ {c : Instr} {owner : State → Answer} {st : Status} {u : ConditionUnit},
      exec c s = .next (manage r owner s) → owner s = answer st (evalOutputs { s with cond := u }) →
      Answers c r st .none s (evalOutputs { s with cond := u }) :=
    writes evalOutputs_ports (congrArg ManagementUnit.slots evalOutputs_mgmt)
  refine ⟨fun i v h => keeps rfl (materialWrite_index h),
    fun i v => ⟨fun h => keeps rfl (materialWrite_value h), fun h => writes rfl rfl rfl (materialWrite_written h)⟩,
    fun i v h => keeps rfl (pitchWrite_index h),
    fun i v => ⟨fun h => keeps rfl (pitchWrite_value h), fun h1 h2 => writes rfl rfl rfl (pitchWrite_written h1 h2)⟩,
    fun i v h => keeps rfl (timerWrite_index h),
    fun v => writes rfl rfl rfl (timerWrite_written (clampTimer_gateAck v)),
    fun v => writes rfl rfl rfl (timerWrite_written (clampTimer_handover v)),
    fun v => writes rfl rfl rfl (timerWrite_written (clampTimer_reply v)),
    fun v => writes rfl rfl rfl (timerWrite_written (clampTimer_idle v)),
    fun i x h => keeps rfl (dispositionWrite_index h),
    fun i x h => keeps rfl (dispositionWrite_value (dispositionOf_invalid h)),
    fun i x a c f h ha hc hf =>
      writes rfl rfl rfl (dispositionWrite_written (dispositionOf_valid (l := ⟨x.keepLine, h⟩) ha rfl hc hf)),
    fun i x h => keeps rfl (outputWrite_index h), fun x => ?_, fun i x h => keeps rfl (outputWrite_value h),
    fun i x e h => evaluates rfl (outputWrite_written h), fun i b h => keeps rfl (if_pos h), fun b => evaluates rfl rfl⟩
  rw [outputEntryOf_eq, outputFunctionOf_eq]

end Sys2Proof.Machine
end

section
/-! The port entries over the operations of the links and of the dispatcher: nothing but a write of a port entry changes one
(R1, R2). -/

namespace Sys2Proof.Machine

section Entries
variable {s : State} {p q : Port} {f : RxFrame}

/-! ### The head of a receive queue (R12, R28, R29) -/

theorem entry_takeCount : ((takeCount p s).port q).entry = (s.port q).entry := by
  unfold takeCount
  rw [entry_returnCredit, entry_setPort (by rfl)]

theorem entry_reoffer : ((reoffer p s).port q).entry = (s.port q).entry := by
  unfold reoffer
  split
  · exact entry_offerPass
  · exact entry_offerUndeliverable
  · rfl

/-! ### Link states (R4, R5, R10, R16) -/

theorem entry_departure : ((departure p s).port q).entry = (s.port q).entry := by
  unfold departure
  rw [State.port, ports_departureReports]
  exact entry_endHolds

/-- A port that moves to another link state keeps its entry. -/
theorem entry_moveLink {enter : LinkPort → LinkPort} (h : ∀ l, (enter l).entry = l.entry) :
    ((moveLink p enter s).port q).entry = (s.port q).entry := by
  unfold moveLink
  dsimp only
  split
  · exact entry_departure.trans (entry_setPort (h _))
  · exact entry_setPort (h _)

theorem entry_enterDown (l : LinkPort) : (enterDown l).entry = l.entry := by
  unfold enterDown
  split <;> rfl

theorem entry_enterFaulted (l : LinkPort) : (enterFaulted l).entry = l.entry := rfl

theorem entry_addError : ((addError p s).port q).entry = (s.port q).entry := by
  unfold addError
  dsimp only
  split
  · rw [entry_moveLink entry_enterFaulted, request_port, entry_setPort (by rfl)]
  · rw [entry_setPort (by rfl)]

theorem entry_goodFrame : ((goodFrame p s).port q).entry = (s.port q).entry := entry_setPort (countGood_entry _)

/-! ### Frames received (R5, R6, R9, R11, R13) -/

theorem entry_takeAnnounced {a : Announced} : ((takeAnnounced p a s).port q).entry = (s.port q).entry := by
  have coded : (((goodFrame p s).setPort p { (goodFrame p s).port p with stationCode := a.station }).port q).entry =
      (s.port q).entry := (entry_setPort (by rfl)).trans entry_goodFrame
  unfold takeAnnounced roleMismatch
  dsimp only
  split
  · rw [entry_moveLink entry_enterFaulted, request_port, coded]
  · split
    · exact ((calm_restartReports (.refl _)).entry q).trans ((entry_setPort (by rfl)).trans coded)
    · exact ((calm_arrivalReports (.refl _)).entry q).trans ((entry_setPort (by rfl)).trans coded)

theorem entry_takeAnnounce : ((takeAnnounce p f s).port q).entry = (s.port q).entry := by
  by_cases h : (s.port p).link = .training ∨ (s.port p).link = .up
  · cases ha : announceOf f with
    | none => rw [takeAnnounce_invalid h ha, entry_addError]
    | some a => rw [takeAnnounce_valid h ha, entry_takeAnnounced]
  · rw [takeAnnounce_dead (fun k => h (.inl k)) fun k => h (.inr k)]

theorem entry_overrun : ((overrun p s).port q).entry = (s.port q).entry := entry_addError

theorem entry_useGrant : ((useGrant p s).port q).entry = (s.port q).entry := entry_setPort rfl

theorem entry_takeGrant : ((takeGrant p s).port q).entry = (s.port q).entry := by
  unfold takeGrant
  split
  · exact entry_takeCount
  · rfl

theorem entry_creditFrame : ((creditFrame p f s).port q).entry = (s.port q).entry := by
  unfold creditFrame
  split
  · split
    · exact entry_overrun
    · unfold takeCredit
      dsimp only
      split
      · rw [entry_takeGrant, entry_addError, entry_useGrant]
      · rw [entry_takeGrant, entry_setPort (by rfl), entry_goodFrame, entry_useGrant]
  · exact entry_goodFrame
  all_goals rfl

theorem entry_checkFailed {b : List Byte} : ((checkFailed p b s).port q).entry = (s.port q).entry := by
  unfold checkFailed
  rw [entry_addError]
  split <;> rfl

theorem entry_queueFrame : ((queueFrame p f s).port q).entry = (s.port q).entry := by
  unfold queueFrame
  dsimp only
  rw [entry_setPort (by rfl), entry_goodFrame, entry_useGrant]

theorem entry_receiveUp : ((receiveUp p f s).port q).entry = (s.port q).entry := by
  unfold receiveUp
  split
  · exact entry_takeAnnounce
  · split
    · exact entry_creditFrame
    · split
      · exact entry_overrun
      · exact entry_queueFrame

theorem entry_frameArrival {b : List Byte} : ((frameArrival p b s).port q).entry = (s.port q).entry := by
  unfold frameArrival
  split
  · split
    · unfold failUp
      split
      · exact entry_overrun
      · rw [entry_takeGrant, entry_checkFailed, entry_useGrant]
    · exact entry_receiveUp
  · split
    · exact entry_checkFailed
    · split
      · exact entry_takeAnnounce
      · exact entry_goodFrame
  all_goals rfl

theorem entry_signalDetect : ((signalDetect p s).port q).entry = (s.port q).entry := by
  unfold signalDetect
  refine entry_setPort ?_
  split <;> rfl

theorem entry_signalLoss : ((signalLoss p s).port q).entry = (s.port q).entry := by
  unfold signalLoss
  dsimp only
  split
  case h_1 | h_2 | h_3 => exact (entry_moveLink entry_enterDown).trans (entry_setPort rfl)
  all_goals exact entry_setPort rfl

theorem entry_frameTransmit : ((frameTransmit p s).port q).entry = (s.port q).entry := by
  unfold frameTransmit
  dsimp only
  split
  · split
    · rfl
    · refine ((calm_notifyPlace (.refl _)).entry q).trans ?_
      split <;> exact entry_setPort rfl
  · rfl

/-! ### The dispatcher (R24 to R31, R172) -/

theorem entry_refuse {c : Condition} : ((refuse p c s).port q).entry = (s.port q).entry := entry_dropHead

theorem entry_decidePass : ((decidePass p f s).port q).entry = (s.port q).entry := by
  unfold decidePass
  split
  · split
    · exact entry_refuse
    · exact entry_offerPass
  · split
    · exact entry_offerPass
    · exact entry_refuse

theorem entry_takeRequest : ((takeRequest p f s).port q).entry = (s.port q).entry := by
  unfold takeRequest
  split
  · dsimp only
    split
    · exact ((calm_placeReply (.refl _)).entry q).trans entry_dropHead
    · exact entry_dropHead
  · rfl

theorem entry_handOver {k : Kind} : ((handOver p k f s).port q).entry = (s.port q).entry := by
  unfold handOver
  split
  · split
    · exact entry_refuse
    · exact entry_takeRequest
  · split
    · exact entry_refuse
    · exact entry_dropHead

theorem entry_decideFrame : ((decideFrame p f s).port q).entry = (s.port q).entry := by
  unfold decideFrame
  split
  · exact entry_refuse
  · split
    · exact entry_refuse
    · split
      · exact entry_decidePass
      · split
        · exact entry_refuse
        · split
          · exact entry_handOver
          · exact entry_refuse

theorem entry_dispatchFrame : ((dispatchFrame p s).port q).entry = (s.port q).entry := by
  unfold dispatchFrame
  split
  · exact entry_decideFrame
  · rfl

theorem entry_passFrame : ((passFrame p s).port q).entry = (s.port q).entry := by
  unfold passFrame
  split
  · split
    · exact entry_decidePass
    · rfl
  · exact entry_reoffer

theorem entry_placeFree {o : Owner} : ((placeFree p o s).port q).entry = (s.port q).entry := by
  cases o with
  | dispatcher r =>
    unfold placeFree
    dsimp only
    split
    · exact entry_reoffer
    · rfl
  | management => exact (calm_offerReplies (.refl s)).entry q
  | admission => exact (calm_offerOutbound (.refl s)).entry q
  | transit => exact (calm_offerTransit (.refl s)).entry q
  | tally => exact (calm_offerOwedTally (.refl s)).entry q
  | counter => exact (calm_sendOwed (.refl s)).entry q
  | voucherReports => exact (calm_offerVoucherReports (.refl s)).entry q
  | faultReports => exact (calm_offerFaultReports (.refl s)).entry q

/-! ### Port writes and controls (R2, R3, R8) -/

theorem entry_moveForWrite {a b : PortEntry} : ((moveForWrite p a b s).port q).entry = (s.port q).entry := by
  unfold moveForWrite
  split
  · exact entry_moveLink fun _ => rfl
  · split
    · exact entry_moveLink entry_enterDown
    · rfl

/-- A port write changes the entry of its port, and no other (R2). -/
theorem entry_applyEntry {e : PortEntry} :
    ((applyEntry p e s).port q).entry = if q = p then e else (s.port q).entry := by
  have written : ((s.setPort p { s.port p with entry := e }).port q).entry = if q = p then e else (s.port q).entry := by
    rw [setPort_port]
    split <;> rfl
  have moved : ((changeRole p (s.port p).entry.role e.role
      (moveForWrite p (s.port p).entry e (s.setPort p { s.port p with entry := e }))).port q).entry =
      if q = p then e else (s.port q).entry :=
    ((calm_changeRole (.refl _)).entry q).trans (entry_moveForWrite.trans written)
  unfold applyEntry
  dsimp only
  split
  · exact moved
  · exact ((calm_retryClose (.refl _)).entry q).trans moved

theorem entry_portReset {n : Nat} : ((portReset n s).state.port q).entry = (s.port q).entry := by
  unfold portReset
  split
  · rfl
  · show ((resetPort _ s).port q).entry = _
    unfold resetPort
    dsimp only
    split
    · exact entry_moveLink fun _ => rfl
    all_goals exact entry_moveLink fun l => entry_enterDown (clearScore l)

end Entries

end Sys2Proof.Machine
end

section
/-! What a command leaves of the article table, the transit entries, the voucher queues and the values the tariff lock protects
(R36, R49, R102, R139, R140), and which commands make a posting (R113, R114). -/

namespace Sys2Proof.Machine

/-- Every credit limit lies in its range (R1). -/
def LimitsInRange (s : State) : Prop := ∀ p, 1 ≤ (s.port p).entry.creditLimit ∧ (s.port p).entry.creditLimit ≤ 999999

/-- What an operation keeps that leaves the catalogue and the credit limits alone and makes no posting. -/
structure Tame (s t : State) : Prop where
  catalogue : t.catalogue = s.catalogue
  limits    : ∀ p, (t.port p).entry.creditLimit = (s.port p).entry.creditLimit
  vouchers  : VoucherLaw s → VoucherLaw t
  transit   : TransitLaw s → TransitLaw t
  posts     : ∀ m ∈ t.mail, isPosting m = true → m ∈ s.mail

/-- The laws every command keeps. -/
structure LawsKept (s t : State) : Prop where
  articles : ArticleLaw s → ArticleLaw t
  vouchers : VoucherLaw s → VoucherLaw t
  transit  : TransitLaw s → TransitLaw t
  range    : LimitsInRange s → LimitsInRange t

/-- What every command keeps but the two of a power-on reset, and DROPPED with its posting. -/
structure Kept (s t : State) : Prop extends LawsKept s t where
  tariffs : s.catalogue.lock = .locked → protectedValues t = protectedValues s
  limits  : s.catalogue.lock = .locked → LimitsInRange s →
    ∀ p, (t.port p).entry.creditLimit = (s.port p).entry.creditLimit
  posts   : ∀ m ∈ t.mail, isPosting m = true → m ∈ s.mail

section Tame
variable {s t u : State} {p : Port}

/-! ### Operations that leave the catalogue alone -/

theorem Tame.refl (s : State) : Tame s s := ⟨rfl, fun _ => rfl, id, id, fun _ h _ => h⟩

theorem Tame.trans (a : Tame s t) (b : Tame t u) : Tame s u where
  catalogue := b.catalogue.trans a.catalogue
  limits p := (b.limits p).trans (a.limits p)
  vouchers h := b.vouchers (a.vouchers h)
  transit h := b.transit (a.transit h)
  posts m h k := a.posts m (b.posts m h k) k

theorem posts_of_filter (h : t.mail.filter isPosting = s.mail.filter isPosting) :
    ∀ m ∈ t.mail, isPosting m = true → m ∈ s.mail := fun m hm hp =>
  (List.mem_filter.mp (h ▸ List.mem_filter.mpr ⟨hm, hp⟩ : m ∈ s.mail.filter isPosting)).1

theorem Steady.tame (h : Steady s t) (limits : ∀ q, (t.port q).entry.creditLimit = (s.port q).entry.creditLimit) :
    Tame s t := ⟨h.catalogue, limits, h.vouchers, h.transit, posts_of_filter h.posts⟩

/-- An operation of the links leaves the credit limits with the port entries. -/
theorem Steady.tame_of_entries (h : Steady s t) (entries : ∀ {q}, (t.port q).entry = (s.port q).entry) : Tame s t :=
  h.tame fun _ => congrArg _ entries

theorem Quiet.tame (h : Quiet s t) : Tame s t :=
  ⟨h.catalogue, fun q => congrArg (·.entry.creditLimit) (h.account q), h.vouchers, h.transit, posts_of_filter h.posts⟩

theorem Calm.tame (h : Calm s t) : Tame s t := h.quiet.tame

/-- An operation on a credit that it carries does with any credit what it does with one that has its split: it never looks at
the split. -/
theorem tame_of_credit {k : ContainerCredit} (h : ∀ {s0}, (MoneyLaw s0 → CreditLaw k) → Calm s0 s → Calm s0 t) :
    Tame s t := by
  let s0 : State := { s with mail := .containerRecord 0 0 ⟨0, 0, ⟨0, false, k⟩⟩ :: s.mail }
  have split : MoneyLaw s0 → CreditLaw k := fun ⟨_, _, _, mail, _⟩ => mail _ List.mem_cons_self
  have less : MoneyLaw s0 → MoneyLaw s := fun ⟨sessions, contexts, entries, mail, pending⟩ =>
    ⟨sessions, contexts, entries, fun m hm => mail m (List.mem_cons_of_mem _ hm), pending⟩
  have calm : Calm s0 t := h split ⟨rfl, rfl, rfl, fun _ => rfl, id, rfl, id, id, less, fun m => ⟨m, .refl _⟩⟩
  exact ⟨calm.catalogue, calm.tame.limits, calm.vouchers, calm.transit, posts_of_filter (s := s) calm.posts⟩

/-! ### From there to what a command keeps -/

theorem Kept.refl (s : State) : Kept s s := ⟨⟨id, id, id, id⟩, fun _ => rfl, fun _ _ _ => rfl, fun _ h _ => h⟩

theorem LawsKept.tame (a : LawsKept s t) (b : Tame t u) : LawsKept s u where
  articles h := (a.articles h).same (congrArg _ b.catalogue)
  vouchers h := b.vouchers (a.vouchers h)
  transit h := b.transit (a.transit h)
  range h p := (b.limits p).symm ▸ a.range h p

theorem Kept.tame (a : Kept s t) (b : Tame t u) : Kept s u where
  toLawsKept := a.toLawsKept.tame b
  tariffs h := by
    rw [← a.tariffs h]
    simp only [protectedValues, b.catalogue]
  limits h r p := (b.limits p).trans (a.limits h r p)
  posts m h k := a.posts m (b.posts m h k) k

theorem Tame.kept (h : Tame s t) : Kept s t := (Kept.refl s).tame h

/-- A write of the catalogue that keeps the article table in order, and while the lock is LOCKED what it protects. -/
theorem kept_catalogue {c : Catalogue} (articles : ArticleLaw s → ArticleLaw { s with catalogue := c })
    (tariffs : s.catalogue.lock = .locked → protectedValues { s with catalogue := c } = protectedValues s) :
    Kept s { s with catalogue := c } :=
  ⟨⟨articles, id, id, id⟩, tariffs, fun _ _ _ => rfl, fun _ h _ => h⟩

/-- A management request keeps what its owner keeps: its reply is tame (R172). -/
theorem kept_manage {r : Requester} {f : State → Answer} (h : Kept s (f s).state) : Kept s (manage r f s) := by
  unfold manage
  split
  · exact h.tame (calm_placeReply (.refl _)).tame
  · exact .refl s

/-! ### Postings, container records and drops (R104, R113, R114, R123) -/

theorem tame_takePostingEvent {g : Posting} : Tame s (takePostingEvent g s) :=
  tame_of_credit fun split h => calm_takePostingEvent split h

theorem tame_takeRecord {tag : Tag} {g : Gen} {r : ContainerRecord} : Tame s (takeRecord tag g r s) :=
  tame_of_credit fun split h => calm_takeRecord split h

/-- A drop keeps what a tame operation keeps, but for the one posting it makes. -/
theorem tame_dropped {q : Byte} : ∃ mail, Tame { s with mail := mail } (dropped p q s) := by
  unfold dropped
  split
  · exact ⟨s.mail, (calm_request (.refl s)).tame⟩
  · rename_i tag found
    split
    · exact ⟨s.mail, (calm_request (.refl s)).tame⟩
    · rename_i use _
      have sent : (s.entry tag).state = .releaseSent := by
        have matched := List.find?_some found
        simp only [releasedBy, Bool.and_eq_true, beq_iff_eq] at matched
        exact matched.1
      refine ⟨(takeDrop tag (s.entry tag) use (s.entry tag).container s).mail, rfl, fun _ => rfl, id, fun law v => ?_,
        fun _ h _ => h⟩
      by_cases hv : v = tag
      · subst hv
        refine (setEntry_entry_self s v _).symm ▸ EntryLaw.same (law v) ?_ rfl fun _ => .inl sent
        have old : (s.entry v).state ≠ .free := by
          rw [sent]
          nofun
        exact ⟨nofun, fun k => absurd k old⟩
      · exact (setEntry_entry_ne s _ hv).symm ▸ law v

/-! ### Reads and writes of the catalogue (R35 to R53) -/

theorem kept_withLock {x : LockState} : Kept s (withLock s x) := kept_catalogue id fun _ => rfl

theorem kept_lockRead {n : Nat} : Kept s (lockRead n s).state := by
  unfold lockRead
  split
  · exact .refl s
  · split
    · exact .refl s
    · split
      · exact kept_withLock
      · exact .refl s

theorem kept_readEntry {n i : Nat} : Kept s (readEntry n i s).state := by
  unfold readEntry
  split
  case h_13 => exact kept_lockRead
  case h_14 => exact .refl s
  all_goals
    rw [readAt_state]
    exact .refl s

theorem kept_materialWrite {i v : Nat} : Kept s (materialWrite i v s).state := by
  unfold materialWrite
  split
  · exact .refl s
  · split
    · exact .refl s
    · exact kept_catalogue id fun _ => rfl

/-- A tariff class is written while the lock is open, or with the value it has (R49). -/
theorem kept_classWrite {i k : Nat} {d : Fin 65536} : Kept s (classWrite i d k s).state := by
  unfold classWrite
  split
  · exact .refl s
  · split
    · exact .refl s
    · split
      · exact .refl s
      · rename_i hw
        refine kept_catalogue id fun hl => ?_
        have same := not_not.mp fun h => hw ⟨hl, h⟩
        simp only [protectedValues]
        rw [← same, put_cell]

/-- A bonus rate is written while the lock is open, or with the value it has (R49). -/
theorem kept_schemeWrite {i v : Nat} : Kept s (schemeWrite i v s).state := by
  unfold schemeWrite
  split
  · exact .refl s
  · split
    · exact .refl s
    · rename_i hw
      refine kept_catalogue id fun hl => ?_
      have same := not_not.mp fun h => hw ⟨hl, h⟩
      simp only [protectedValues]
      rw [← same, put_cell]

theorem kept_lockWrite {i : Nat} {k : Key} : Kept s (lockWrite i k s).state := by
  unfold lockWrite
  split
  · exact .refl s
  · split
    · exact .refl s
    · rename_i hl
      exact kept_catalogue id fun h => by simp [h] at hl

theorem kept_unlock {k : Key} : Kept s (unlock k s).state := by
  unfold unlock
  split
  · exact kept_withLock
  · exact kept_withLock.tame (calm_request (.refl _)).tame

theorem kept_articleInsert {x : ArticleFields} : Kept s (articleInsert x s).state := by
  have law : ArticleLaw s → ArticleLaw (articleInsert x s).state := articleLaw_articleInsert
  revert law
  unfold articleInsert
  split
  · exact fun _ => .refl s
  · dsimp only
    split
    · exact fun _ => .refl s
    · split
      · exact fun _ => .refl s
      · exact fun law => kept_catalogue law fun _ => rfl

theorem kept_articleReplace {x : ArticleFields} : Kept s (articleReplace x s).state := by
  have law : ArticleLaw s → ArticleLaw (articleReplace x s).state := articleLaw_articleReplace
  revert law
  unfold articleReplace
  split
  · exact fun _ => .refl s
  · dsimp only
    split
    · exact fun law => kept_catalogue law fun _ => rfl
    · exact fun _ => .refl s

theorem kept_articleDelete {k : ArticleCode} : Kept s (articleDelete k s).state := by
  have law : ArticleLaw s → ArticleLaw (articleDelete k s).state := articleLaw_articleDelete
  revert law
  unfold articleDelete
  split
  · exact fun _ => .refl s
  · dsimp only
    split
    · exact fun law => kept_catalogue law fun _ => rfl
    · exact fun _ => .refl s

theorem kept_articleClear : Kept s (articleClear s).state :=
  kept_catalogue (fun _ => ⟨.nil, nofun, Nat.zero_le _⟩) fun _ => rfl

theorem kept_articleFind {k : ArticleCode} : Kept s (articleFind k s).state := by
  unfold articleFind
  split
  · exact .refl s
  · dsimp only
    split
    · exact .refl s
    · exact .refl s

theorem kept_articleRead {n : Nat} : Kept s (articleRead n s).state := by
  unfold articleRead
  split
  · exact .refl s
  · exact .refl s

end Tame

end Sys2Proof.Machine
end

section
/-! Every command, and every step, keeps the laws of the article table, the transit entries and the voucher queues, and the
credit limits in their range; while the tariff lock is LOCKED what it protects stands (R36, R49, R102, R106, R139, R140). -/

namespace Sys2Proof.Machine

section Commands
variable {s t : State} {p : Port}

theorem Tame.calm {u : State} (a : Tame s t) (b : Calm t u) : Tame s u := a.trans b.tame

theorem Tame.request {c : Condition} (h : Tame s t) : Tame s (t.request c) := h.calm (calm_request (.refl t))

theorem Tame.setSlot {x : ControllerSlot} (h : Tame s t) : Tame s (t.setSlot p x) := h.calm (calm_setSlot (.refl t))

/-! ### Port entries (R2, R3, R156) -/

/-- A port entry written with the credit limit that stands. -/
theorem tame_applyEntry {e : PortEntry} (h : e.creditLimit = (s.port p).entry.creditLimit) : Tame s (applyEntry p e s) :=
  (steady_applyEntry (.refl s)).tame fun q => by
    rw [entry_applyEntry]
    split
    · rename_i hq
      rw [hq, h]
    · rfl

theorem tame_shutdownReport {x : CtxState} {r : Option StopReason} : Tame s (shutdownReport p x r s) := by
  have off : Tame s (applyEntry p { (s.port p).entry with enabled := false } s) := tame_applyEntry rfl
  unfold shutdownReport
  split
  · exact off.request
  · exact .refl s

theorem tame_stateReport {x : CtxState} {r : Option StopReason} {q : Option Byte} : Tame s (stateReport p x r q s) := by
  have told : Tame s (tallyReport p x s) := (calm_tallyReport (.refl s)).tame
  refine .trans (.trans told ?_) (calm_evalOutputs (calm_cond (.refl _))).tame
  unfold faultReportState
  split
  · exact .refl _
  · exact .trans (calm_lockReport (calm_setFaultContext (.refl _))).tame tame_shutdownReport

theorem clamp_range {lo hi n : Nat} (h : lo ≤ hi) : lo ≤ clamp lo hi n ∧ clamp lo hi n ≤ hi := by
  rw [clamp_eq lo hi n h]
  omega

theorem creditLimit_portEntryOf {x : PortFields} {e : PortEntry} (h : portEntryOf x = some e) :
    e.creditLimit = clamp 1 999999 x.creditLimit := by
  unfold portEntryOf at h
  split at h
  · cases h
    rfl
  · cases h

/-- A port entry is written with a credit limit in its range, and with the one that stands while the lock is LOCKED (R2,
R49). -/
theorem kept_portWrite {i : Nat} {x : PortFields} : Kept s (portWrite i x s).state := by
  unfold portWrite
  split
  · exact .refl s
  · rename_i q _
    split
    · exact .refl s
    · rename_i e he
      split
      · exact .refl s
      · split
        · exact .refl s
        · rename_i hl
          have limit : e.creditLimit = clamp 1 999999 x.creditLimit := creditLimit_portEntryOf he
          have steady : Steady s (applyEntry q e s) := steady_applyEntry (.refl s)
          refine ⟨⟨fun h => h.same (congrArg _ steady.catalogue), steady.vouchers, steady.transit, fun h r => ?_⟩,
            fun _ => by simp only [protectedValues, answer_state, steady.catalogue], fun locked range r => ?_,
            posts_of_filter steady.posts⟩
          · rw [answer_state, entry_applyEntry]
            split
            · exact limit ▸ clamp_range (by decide)
            · exact h r
          · have offered : x.creditLimit = (s.port q).entry.creditLimit := not_not.mp fun h => hl ⟨locked, h⟩
            have stands : e.creditLimit = (s.port q).entry.creditLimit := by
              have := range q
              rw [limit, offered, clamp_eq _ _ _ (by decide)]
              omega
            exact (tame_applyEntry stands).limits r

theorem kept_adminWrite {i : Nat} {b : Bool} : Kept s (adminWrite i b s).state := by
  unfold adminWrite
  split
  · exact .refl s
  · exact kept_portWrite

theorem tame_portReset {n : Nat} : Tame s (portReset n s).state :=
  (steady_portReset (.refl s)).tame_of_entries entry_portReset

/-! ### The other tables (R82, R88, R90, R91, R150, R163, R166, R168, R176) -/

theorem tame_timerWrite {i v : Nat} : Tame s (timerWrite i v s).state := by
  unfold timerWrite
  split
  · exact .refl s
  · exact (calm_mgmt (.refl s)).tame

theorem tame_pitchWrite {i v : Nat} : Tame s (pitchWrite i v s).state := by
  unfold pitchWrite
  split
  · exact .refl s
  · split
    · exact .refl s
    · exact (quiet_lines (quiet_refl s)).tame

theorem tame_lineWrite {i : Nat} {x : LineFields} : Tame s (lineWrite i x s).state := by
  unfold lineWrite
  split
  · exact .refl s
  · split
    · exact .refl s
    · split
      · exact .refl s
      · exact (quiet_applyLine (quiet_refl s)).tame

theorem tame_lineControl {i : Nat} {b : Bool} : Tame s (lineControl i b s).state := by
  unfold lineControl
  split
  · exact .refl s
  · exact (quiet_rederive (quiet_setLine (quiet_refl s))).tame

theorem tame_segmentWrite {i v : Nat} : Tame s (segmentWrite i v s).state := by
  unfold segmentWrite
  split
  · exact .refl s
  · exact (quiet_walk (quiet_lines (quiet_refl s))).tame

theorem tame_dispositionWrite {i : Nat} {x : DispositionFields} : Tame s (dispositionWrite i x s).state := by
  unfold dispositionWrite
  split
  · exact .refl s
  · split
    · exact .refl s
    · exact (calm_faults (.refl s)).tame

theorem tame_senseWrite {i : Nat} {x : SenseFields} : Tame s (senseWrite i x s).state := by
  unfold senseWrite
  split
  · exact .refl s
  · split
    · exact .refl s
    · rename_i k _ _ e _
      show Tame s (applySense k e s)
      unfold applySense
      split
      · exact (calm_cond (.refl s)).tame
      · exact (calm_evalOutputs (calm_setInput (calm_cond (calm_releaseInput (.refl s))))).tame

theorem tame_outputWrite {i : Nat} {x : OutputFields} : Tame s (outputWrite i x s).state := by
  unfold outputWrite
  split
  · exact .refl s
  · split
    · exact .refl s
    · exact (calm_evalOutputs (calm_cond (.refl s))).tame

theorem tame_maskWrite {i : Nat} {b : BitVec 24} : Tame s (maskWrite i b s).state := by
  unfold maskWrite
  split
  · exact .refl s
  · exact (calm_evalOutputs (calm_cond (.refl s))).tame

/-! ### SOFT_RESET (R179) and the saves of the store (R182) -/

theorem tame_softAdmission : Tame s (softAdmission s) := (calm_foldl calm_resetContext (calm_roomStop (.refl s))).tame

theorem tame_softLines : Tame s (softLines s) := .trans (quiet_lines (quiet_refl s)).tame calm_reportLines.tame

/-- Every transit entry is left FREE (R120). -/
theorem tame_softTransit : Tame s (softTransit s) :=
  ⟨rfl, fun _ => rfl, id, fun _ v => by
    have free : (softTransit s).entry v = Entry.free (s.entry v).gen := cell_mapCells _ _ v
    exact free ▸ entryLaw_free _, fun _ h _ => h⟩

theorem tame_softTally : Tame s (softTally s) := ⟨rfl, fun _ => rfl, id, id, fun _ h _ => h⟩

theorem tame_softFaults : Tame s (softFaults s) := (calm_faults (.refl s)).tame

theorem tame_softConditions : Tame s (softConditions s) := by
  have filtered : Tame s { s with mail := s.mail.filter fun m => !isLatchReport m } :=
    ⟨rfl, fun _ => rfl, id, id, fun _ h _ => (List.mem_filter.mp h).1⟩
  unfold softConditions startInputs
  exact filtered.trans (calm_evalOutputs (calm_withConditions (calm_cond (.refl _)))).tame

theorem kept_softReset : Kept s (softReset s) :=
  (((((kept_withLock.tame tame_softAdmission).tame tame_softLines).tame tame_softTransit).tame tame_softTally).tame
    tame_softFaults).tame tame_softConditions

theorem kept_softResetRequest : Kept s (softResetRequest s).state := by
  unfold softResetRequest
  split
  · exact .refl s
  · rw [answer_state]
    exact kept_softReset

theorem tame_withStore {m : ConfigStore} : Tame s (withStore s m) := ⟨rfl, fun _ => rfl, id, id, fun _ h _ => h⟩

theorem tame_withSave {v : Option Save} : Tame s (withSave s v) := (calm_mgmt (.refl s)).tame

theorem tame_beginSave {r : Requester} : Tame s (beginSave r s) := by
  unfold beginSave
  exact (tame_withStore.trans tame_withSave).setSlot

theorem tame_storeSave {r : Requester} : Tame s (storeSave r s) := by
  unfold storeSave
  split
  · exact .refl s
  · split
    · exact (calm_placeReply (.refl s)).tame
    · split
      · exact (calm_placeReply (calm_request (.refl s))).tame
      · exact tame_beginSave

theorem tame_endSave {v : Save} {b : Bool} : Tame s (endSave v b s) := by
  unfold endSave
  split
  · exact .trans (calm_mgmt (.refl s)).tame calm_oweReply.tame
  · exact .trans (calm_request (calm_mgmt (.refl s))).tame calm_oweReply.tame

theorem tame_storeSaveDone {x : SaveEnd} : Tame s (storeSaveDone x s) := by
  unfold storeSaveDone
  split
  · exact .refl s
  · split
    · exact tame_endSave
    · dsimp only
      split
      · exact tame_withStore
      · exact .trans tame_withStore tame_endSave
    · exact .trans tame_withStore tame_endSave

/-! ### The power-on reset and its store read (R181) -/

theorem lawsKept_powerOnReset : LawsKept s (powerOnReset s) :=
  ⟨fun _ => articleLaw_reset, fun _ => voucherLaw_reset, fun _ => transitLaw_reset, fun _ p => by
    have limit : ((powerOnReset s).port p).entry.creditLimit = 100000 := by
      simp only [State.port, powerOnReset, cell_perPort]
      rfl
    omega⟩

theorem creditLimit_limitRole {v : Vector PortEntry 12} : (limitRole v p).creditLimit = (cell v p).creditLimit := by
  unfold limitRole
  dsimp only
  split
  · rfl
  · rfl

theorem creditLimit_limitRoles {v : Vector PortEntry 12} : (cell (limitRoles v) p).creditLimit = (cell v p).creditLimit := by
  have each : ∀ q, (cell (tabulate 12 (limitRole v)) q).creditLimit = (cell v q).creditLimit := fun q => by
    rw [cell_tabulate, creditLimit_limitRole]
  unfold limitRoles
  dsimp only
  split
  · exact each p
  · rw [cell_put]
    split
    · rename_i hp
      rw [hp]
      exact each 0
    · exact each p

/-- A read loads credit limits in their range (R181). -/
theorem limits_tablesRead (m : ConfigStore) :
    1 ≤ (cell (tablesRead m).ports p).creditLimit ∧ (cell (tablesRead m).ports p).creditLimit ≤ 999999 := by
  cases h : validImage m with
  | true =>
    rw [tablesRead_valid h, creditLimit_limitRoles]
    exact (cell_tabulate 12 (fun q => loadPort (m.body.take 724) (10 * q.val) (.default q)) p).symm ▸
      clamp_range (by decide)
  | false =>
    rw [tablesRead_invalid h]
    have limit : (cell Image.default.ports p).creditLimit = 100000 := congrArg _ (cell_perPort PortEntry.default p)
    omega

/-- A voucher unit made for a port that holds COUNTER has an empty queue (R140). -/
theorem voucherLaw_tablesStarted (i : Image) (s : State) : VoucherLaw (tablesStarted i s) := fun p u h => by
  have made := (cell_whenRole (s := s) (i := i) (p := p) .counter
    ({ state := .offline, queue := [], replyTimer := none, sendOwed := false } : CounterUnit)).symm.trans h
  split at made
  · cases made
    exact ⟨Nat.zero_le _, nofun, nofun⟩
  · cases made

theorem lawsKept_completeRead : LawsKept s (completeRead s) := by
  obtain ⟨high, read⟩ := completeRead_eq_tablesStarted s
  rw [read]
  refine ⟨id, fun _ => voucherLaw_tablesStarted _ s, id, fun _ p => ?_⟩
  have entry : ((tablesStarted (tablesRead s.store) s).port p).entry = cell (tablesRead s.store).ports p := by
    rw [port_tablesStarted, entry_startPort]
  show _ ≤ ((tablesStarted (tablesRead s.store) s).port p).entry.creditLimit ∧
    ((tablesStarted (tablesRead s.store) s).port p).entry.creditLimit ≤ _
  rw [entry]
  exact limits_tablesRead _

theorem posts_completeRead : ∀ m ∈ (completeRead s).mail, isPosting m = true → m ∈ s.mail := by
  obtain ⟨high, read⟩ := completeRead_eq_tablesStarted s
  rw [read]
  intro m hm hp
  obtain hm | hm := List.mem_append.mp hm
  · obtain hm | hm := List.mem_append.mp hm
    · exact hm
    · obtain ⟨l, -, rfl⟩ := List.mem_map.mp hm
      cases hp
  · split at hm
    · cases hm
    · obtain rfl := List.mem_singleton.mp hm
      cases hp

theorem lawsKept_storeReadDone {m : Option ConfigStore} : LawsKept s (storeReadDone m s) := by
  unfold storeReadDone
  split
  · split
    · exact lawsKept_completeRead
    · rename_i fitted
      have read := lawsKept_completeRead (s := { s with store := fitted })
      exact ⟨read.articles, read.vouchers, read.transit, read.range⟩
  · exact (Kept.refl s).toLawsKept

theorem posts_storeReadDone {m : Option ConfigStore} : ∀ x ∈ (storeReadDone m s).mail, isPosting x = true → x ∈ s.mail := by
  unfold storeReadDone
  split
  · split
    · exact posts_completeRead
    · exact posts_completeRead (s := { s with store := _ })
  · exact fun _ h _ => h

end Commands

end Sys2Proof.Machine
end

section
/-! The case analysis over the commands, and the two statements it settles. -/

namespace Sys2Proof.Machine

section Commands
variable {s t : State}

theorem kept_of_next {u : State} (h : Kept s u) (e : (.next u : Host.Outcome State Fault Refusal) = .next t) :
    Kept s t := by
  cases e
  exact h

theorem kept_of_tame {u : State} (h : Tame s u) (e : (.next u : Host.Outcome State Fault Refusal) = .next t) :
    Kept s t := kept_of_next h.kept e

theorem kept_of_calm {u : State} (h : Calm s u) (e : (.next u : Host.Outcome State Fault Refusal) = .next t) :
    Kept s t := kept_of_tame h.tame e

/-- An operation of the links (R2 to R17) keeps every port entry. -/
theorem kept_of_steady {u : State} (h : Steady s u) (entries : ∀ {q}, (u.port q).entry = (s.port q).entry)
    (e : (.next u : Host.Outcome State Fault Refusal) = .next t) : Kept s t := kept_of_tame (h.tame_of_entries entries) e

theorem kept_of_manage {r : Requester} {f : State → Answer} (h : Kept s (f s).state)
    (e : (.next (manage r f s) : Host.Outcome State Fault Refusal) = .next t) : Kept s t :=
  kept_of_next (kept_manage h) e

theorem kept_of_tameManage {r : Requester} {f : State → Answer} (h : Tame s (f s).state)
    (e : (.next (manage r f s) : Host.Outcome State Fault Refusal) = .next t) : Kept s t := kept_of_manage h.kept e

/-- Every command but the two of a power-on reset and DROPPED keeps the laws, what the tariff lock protects, and makes no
posting. -/
theorem kept_exec {i : Instr} (reset : i ≠ .powerOnReset) (read : ∀ m, i ≠ .storeReadDone m)
    (drop : ∀ p q, i ≠ .dropped p q) (e : exec i s = .next t) : Kept s t := by
  have rfl' : Calm s s := .refl s
  have still : Steady s s := .refl s
  cases i with
  | powerOnReset => exact absurd rfl reset
  | storeReadDone m => exact absurd rfl (read m)
  | signalDetect p => exact kept_of_steady (steady_signalDetect still) entry_signalDetect e
  | signalLoss p => exact kept_of_steady (steady_signalLoss still) entry_signalLoss e
  | frameArrival p b => exact kept_of_steady (steady_frameArrival still) entry_frameArrival e
  | announce p f => exact kept_of_steady (steady_takeAnnounce still) entry_takeAnnounce e
  | credit p f => exact kept_of_steady (steady_creditFrame still) entry_creditFrame e
  | frameTransmit p => exact kept_of_steady (steady_frameTransmit still) entry_frameTransmit e
  | placeFree p o => exact kept_of_steady (steady_placeFree still) entry_placeFree e
  | frameDispatch p => exact kept_of_steady (steady_dispatchFrame still) entry_dispatchFrame e
  | pass p => exact kept_of_steady (steady_passFrame still) entry_passFrame e
  | sighting p x => exact kept_of_calm (calm_sighting rfl') e
  | faultOutcome p n o => exact kept_of_calm (calm_applyOutcome rfl') e
  | withdrawn p q => exact kept_of_calm (calm_withdrawn rfl') e
  | returned p q => exact kept_of_calm (calm_returned rfl') e
  | dropped p q => exact absurd rfl (drop p q)
  | present p => exact kept_of_calm (calm_restartIdle rfl') e
  | finish p =>
    refine kept_of_calm ?_ e
    split
    · exact rfl'
    · exact calm_applyFinish ‹_› rfl'
  | headFault p n c => exact kept_of_calm (calm_headFault rfl') e
  | gateAck p g n k r => exact kept_of_calm (calm_gateAck rfl') e
  | passage p g n k => exact kept_of_calm (calm_passage rfl') e
  | arrival p g n => exact kept_of_calm (calm_arrival rfl') e
  | fill p n => exact kept_of_calm (calm_fill rfl') e
  | voucherDone p n r => exact kept_of_calm (calm_voucherDone rfl') e
  | holdTimerExpiry p => exact kept_of_calm (calm_holdExpiry rfl') e
  | handoverTimerExpiry p => exact kept_of_calm (calm_handoverExpiry rfl') e
  | gateAckTimerExpiry g => exact kept_of_calm (calm_gateAckExpiry rfl') e
  | transitTimerExpiry g => exact kept_of_calm (calm_transitExpiry rfl') e
  | idleTimerExpiry p => exact kept_of_calm (calm_idleExpiry rfl') e
  | replyTimerExpiry p => exact kept_of_calm (calm_replyExpiry rfl') e
  | senseAssert n => exact kept_of_calm calm_senseAssert e
  | senseRelease n => exact kept_of_calm calm_senseRelease e
  | debounceTimerExpiry n => exact kept_of_calm calm_debounceExpiry e
  | claim c => exact kept_of_calm (calm_takeClaim rfl') e
  | containerRecord g n r => exact kept_of_tame tame_takeRecord e
  | grantNotice p q g n l k => exact kept_of_calm (calm_grantNotice rfl') e
  | reselectionNotice p q l k => exact kept_of_calm (calm_reselectionNotice rfl') e
  | removalRequest p => exact kept_of_calm (calm_removeEntry rfl') e
  | releaseNotice g n l k q => exact kept_of_calm (calm_release rfl') e
  | cancelRequest g n => exact kept_of_calm (calm_cancelRequest rfl') e
  | freeRequest g n => exact kept_of_calm (calm_freeRequest rfl') e
  | gatesSetReport p g n => exact kept_of_calm (calm_gatesSet rfl') e
  | gateFault p k g n b => exact kept_of_calm (calm_gateFault rfl') e
  | dropReport p g n => exact kept_of_calm (calm_dropReport rfl') e
  | posting x => exact kept_of_tame tame_takePostingEvent e
  | dropNote p g q c => exact kept_of_calm (calm_dropNote rfl') e
  | stateReport p x r q => exact kept_of_tame tame_stateReport e
  | returnRequest p => exact kept_of_calm (calm_returnRequest rfl') e
  | returnAnswer p b x => exact kept_of_calm (calm_returnAnswer rfl') e
  | closeCompleted p => exact kept_of_calm (calm_closeCompleted rfl') e
  | roomStopReport b => exact kept_of_calm (calm_roomStopReport rfl') e
  | binFullReport l b => exact kept_of_calm (calm_withCauses rfl') e
  | flagClear p => exact kept_of_calm (calm_clearFlag rfl') e
  | transitFault k g n p q => exact kept_of_calm (calm_transitFault rfl') e
  | voucherRequest x =>
    have made : Calm s (createVoucher x s).2 := calm_createVoucher rfl'
    exact kept_of_calm (calm_vouchers
      (x := { (createVoucher x s).2.vouchers with answer := some (createVoucher x s).1 }) rfl made) e
  | voucherPlaceFreed p => exact kept_of_calm (calm_placeFreed rfl') e
  | intakeDeparture p => exact kept_of_calm (calm_intakeDeparture rfl') e
  | intakeArrival p b => exact kept_of_calm (calm_intakeArrival rfl') e
  | portEventReport p => exact kept_of_calm (calm_portEvent rfl') e
  | sorterDownReport p => exact kept_of_calm (calm_foldl calm_sorterDownEntry rfl') e
  | counterPortReport p b => exact kept_of_calm (calm_counterPortReport rfl') e
  | conditionRequest c => exact kept_of_calm (calm_setCondition rfl') e
  | lineStateReport l x => exact kept_of_calm (calm_evalOutputs (calm_cond rfl')) e
  | readEntry r k i => exact kept_of_manage kept_readEntry e
  | lockRecordRead r i => exact kept_of_manage kept_lockRead e
  | portWrite r i x => exact kept_of_manage kept_portWrite e
  | timerWrite r i v => exact kept_of_tameManage tame_timerWrite e
  | materialWrite r i v => exact kept_of_manage kept_materialWrite e
  | pitchWrite r i v => exact kept_of_tameManage tame_pitchWrite e
  | classWrite r i d k => exact kept_of_manage kept_classWrite e
  | schemeWrite r i v => exact kept_of_manage kept_schemeWrite e
  | lineWrite r i x => exact kept_of_tameManage tame_lineWrite e
  | segmentWrite r i v => exact kept_of_tameManage tame_segmentWrite e
  | dispositionWrite r i x => exact kept_of_tameManage tame_dispositionWrite e
  | senseWrite r i x => exact kept_of_tameManage tame_senseWrite e
  | outputWrite r i x => exact kept_of_tameManage tame_outputWrite e
  | maskWrite r i b => exact kept_of_tameManage tame_maskWrite e
  | lockRecordWrite r i k => exact kept_of_manage kept_lockWrite e
  | articleInsert r x => exact kept_of_manage kept_articleInsert e
  | articleReplace r x => exact kept_of_manage kept_articleReplace e
  | articleDelete r k => exact kept_of_manage kept_articleDelete e
  | articleFind r k => exact kept_of_manage kept_articleFind e
  | articleRead r n => exact kept_of_manage kept_articleRead e
  | articleClear r => exact kept_of_manage kept_articleClear e
  | unlock r k => exact kept_of_manage kept_unlock e
  | relock r => exact kept_of_manage (f := relock) kept_withLock e
  | clearConditions r b => exact kept_of_tameManage (f := clearConditions b) (Calm.tame (calm_clearNamed rfl')) e
  | clearSense r b => exact kept_of_tameManage (f := clearSense b) (Calm.tame (calm_releaseInputs rfl')) e
  | intakeResume r n =>
    exact kept_of_tameManage (Calm.tame (calm_intakeControl (fun _ _ => calm_resumeContext rfl') rfl')) e
  | intakeStopControl r n =>
    exact kept_of_tameManage (Calm.tame (calm_intakeControl (fun _ _ => calm_stopControl rfl') rfl')) e
  | clearFault r n => exact kept_of_tameManage (Calm.tame (calm_intakeControl (fun _ _ => calm_clearFlag rfl') rfl')) e
  | portEnable r n => exact kept_of_manage kept_adminWrite e
  | portDisable r n => exact kept_of_manage kept_adminWrite e
  | portReset r n => exact kept_of_tameManage tame_portReset e
  | lineEnable r n => exact kept_of_tameManage tame_lineControl e
  | lineDisable r n => exact kept_of_tameManage tame_lineControl e
  | counterResume r n => exact kept_of_tameManage (Calm.tame calm_counterResume) e
  | readState r k i n => exact kept_of_manage (readState_state.symm ▸ .refl s) e
  | softReset r => exact kept_of_manage kept_softResetRequest e
  | storeSave r => exact kept_of_tame tame_storeSave e
  | storeSaveDone x => exact kept_of_tame tame_storeSaveDone e

/-- DROPPED keeps all but that it makes one posting (R113, R114). -/
theorem kept_dropped {p : Port} {q : Byte} : ∃ mail, Kept { s with mail := mail } (dropped p q s) := by
  obtain ⟨mail, tame⟩ := tame_dropped (s := s) (p := p) (q := q)
  exact ⟨mail, tame.kept⟩

/-- Every command keeps the laws. -/
theorem lawsKept_exec {i : Instr} (e : exec i s = .next t) : LawsKept s t := by
  by_cases reset : i = .powerOnReset
  · subst reset
    cases e
    exact lawsKept_powerOnReset
  by_cases read : ∃ m, i = .storeReadDone m
  · obtain ⟨m, rfl⟩ := read
    cases e
    exact lawsKept_storeReadDone
  by_cases drop : ∃ p q, i = .dropped p q
  · obtain ⟨p, q, rfl⟩ := drop
    cases e
    obtain ⟨mail, kept⟩ := kept_dropped (s := s) (p := p) (q := q)
    exact ⟨kept.articles, kept.vouchers, kept.transit, kept.range⟩
  · exact (kept_exec reset (not_exists.mp read) (fun p q h => drop ⟨p, q, h⟩) e).toLawsKept

/-- Every command but DROPPED makes no posting. -/
theorem posts_exec {i : Instr} (drop : ∀ p q, i ≠ .dropped p q) (e : exec i s = .next t) :
    ∀ m ∈ t.mail, isPosting m = true → m ∈ s.mail := by
  by_cases reset : i = .powerOnReset
  · subst reset
    cases e
    exact fun m hm => nomatch hm
  by_cases read : ∃ m, i = .storeReadDone m
  · obtain ⟨m, rfl⟩ := read
    cases e
    exact posts_storeReadDone
  · exact (kept_exec reset (not_exists.mp read) drop e).posts

/-- Every command but the two of a power-on reset keeps what the tariff lock protects while it is LOCKED (R49). -/
theorem tariffs_exec {i : Instr} (reset : i ≠ .powerOnReset) (read : ∀ m, i ≠ .storeReadDone m) (e : exec i s = .next t)
    (locked : s.catalogue.lock = .locked) : protectedValues t = protectedValues s ∧
      (LimitsInRange s → ∀ p, (t.port p).entry.creditLimit = (s.port p).entry.creditLimit) := by
  by_cases drop : ∃ p q, i = .dropped p q
  · obtain ⟨p, q, rfl⟩ := drop
    cases e
    obtain ⟨mail, kept⟩ := kept_dropped (s := s) (p := p) (q := q)
    exact ⟨kept.tariffs locked, kept.limits locked⟩
  · have kept := kept_exec reset read (fun p q h => drop ⟨p, q, h⟩) e
    exact ⟨kept.tariffs locked, kept.limits locked⟩

/-! ### Steps -/

/-- A tick moves timers alone (R177). -/
theorem lawsKept_tick : LawsKept s (tick s) where
  articles := id
  vouchers law p u h := by
    rw [tick_unit] at h
    obtain ⟨v, hv, rfl⟩ := Option.map_eq_some_iff.mp h
    exact law p v hv
  transit law g := (tick_entry s g).symm ▸ EntryLaw.same (law g) Iff.rfl rfl id
  range := id

theorem lawsKept_step (e : step s = .next t) : LawsKept s t := by
  unfold step at e
  split at e
  · have kept := lawsKept_exec e
    exact ⟨kept.articles, kept.vouchers, kept.transit, kept.range⟩
  · split at e
    · have kept := lawsKept_exec e
      exact ⟨kept.articles, kept.vouchers, kept.transit, kept.range⟩
    · split at e
      · exact lawsKept_exec e
      · cases e
        exact lawsKept_tick

end Commands

/-- Settles O55: every command keeps the laws (lawsKept_exec), and so does a tick. -/
theorem stepsKeepTheTables : Obligations.StepsKeepTheTables :=
  ⟨fun _ _ e => ⟨(lawsKept_step e).transit, (lawsKept_step e).vouchers⟩, fun _ _ law e => (lawsKept_step e).articles law⟩

/-- Settles O58: the case analysis of kept_exec, with DROPPED and the two commands of a power-on reset apart. -/
theorem lockedTariffsStand : Obligations.LockedTariffsStand := fun _ _ _ e =>
  ⟨fun locked reset read => tariffs_exec reset read e locked, (lawsKept_exec e).range, fun drop => posts_exec drop e⟩

end Sys2Proof.Machine
end

section
/-! SOFT_RESET (R179): what each block is left with, block by block, and what a SOFT_RESET tells. -/

namespace Sys2Proof.Machine

/-- A port at a soft reset: INTAKE_STOP START joins its queue when it has a context, is UP and has a place (R80). -/
def stoppedPort (s : State) (p : Port) : LinkPort :=
  let l := s.port p
  { l with tx := if s.context p ≠ none ∧ l.link = .up ∧ l.tx.length < 16 then l.tx ++ [.intake (.stop .start)] else l.tx }

/-- A context at a soft reset: as it is created, with the INTAKE_STOP waiting when the queue of its port is full (R80). -/
def stoppedContext (s : State) (p : Port) : Option Context :=
  (s.context p).map fun _ => { Context.fresh with outbound :=
    if (s.port p).link = .up ∧ 16 ≤ (s.port p).tx.length then [.stop .start] else [] }

/-- The report of a context at a soft reset, when its state or its stop reason changes (R56, R80). -/
def stopReport (s : State) (p : Port) : List Instr :=
  match s.context p with
  | some c => if c.state = .stopped ∧ c.stopReason = some .start then [] else [.stateReport p .stopped (some .start) none]
  | none => []

/-- A state with a list of messages behind those still to be taken. -/
def State.told (s : State) (l : List Instr) : State := { s with mail := s.mail ++ l }

section SoftReset
variable {s : State} {p q : Port}

/-! ### Frames offered to an intake whose outbound list is empty (R58) -/

theorem offerAnswer_queueFull : offerAnswer s p = .queueFull ↔ (s.port p).link = .up ∧ 16 ≤ (s.port p).tx.length := by
  unfold offerAnswer
  by_cases h : (s.port p).link = .up
  · by_cases k : 16 ≤ (s.port p).tx.length <;> simp [h, k, Config.txPlaces]
  · simp [h]

variable {f : IntakeFrame} {c : Context}

theorem offerIntake_accepted (h : s.context p = some c) (ho : c.outbound = []) (ha : offerAnswer s p = .accepted) :
    offerIntake p f s = enqueue s p (.intake f) := by
  simp only [offerIntake, h, ho, ha, List.isEmpty_nil, if_true]

theorem offerIntake_queueFull (h : s.context p = some c) (ho : c.outbound = []) (ha : offerAnswer s p = .queueFull) :
    offerIntake p f s = s.setContext p (some { c with outbound := [f] }) := by
  simp only [offerIntake, h, ho, ha, List.isEmpty_nil, if_true]

theorem offerIntake_notUp (h : s.context p = some c) (ho : c.outbound = []) (ha : offerAnswer s p = .notUp) :
    offerIntake p f s = s := by
  simp only [offerIntake, h, ho, ha, List.isEmpty_nil, if_true]

/-! ### The contexts (R80) -/

theorem moveContext_fresh (h : s.context p = some c) : ∃ waiting, moveContext p .fresh s =
    (s.told (stopReport s p)).setContext p (some { Context.fresh with outbound := waiting }) := by
  refine ⟨keptOutbound c.state .stopped c.outbound, ?_⟩
  simp only [moveContext, stopReport, h, State.told]
  by_cases same : c.state = .stopped ∧ c.stopReason = some .start
  · rw [if_pos same, List.append_nil]
    exact if_pos same
  · rw [if_neg same]
    exact if_neg same

/-- A context is told of, made fresh, and INTAKE_STOP offered with nothing else waiting. -/
theorem resetContext_some (h : s.context p = some c) :
    resetContext s p = offerIntake p (.stop .start) ((s.told (stopReport s p)).setContext p (some .fresh)) := by
  obtain ⟨waiting, moved⟩ := moveContext_fresh h
  simp only [resetContext, h, moved, editContext, setContext_context_self, setContext_setContext]
  rfl

/-- One context STOPPED, and told of (R80). -/
theorem resetContext_eq (s : State) (p : Port) : resetContext s p =
    ((s.told (stopReport s p)).setContext p (stoppedContext s p)).setPort p (stoppedPort s p) := by
  cases h : s.context p with
  | none =>
    have port : stoppedPort s p = s.port p := by simp [stoppedPort, h]
    have context : stoppedContext s p = s.context p := by simp [stoppedContext, h]
    have report : stopReport s p = [] := by simp [stopReport, h]
    have reset : resetContext s p = s := by simp only [resetContext, h]
    rw [port, context, report, reset]
    simp [State.told, State.setContext, State.setPort, State.context, State.port]
  | some c =>
    let told : State := (s.told (stopReport s p)).setContext p (some .fresh)
    have context : told.context p = some .fresh := setContext_context_self _ p _
    have same : told.setPort p (s.port p) = told := setPort_port_eta told p
    rw [resetContext_some h]
    cases ha : offerAnswer s p with
    | accepted =>
      obtain ⟨up, room⟩ := offerAnswer_accepted.mp ha
      have port : stoppedPort s p = { s.port p with tx := (s.port p).tx ++ [.intake (.stop .start)] } := by
        simp [stoppedPort, h, up, room]
      have waits : stoppedContext s p = some .fresh := by simp [stoppedContext, h, up, Nat.not_le.mpr room]; rfl
      rw [port, waits]
      exact offerIntake_accepted context rfl ha
    | queueFull =>
      obtain ⟨up, full⟩ := offerAnswer_queueFull.mp ha
      have port : stoppedPort s p = s.port p := by simp [stoppedPort, Nat.not_lt.mpr full]
      have waits : stoppedContext s p = some { Context.fresh with outbound := [.stop .start] } := by
        simp [stoppedContext, h, up, full]
      rw [port, waits]
      refine (offerIntake_queueFull context rfl ha).trans ((setContext_setContext _ p _ _).trans ?_)
      exact (setPort_port_eta _ p).symm
    | notUp =>
      have off := offerAnswer_notUp.mp ha
      have port : stoppedPort s p = s.port p := by simp [stoppedPort, off]
      have waits : stoppedContext s p = some .fresh := by simp [stoppedContext, h, off]; rfl
      rw [port, waits]
      exact (offerIntake_notUp context rfl ha).trans same.symm

/-- The ports of a list, each once, stopped one after the other: no stop looks at what another has changed. -/
theorem foldl_resetContext {ps : List Port} (once : ps.Nodup) (s : State) : ps.foldl resetContext s =
    { s with
      ports := perPort fun p => if p ∈ ps then stoppedPort s p else s.port p
      admission := { s.admission with contexts := perPort fun p => if p ∈ ps then stoppedContext s p else s.context p }
      mail := s.mail ++ ps.flatMap (stopReport s) } := by
  induction ps generalizing s with
  | nil =>
    have ports : perPort s.port = s.ports := cell_ext fun p => cell_perPort _ p
    have contexts : perPort s.context = s.admission.contexts := cell_ext fun p => cell_perPort _ p
    simp [ports, contexts]
  | cons p ps ih =>
    obtain ⟨fresh, once⟩ := List.nodup_cons.mp once
    have port : ∀ q, q ≠ p → (resetContext s p).port q = s.port q := fun q hq => by
      rw [resetContext_eq, setPort_port_ne _ _ hq]
      rfl
    have context : ∀ q, q ≠ p → (resetContext s p).context q = s.context q := fun q hq => by
      rw [resetContext_eq]
      exact setContext_context_ne _ _ hq
    have other : ∀ q ∈ ps, q ≠ p := fun q hq e => fresh (e ▸ hq)
    have reports : ps.flatMap (stopReport (resetContext s p)) = ps.flatMap (stopReport s) :=
      List.flatMap_congr fun q hq => by simp only [stopReport, context q (other q hq)]
    have ports : (perPort fun q => if q ∈ ps then stoppedPort (resetContext s p) q else (resetContext s p).port q) =
        perPort fun q => if q ∈ p :: ps then stoppedPort s q else s.port q := by
      refine congrArg perPort (funext fun q => ?_)
      by_cases hq : q = p
      · subst hq
        rw [if_neg fresh, if_pos List.mem_cons_self, resetContext_eq, setPort_port_self]
      · simp only [stoppedPort, port q hq, context q hq, List.mem_cons, hq, false_or]
    have contexts : (perPort fun q => if q ∈ ps then stoppedContext (resetContext s p) q else (resetContext s p).context q) =
        perPort fun q => if q ∈ p :: ps then stoppedContext s q else s.context q := by
      refine congrArg perPort (funext fun q => ?_)
      by_cases hq : q = p
      · subst hq
        rw [if_neg fresh, if_pos List.mem_cons_self, resetContext_eq]
        exact setContext_context_self _ q _
      · simp only [stoppedContext, port q hq, context q hq, List.mem_cons, hq, false_or]
    rw [List.foldl_cons, ih once, reports, ports, contexts, List.flatMap_cons, resetContext_eq, ← List.append_assoc]
    rfl

/-- The admission unit after a soft reset (R80). -/
theorem softAdmission_eq (s : State) : softAdmission s =
    { s with
      ports := perPort (stoppedPort s)
      admission := { contexts := perPort (stoppedContext s), roomStop := false }
      mail := s.mail ++ (indices 12).flatMap (stopReport s) } := by
  have all : ∀ p : Port, p ∈ indices 12 := mem_indices
  unfold softAdmission
  rw [foldl_resetContext (ps := indices 12) (List.nodup_finRange 12)]
  simp only [all, if_true]
  rfl

/-! ### The lines (R101) -/

/-- The line unit after a soft reset, its causes judged from the ports as they stand (R101). -/
def softenedLines (s : State) : LineUnit :=
  { s.lines with
    lines := mapCells (softLine s) s.lines.lines
    segments := mapCells (fun g => { g with reserved := 0 }) s.lines.segments
    tags := mapCells (fun r => { r with free := true }) s.lines.tags
    holdQueue := [] }

theorem softLines_eq (s : State) : softLines s =
    { s with
      lines := softenedLines s
      mail := s.mail ++ (indices 8).map fun l => .lineStateReport l (softLine s (s.line l)).state } := by
  have told : ∀ l, ({ s with lines := softenedLines s } : State).line l = softLine s (s.line l) := fun l => cell_mapCells _ _ l
  unfold softLines
  simp only [← told]
  exact reportLines_eq _

/-- A line's causes rest on the link states and roles of the ports alone (R84). -/
theorem softLine_same {t : State} (h : Calm s t) : softLine t = softLine s := by
  have up : ∀ r, upWithRole t r = upWithRole s r := fun r => funext fun p => by simp only [upWithRole, h.up, h.role]
  funext l
  simp only [softLine, judgedCauses, up]

/-! ### The conditions (R171) -/

theorem evalOutputs_eq (s : State) : ∃ high, evalOutputs s = { s with cond := { s.cond with high := high } } := by
  unfold evalOutputs
  split
  · exact ⟨s.cond.high, rfl⟩
  · exact ⟨_, rfl⟩

theorem softConditions_eq (s : State) : ∃ high, softConditions s =
    { s with
      ports := mapCells (fun l => { l with tx := l.tx.map (rewriteNotice 0) }) s.ports
      cond := { s.cond with
        latchCount := Vector.replicate 8 0, roomStops := 0, ctxStates := Vector.replicate 12 .stopped, set := 0, high := high
        inputs := tabulate 8 fun i => restartedInput (cell s.cond.sense i) (cell s.cond.inputs i) }
      mail := s.mail.filter fun m => !isLatchReport m } := evalOutputs_eq _

/-! ### The whole part (R179) -/

theorem softReset_eq (s : State) : ∃ high, softReset s =
    { s with
      ports := mapCells (fun l => { l with tx := l.tx.map (rewriteNotice 0) }) (perPort (stoppedPort s))
      catalogue := { s.catalogue with lock := .locked }
      admission := { contexts := perPort (stoppedContext s), roomStop := false }
      lines := softenedLines s
      transit := { entries := mapCells (fun e => Entry.free e.gen) s.transit.entries, backlog := Vector.replicate 12 [] }
      tally := { s.tally with sessions := mapCells (fun x => x.map (resetSession s)) s.tally.sessions }
      faults := { s.faults with contexts := mapCells (fun c => c.map softFaultContext) s.faults.contexts }
      cond := { s.cond with
        latchCount := Vector.replicate 8 0, roomStops := 0, ctxStates := Vector.replicate 12 .stopped, set := 0, high := high
        inputs := tabulate 8 fun i => restartedInput (cell s.cond.sense i) (cell s.cond.inputs i) }
      mail := ((s.mail ++ (indices 12).flatMap (stopReport s)) ++
        (indices 8).map fun l => Instr.lineStateReport l (softLine s (s.line l)).state).filter fun m => !isLatchReport m } := by
  have stopped : softAdmission (softCatalogue s) =
      { s with
        ports := perPort (stoppedPort s)
        catalogue := { s.catalogue with lock := .locked }
        admission := { contexts := perPort (stoppedContext s), roomStop := false }
        mail := s.mail ++ (indices 12).flatMap (stopReport s) } := softAdmission_eq _
  have judged : softLine (softAdmission (softCatalogue s)) = softLine s :=
    (softLine_same (calm_foldl calm_resetContext (calm_roomStop (.refl _)))).trans rfl
  have lines : softLines (softAdmission (softCatalogue s)) =
      { softAdmission (softCatalogue s) with
        lines := softenedLines s
        mail := (softAdmission (softCatalogue s)).mail ++
          (indices 8).map fun l => Instr.lineStateReport l (softLine s (s.line l)).state } := by
    rw [softLines_eq, softenedLines, judged, stopped]
    rfl
  obtain ⟨high, done⟩ := softConditions_eq (softFaults (softTally (softTransit (softLines (softAdmission (softCatalogue s))))))
  refine ⟨high, done.trans ?_⟩
  rw [lines, stopped]
  rfl

theorem port_softReset : (softReset s).port p =
    { stoppedPort s p with tx := (stoppedPort s p).tx.map (rewriteNotice 0) } := by
  obtain ⟨high, done⟩ := softReset_eq s
  rw [done]
  exact (cell_mapCells _ _ p).trans (by rw [cell_perPort])

theorem mgmt_softReset : (softReset s).mgmt = s.mgmt := by
  obtain ⟨high, done⟩ := softReset_eq s
  rw [done]

theorem exec_softReset (r : Requester) (s : State) : exec (.softReset r) s = .next (manage r softResetRequest s) := rfl

/-- A request whose owner leaves its requester the slot and a place is answered at the tail of the queue (R172). -/
theorem manage_answers_place {r : Requester} {owner : State → Answer} {st : Status} {d : ReplyData} {t : State}
    (h : ServesRequests s r.port) (e : owner s = ⟨st, d, t⟩) (slot : t.slot r.port = s.slot r.port)
    (place : offerAnswer t r.port = .accepted) : manage r owner s = enqueue t r.port (.mgmtReply ⟨r.tag, st, d⟩) := by
  rw [manage_serves h (by rw [e]; exact slot) (by rw [e]; exact place), e]

/-- A requester with no context of its own keeps its place in the queue (R172). -/
theorem manage_softReset {r : Requester} (h : ServesRequests s r.port) (hv : s.mgmt.save = none)
    (hc : s.context r.port = none) :
    manage r softResetRequest s = enqueue (softReset s) r.port (.mgmtReply ⟨r.tag, .done, .none⟩) := by
  have done : softResetRequest s = ⟨.done, .none, softReset s⟩ := by simp [softResetRequest, hv, answer]
  have slot : (softReset s).slot r.port = s.slot r.port := by simp only [State.slot, mgmt_softReset]
  have port : stoppedPort s r.port = s.port r.port := by simp [stoppedPort, hc]
  have place : offerAnswer (softReset s) r.port = .accepted := by
    rw [← offerAnswer_of_serves h]
    simp only [offerAnswer, port_softReset, port, List.length_map]
  exact manage_answers_place h done slot place

/-- Whether a port is UP with a role, as BIN_DOWN and ROUTE_DOWN ask it (R84). -/
theorem upWithRole_eq (r : Role) : upWithRole s r p = decide ((s.port p).link = .up ∧ s.role p = r) := by
  rw [upWithRole, State.up, Bool.decide_and, Bool.beq_eq_decide_eq, Bool.beq_eq_decide_eq]

/-- A line after a soft reset (R84, R101). -/
theorem softLine_clears (s : State) (l : Line) :
    let t := softLine s l
    let up (q : Role) (p : Port) : Bool := decide ((s.port p).link = .up ∧ s.role p = q)
    t.record = l.record ∧ t.enabled = l.enabled ∧ t.lastFill = l.lastFill ∧ t.live = 0 ∧ t.causes.binFullSense = false ∧
      t.causes.mgmtDisabled = l.causes.mgmtDisabled ∧ t.causes.fillFull = l.causes.fillFull ∧ t.state = derivedState t ∧
      t.causes.binDown = !up .bin l.record.binPort ∧
      t.causes.routeDown = l.record.route.any fun h => !up .sorter h.port := by
  refine ⟨rfl, rfl, rfl, rfl, rfl, rfl, rfl, rfl, ?_, ?_⟩
  · exact congrArg not (upWithRole_eq _)
  · simp only [softLine, judgedCauses, upWithRole_eq, List.not_all_eq_any_not]

/-- The reports a soft reset makes are of contexts and lines, not of latches. -/
theorem filter_stopReports : ((indices 12).flatMap (stopReport s)).filter (fun m => !isLatchReport m) =
    (indices 12).flatMap (stopReport s) := by
  refine List.filter_eq_self.mpr fun m hm => ?_
  obtain ⟨p, -, hm⟩ := List.mem_flatMap.mp hm
  unfold stopReport at hm
  split at hm
  · split at hm
    · cases hm
    · obtain rfl := List.mem_singleton.mp hm
      rfl
  · cases hm

theorem filter_lineReports {f : LineIx → LineState} : ((indices 8).map fun l => Instr.lineStateReport l (f l)).filter
    (fun m => !isLatchReport m) = (indices 8).map fun l => Instr.lineStateReport l (f l) := by
  refine List.filter_eq_self.mpr fun m hm => ?_
  obtain ⟨l, -, rfl⟩ := List.mem_map.mp hm
  rfl

theorem line_softReset (l : LineIx) : (softReset s).line l = softLine s (s.line l) := by
  obtain ⟨high, done⟩ := softReset_eq s
  rw [done]
  exact cell_mapCells _ _ l

theorem mail_softReset : (softReset s).mail = s.mail.filter (fun m => !isLatchReport m) ++
    (indices 12).flatMap (stopReport s) ++ (indices 8).map fun l => .lineStateReport l ((softReset s).line l).state := by
  simp only [line_softReset]
  obtain ⟨high, done⟩ := softReset_eq s
  rw [done, List.filter_append, List.filter_append, filter_lineReports, filter_stopReports]

theorem evalOutputs_softReset : evalOutputs (softReset s) = softReset s := by
  unfold softReset softConditions
  exact evalOutputs_evalOutputs _

end SoftReset

/-- Settles O52: the requester keeps its place (manage_softReset), and each block is read off softReset_eq. -/
theorem softResetClears : Obligations.SoftResetClears := by
  intro s r h
  have busy : s.mgmt.save.isSome = true → softResetRequest s = ⟨.busy, .none, s⟩ := fun hv => by
    simp [softResetRequest, hv, answer]
  refine ⟨fun hv => (exec_softReset r s).trans (congrArg _ (manage_unchanged h (busy hv))), fun hv hc =>
    ⟨softReset s, (exec_softReset r s).trans (congrArg _ (manage_softReset h hv hc)), ?_⟩⟩
  have line := line_softReset (s := s)
  have again := evalOutputs_softReset (s := s)
  have port := fun p => port_softReset (s := s) (p := p)
  have mail := mail_softReset (s := s)
  obtain ⟨high, done⟩ := softReset_eq s
  rw [done] at line again port mail ⊢
  have context : ∀ p, cell (perPort (stoppedContext s)) p = stoppedContext s p := cell_perPort _
  refine ⟨rfl, rfl, fun p hp => ?_, fun p hp => ?_, fun l => ?_, fun g => cell_mapCells _ _ g,
    fun k => cell_mapCells _ _ k, rfl, rfl, fun k => cell_mapCells _ _ k, fun p => cell_replicate _ p, rfl,
    fun p => cell_mapCells _ _ p, rfl, rfl, rfl,
    fun p => cell_mapCells _ _ p, rfl, rfl, rfl, rfl, rfl, fun l => cell_replicate _ l,
    fun i => (cell_tabulate _ _ i).trans (restartedInput_eq _ _), rfl, rfl, fun p => cell_replicate _ p, again, rfl, rfl, rfl,
    fun p => ?_, ?_⟩
  · exact (context p).trans (by simp [stoppedContext, hp])
  · obtain ⟨c, hc⟩ := Option.ne_none_iff_exists'.mp hp
    exact (context p).trans (by simp [stoppedContext, hc])
  · rw [line]
    exact softLine_clears s (s.line l)
  · exact port p
  · refine mail.trans (congrArg (fun kept => kept ++ _ ++ _) (List.filter_congr fun m _ => ?_))
    cases m <;> rfl

end Sys2Proof.Machine
end

section
/-! Check runs (R60 to R65) and the contexts of the other intakes: the run of one port touches the context of that port alone. The
tally, fault and line units touch none. -/

namespace Sys2Proof.Machine

section Blocks
variable {s t : State} {p : Port}

/-! ### Offers, faults and vouchers (R14, R153, R160, R138) -/

theorem admission_foldl {α : Type} {f : State → α → State} (h : ∀ s x, (f s x).admission = s.admission) (l : List α)
    (s : State) : (l.foldl f s).admission = s.admission := by
  induction l generalizing s with
  | nil => rfl
  | cons x xs ih => rw [List.foldl_cons, ih, h]

theorem admission_offerReport {α : Type} {frame : α → TxFrame} {l : List α} {x : α} :
    (offerReport frame p l x s).2.admission = s.admission := by
  unfold offerReport
  (repeat' split) <;> rfl

theorem admission_reportFault {e : ErrorRecord} : (reportFault e s).admission = s.admission :=
  admission_foldl (f := faultReportTo e) (fun _ _ => admission_offerReport) _ _

theorem admission_raiseFault {f : FaultRaise} : (raiseFault p f s).2.admission = s.admission := by
  unfold raiseFault
  split
  · rfl
  · dsimp only
    split
    · exact admission_reportFault
    · rfl

theorem admission_sendHead : (sendHead p s).admission = s.admission := by
  unfold sendHead
  (repeat' split) <;> rfl

theorem admission_createVoucher {x : VoucherRequest} : (createVoucher x s).2.admission = s.admission := by
  unfold createVoucher
  split
  · rfl
  · split
    · rfl
    · dsimp only
      split
      · exact admission_sendHead
      · rfl

/-! ### Sessions (R64, R123 to R129) -/

theorem admission_offerTally : (offerTally p s).admission = s.admission := by
  unfold offerTally
  (repeat' split) <;> rfl

theorem admission_takePosting {g : Posting} : (takePosting p g s).admission = s.admission := by
  unfold takePosting
  split
  · rfl
  · exact admission_offerTally

theorem admission_enterClosingWait : (enterClosingWait p s).admission = s.admission := by
  unfold enterClosingWait
  split
  · rfl
  · split
    · rfl
    · exact admission_offerTally

theorem admission_finishClose {x : Session} : (finishClose p x s).admission = s.admission := by
  unfold finishClose
  dsimp only
  split
  · split
    · rfl
    · rfl
  · rw [admission_offerTally]
    split
    · rfl
    · rfl

theorem admission_attemptClose : (attemptClose p s).2.admission = s.admission := by
  unfold attemptClose
  split
  · rfl
  · split
    · exact admission_enterClosingWait
    · split
      · exact admission_finishClose
      · split
        · exact admission_enterClosingWait
        · dsimp only
          split
          · exact admission_finishClose.trans admission_createVoucher
          · exact admission_enterClosingWait.trans admission_createVoucher

theorem admission_removeClosed : (removeClosed p s).admission = s.admission := by
  unfold removeClosed
  split
  · rfl
  · rfl

theorem admission_closeAttempt : (closeAttempt p s).2.admission = s.admission := by
  unfold closeAttempt
  dsimp only
  split
  · split
    · exact admission_removeClosed.trans admission_attemptClose
    · have taken := (admission_takePosting (p := p) (g := ‹Posting›)).trans (admission_attemptClose (s := s) (p := p))
      split
      · exact taken
      · split
        · exact admission_removeClosed.trans (admission_attemptClose.trans taken)
        · exact admission_attemptClose.trans taken
  · exact admission_attemptClose

theorem admission_markWaiting : (markWaiting p s).admission = s.admission := by
  unfold markWaiting
  split
  · rfl
  · rfl

theorem admission_testByClose : (testByClose p s).2.admission = s.admission := by
  unfold testByClose
  dsimp only
  split
  · exact admission_closeAttempt
  · exact admission_markWaiting.trans admission_closeAttempt

theorem admission_sessionTest {c l : Nat} : (sessionTest p c l s).2.admission = s.admission := by
  unfold sessionTest
  split
  · rfl
  · dsimp only
    split
    · exact admission_markWaiting
    · exact admission_testByClose
    all_goals
      split
      · rfl
      · split
        · exact admission_markWaiting.trans admission_enterClosingWait
        · exact admission_testByClose

theorem admission_takeNote (s : State) (m : Instr) : (takeNote p s m).admission = s.admission := by
  unfold takeNote dropNote
  (repeat' split) <;> rfl

theorem admission_takeNotes : (takeNotes p s).admission = s.admission := by
  unfold takeNotes takeWaiting
  dsimp only
  split
  · rfl
  · exact admission_foldl admission_takeNote _ _

/-! ### Capacity (R93 to R99) -/

theorem admission_walkEntry {w : Walk} {e : HoldEntry} : (walkEntry w e).state.admission = w.state.admission := by
  unfold walkEntry
  (repeat' split) <;> rfl

theorem admission_walk : (walk s).admission = s.admission := by
  have walked : ∀ (q : List HoldEntry) (w : Walk), (q.foldl walkEntry w).state.admission = w.state.admission := by
    intro q
    induction q with
    | nil => exact fun _ => rfl
    | cons e q ih => exact fun w => (ih _).trans admission_walkEntry
  exact walked _ _

theorem admission_takeRemovals : (takeRemovals p s).admission = s.admission := by
  unfold takeRemovals
  split
  · exact admission_walk
  · rfl

theorem admission_capacityRequest {x : CapacityRequest} : (capacityRequest x s).2.admission = s.admission := by
  unfold capacityRequest queueOrDeny
  (repeat' split) <;> rfl

end Blocks

/-- The contexts of the other ports stand. -/
def OthersStand (p : Port) (s t : State) : Prop := ∀ q, q ≠ p → t.context q = s.context q

section Runs
variable {s t u : State} {p : Port}

theorem OthersStand.refl (p : Port) (s : State) : OthersStand p s s := fun _ _ => rfl

theorem OthersStand.trans (a : OthersStand p s t) (b : OthersStand p t u) : OthersStand p s u :=
  fun q hq => (b q hq).trans (a q hq)

theorem others_of_admission (h : t.admission = s.admission) : OthersStand p s t := fun q _ => by
  rw [State.context, State.context, h]

theorem others_setContext {x : Option Context} : OthersStand p s (s.setContext p x) := fun _ hq =>
  setContext_context_ne s x hq

/-! ### Moves and frames of a context (R56, R58) -/

theorem others_moveContext {c : Context} : OthersStand p s (moveContext p c s) := by
  unfold moveContext
  split
  · exact .refl p s
  · dsimp only
    split
    · exact others_setContext
    · exact others_setContext

theorem others_editContext {f : Context → Context} : OthersStand p s (editContext p f s) := by
  unfold editContext
  split
  · exact .refl p s
  · exact others_setContext

theorem others_offerIntake {f : IntakeFrame} : OthersStand p s (offerIntake p f s) := by
  unfold offerIntake
  split
  · exact .refl p s
  · split
    · split
      · exact others_of_admission rfl
      · exact others_setContext
      · exact .refl p s
    · exact others_setContext

theorem others_returnContainer {r : ReturnReason} : OthersStand p s (returnContainer p r s) := by
  unfold returnContainer
  split
  · exact .refl p s
  · dsimp only
    split
    · exact others_moveContext
    · exact others_moveContext.trans others_offerIntake

theorem others_lockContext {n : FaultNo} : OthersStand p s (lockContext p n s) := by
  unfold lockContext
  split
  · exact .refl p s
  · exact others_moveContext.trans others_offerIntake

theorem others_raiseFrom {n : FaultNo} {k : ErrorTable} {i : Nat} {g : Option TagGen} {b : Option HopSet} {q : Option Byte} :
    OthersStand p s (raiseFrom p n k i g b q s).2 := by
  unfold raiseFrom
  split
  · exact .refl p s
  · exact others_of_admission admission_raiseFault

/-! ### Checks 10 to 12 (R64, R65) -/

theorem others_enterGating {c : Context} {l : LineIx} {n : Nat} {g : TagGen} : OthersStand p s (enterGating p c l n g s) :=
  .trans (t := s.post (.containerRecord g.tag g.gen (recordOf p c))) (others_of_admission rfl) others_moveContext

theorem others_enterHolding {c : Context} {l : LineIx} {n : Nat} {q : Byte} : OthersStand p s (enterHolding p c l n q s) :=
  others_moveContext.trans others_offerIntake

/-- A taker of outcomes that leaves the contexts of the other ports alone. -/
def TakesAlone (take : OutcomeTaker) : Prop := ∀ {p n o s}, OthersStand p s (take p n o s)

theorem others_checkCapacity {take : OutcomeTaker} (h : TakesAlone take) : OthersStand p s (checkCapacity take p s) := by
  unfold checkCapacity
  split
  · exact .refl p s
  · split
    · exact .refl p s
    · rename_i c _ _ x _
      have asked : OthersStand p s (capacityRequest (capacityOf p c x (takeRemovals p s)) (takeRemovals p s)).2 :=
        others_of_admission (admission_capacityRequest.trans admission_takeRemovals)
      dsimp only
      split
      · exact asked.trans others_enterGating
      · exact asked.trans others_enterHolding
      · exact asked.trans (others_raiseFrom.trans h)
      · split
        · exact asked.trans others_returnContainer
        · exact asked.trans (others_raiseFrom.trans h)

theorem others_pauseForCounter : OthersStand p s (pauseForCounter p s) := by
  unfold pauseForCounter
  split
  · exact .refl p s
  · dsimp only
    split
    · exact others_moveContext
    · exact others_moveContext.trans others_offerIntake

theorem others_checkSession {take : OutcomeTaker} {c l : Nat} (h : TakesAlone take) :
    OthersStand p s (checkSession take p c l s) := by
  have tested : OthersStand p s (sessionTest p c l (takeNotes p s)).2 :=
    others_of_admission (admission_sessionTest.trans admission_takeNotes)
  unfold checkSession
  dsimp only
  split
  · exact tested.trans (others_checkCapacity h)
  · exact tested.trans (others_checkCapacity h)
  · exact tested.trans others_pauseForCounter

/-! ### Outcomes (R73, R74) -/

theorem others_takeKept : TakesAlone takeKept := by
  intro p n o s
  cases o with
  | proceed => exact .refl p s
  | giveBack => exact others_returnContainer
  | keep l => exact others_returnContainer
  | lock => exact others_lockContext
  | shutdown => exact others_moveContext

theorem others_takeChamber : TakesAlone takeChamber := by
  intro p n o s
  unfold takeChamber
  split
  · split
    · exact .refl p s
    · split
      · exact others_takeKept
      · exact others_editContext.trans (others_checkSession others_takeKept)
  · exact .refl p s
  all_goals exact others_takeKept

/-! ### Check runs (R60 to R63) -/

theorem others_reject {n : FaultNo} {k : ErrorTable} {i : Nat} : OthersStand p s (reject p n k i s) :=
  others_raiseFrom.trans others_takeChamber

theorem others_noteThen {n : FaultNo} {i : Nat} {next : State → State} (h : ∀ {s}, OthersStand p s (next s)) :
    OthersStand p s (noteThen p n i next s) := by
  unfold noteThen
  dsimp only
  split
  · exact others_raiseFrom.trans others_takeChamber
  · exact others_raiseFrom.trans others_takeChamber
  all_goals exact others_raiseFrom.trans h

theorem others_checkCredit {a : ArticleCopy} {n : Nat} : OthersStand p s (checkCredit p a n s) := by
  unfold checkCredit
  dsimp only
  split
  · exact others_reject
  · exact others_editContext.trans (others_checkSession others_takeChamber)

theorem others_checkWeight {x : Sighting} {k : Int} {a : ArticleCopy} {n : Nat} :
    OthersStand p s (checkWeight p x k a n s) := by
  unfold checkWeight
  split
  · exact others_reject
  · exact others_reject
  · exact others_noteThen others_checkCredit
  · exact others_checkCredit

theorem others_checkCount {x : Sighting} {k : Int} {a : ArticleCopy} : OthersStand p s (checkCount p x k a s) := by
  unfold checkCount
  dsimp only
  split
  · exact others_editContext.trans (others_noteThen others_checkWeight)
  · exact others_editContext.trans others_checkWeight

theorem others_checkLookup {x : Sighting} {k : Int} : OthersStand p s (checkLookup p x k s) := by
  unfold checkLookup
  split
  · exact others_reject
  · dsimp only
    split
    · exact others_editContext.trans others_reject
    · exact others_editContext.trans others_checkCount

theorem others_runChecks : OthersStand p s (runChecks p s) := by
  unfold runChecks
  split
  · exact .refl p s
  · split
    · exact .refl p s
    · split
      · exact others_reject
      · exact others_checkLookup

end Runs

end Sys2Proof.Machine
end

section
/-! What the tally unit's return request, a completed close and the ROOM_STOP latches do to a context (R65, R68, R75). -/

namespace Sys2Proof.Machine

section Contexts
variable {s t : State} {p : Port} {c : Context} {x : Sighting} {take : OutcomeTaker}

/-! ### RETURN (R71, R75) -/

/-- The context a container that is being returned leaves (R71). -/
theorem returnContainer_some {q : Byte} {r : ReturnReason} (h : s.context p = some c) (hq : c.seq = some q) :
    returnContainer p r s = offerIntake p (.giveBack q r) (moveContext p
      { Context.blank .returning with seq := some q, handoverTimer := startTimer s.mgmt.timers.handover } s) := by
  simp only [returnContainer, h, hq]

theorem returnRequest_refused (h : s.context p = some c) (h1 : c.state ≠ .holding) (h2 : c.state ≠ .paused) :
    returnRequest p s = s.post (.returnAnswer p false c.state) := by
  simp only [returnRequest, h]
  exact if_neg fun k => k.elim h1 h2

/-- A context with nothing asked of the line unit any more (R72). -/
def Context.unasked (c : Context) : Context := { c with line := none, pitch := none, tag := none, holdTimer := none }

/-- What a container that waits has asked of the line unit is removed, and it is returned (R75). -/
theorem returnRequest_granted {q : Byte} (h : s.context p = some c) (hq : c.seq = some q)
    (hs : c.state = .holding ∨ c.state = .paused) (ht : cancelHeld p c s = t) (h' : t.context p = some c) :
    returnRequest p s = (offerIntake p (.giveBack q .finished) (moveContext p
      { Context.blank .returning with seq := some q, handoverTimer := startTimer t.mgmt.timers.handover }
      (t.setContext p (some c.unasked)))).post (.returnAnswer p true .returning) := by
  have left : unreserve' p c s = t.setContext p (some c.unasked) := by
    simp only [unreserve', ht, editContext, h']
    rfl
  have seq : c.unasked.seq = some q := hq
  simp only [returnRequest, h, if_pos hs, left, returnContainer_some (setContext_context_self t p (some c.unasked)) seq,
    setContext_mgmt]

/-! ### Capacity requests (R93) -/

variable {r : CapacityRequest} {l : LineIx}

theorem capacityRequest_noLine (h : selectLine s none r.start r.kept r.material = none) :
    capacityRequest r s = (.noLine, s) := by
  simp only [capacityRequest, h]

theorem capacityRequest_granted {g : Tag} (h : selectLine s none r.start r.kept r.material = some l)
    (free : lowestFree s = some g) (room : fits s (s.line l).record.segments r.pitch = true) (alone : s.lines.holdQueue = []) :
    capacityRequest r s = (.granted l r.pitch g (claimGen s g), grant g r.intake r.seq l r.pitch s) := by
  simp only [capacityRequest, h, free, room, alone]
  rfl

theorem capacityRequest_queued (h : selectLine s none r.start r.kept r.material = some l) (full : lowestFree s = none)
    (may : r.mayQueue = true) :
    capacityRequest r s = (.queued l r.pitch, withQueue s (s.lines.holdQueue ++ [holdEntryOf s r l])) := by
  simp only [capacityRequest, h, full, queueOrDeny, may, if_true]

theorem capacityRequest_denied (h : selectLine s none r.start r.kept r.material = some l) (full : lowestFree s = none)
    (may : r.mayQueue = false) : capacityRequest r s = (.denied, s) := by
  simp only [capacityRequest, h, full, queueOrDeny, may]
  rfl

/-! ### Checks 11 and 12 by the answer of the line unit (R65) -/

theorem takeRemovals_none (h : .removalRequest p ∉ s.mail) : takeRemovals p s = s := if_neg h

theorem checkCapacity_noLine {k : KeepMark} (hc : s.context p = some c) (hx : c.sighting = some x)
    (hr : .removalRequest p ∉ s.mail) (ha : capacityRequest (capacityOf p c x s) s = (.noLine, t)) (hk : c.keep = some k) :
    checkCapacity take p s = returnContainer p (.fault k.fault) t := by
  simp only [checkCapacity, hc, hx, takeRemovals_none hr, ha, hk]

theorem checkCapacity_unrouted (hc : s.context p = some c) (hx : c.sighting = some x) (hr : .removalRequest p ∉ s.mail)
    (ha : capacityRequest (capacityOf p c x s) s = (.noLine, t)) (hk : c.keep = none) :
    let o := raiseFrom p 10 .line (startLine c).val none none c.seq t
    checkCapacity take p s = take p 10 o.1 o.2 := by
  simp only [checkCapacity, hc, hx, takeRemovals_none hr, ha, hk]

theorem checkCapacity_denied (hc : s.context p = some c) (hx : c.sighting = some x) (hr : .removalRequest p ∉ s.mail)
    (ha : capacityRequest (capacityOf p c x s) s = (.denied, t)) :
    let o := raiseFrom p 11 .line (startLine c).val none none c.seq t
    checkCapacity take p s = take p 11 o.1 o.2 := by
  simp only [checkCapacity, hc, hx, takeRemovals_none hr, ha]

theorem checkCapacity_queued {n : Nat} (hc : s.context p = some c) (hx : c.sighting = some x)
    (hr : .removalRequest p ∉ s.mail) (ha : capacityRequest (capacityOf p c x s) s = (.queued l n, t)) :
    checkCapacity take p s = enterHolding p c l n x.seq t := by
  simp only [checkCapacity, hc, hx, takeRemovals_none hr, ha]

theorem checkCapacity_granted {n : Nat} {g : Tag} {k : Gen} (hc : s.context p = some c) (hx : c.sighting = some x)
    (hr : .removalRequest p ∉ s.mail) (ha : capacityRequest (capacityOf p c x s) s = (.granted l n g k, t)) :
    checkCapacity take p s = enterGating p c l n ⟨g, k⟩ t := by
  simp only [checkCapacity, hc, hx, takeRemovals_none hr, ha]

/-! ### A benign fault that returns the container unreported (R60, R73, R151, R153) -/

theorem raiseFrom_benign {f : FaultContext} {n : FaultNo} {i : Nat} {q : Option Byte} (hn : n = 10 ∨ n = 11)
    (hc : s.context p = some c) (hs : c.state = .paused) (hf : s.faultContext p = some f)
    (ha : (cell s.faults.dispositions n).action = .giveBack) (hb : (cell s.faults.dispositions n).cls = .benign)
    (hq : (cell s.faults.dispositions n).report = false) : raiseFrom p n .line i none none q s =
      (.giveBack, s.setFaultContext p (some { f with
        last := some ⟨n, .reject, false, false, .line, i, p, q, none, none, none⟩ })) := by
  have kind : faultKind n = .reject := by
    obtain rfl | rfl := hn <;> rfl
  have station : ¬ (n = 20 ∨ n = 21) := by
    obtain rfl | rfl := hn <;> decide
  have benign : (FaultClass.benign == FaultClass.contributory) = false := rfl
  simp [raiseFrom, raiseFault, errorRecordOf, isDouble, flagAfter, faultOutcomeOf, isReported, actionOutcome, hc, hs, hf, ha, hb,
    hq, kind, station, benign]

/-! ### A completed close (R68) -/

theorem closeCompleted_other (h : s.context p = some c) (hs : c.state ≠ .paused ∨ c.pause ≠ some .counterBusy) :
    closeCompleted p s = s := by
  simp only [closeCompleted, h]
  exact if_neg fun ⟨h1, h2⟩ => hs.elim (· h1) (· h2)

theorem closeCompleted_paused (h : s.context p = some c) (hs : c.state = .paused) (hp : c.pause = some .counterBusy) :
    closeCompleted p s = checkCapacity (if c.keep.isSome then takeKept else takeChamber) p s := by
  simp only [closeCompleted, h]
  exact if_pos ⟨hs, hp⟩

theorem closeCompleted_queued (hc : s.context p = some c) (hs : c.state = .paused) (hp : c.pause = some .counterBusy)
    (hx : c.sighting = some x) (hh : c.holdCopy ≠ some 0) (hr : .removalRequest p ∉ s.mail)
    (line : selectLine s none (startLine c) c.keep.isSome (materialOf c x) = some l) (full : lowestFree s = none) :
    closeCompleted p s = enterHolding p c l (capacityOf p c x s).pitch x.seq
      (withQueue s (s.lines.holdQueue ++ [holdEntryOf s (capacityOf p c x s) l])) := by
  have may : (capacityOf p c x s).mayQueue = true := by simp [capacityOf, hh]
  rw [closeCompleted_paused hc hs hp, checkCapacity_queued hc hx hr (capacityRequest_queued line full may)]

theorem closeCompleted_granted {g : Tag} (hc : s.context p = some c) (hs : c.state = .paused) (hp : c.pause = some .counterBusy)
    (hx : c.sighting = some x) (hr : .removalRequest p ∉ s.mail)
    (line : selectLine s none (startLine c) c.keep.isSome (materialOf c x) = some l) (free : lowestFree s = some g)
    (room : fits s (s.line l).record.segments (capacityOf p c x s).pitch = true) (alone : s.lines.holdQueue = []) :
    closeCompleted p s = enterGating p c l (capacityOf p c x s).pitch ⟨g, claimGen s g⟩
      (grant g p x.seq l (capacityOf p c x s).pitch s) := by
  rw [closeCompleted_paused hc hs hp, checkCapacity_granted hc hx hr (capacityRequest_granted line free room alone)]
  rfl

/-- A kept container whose line is not usable is returned for the fault it was kept for (R65, R74). -/
theorem closeCompleted_kept {k : KeepMark} (hc : s.context p = some c) (hs : c.state = .paused)
    (hp : c.pause = some .counterBusy) (hx : c.sighting = some x) (hk : c.keep = some k) (hr : .removalRequest p ∉ s.mail)
    (line : selectLine s none k.line true (materialOf c x) = none) :
    closeCompleted p s = returnContainer p (.fault k.fault) s := by
  have asked : selectLine s none (capacityOf p c x s).start (capacityOf p c x s).kept (capacityOf p c x s).material = none := by
    simp only [capacityOf, startLine, hk]
    exact line
  rw [closeCompleted_paused hc hs hp, checkCapacity_noLine hc hx hr (capacityRequest_noLine asked) hk]

/-- Fault 10 or 11 at a completed close, benign and unreported, returns the container. -/
theorem closeCompleted_fault {f : FaultContext} {a : ArticleCopy} {n : FaultNo} (hc : s.context p = some c)
    (hs : c.state = .paused) (hp : c.pause = some .counterBusy) (hx : c.sighting = some x) (hk : c.keep = none)
    (ha : c.article = some a) (hq : c.seq = some x.seq) (hr : .removalRequest p ∉ s.mail) (hf : s.faultContext p = some f)
    (act : (cell s.faults.dispositions n).action = .giveBack) (benign : (cell s.faults.dispositions n).cls = .benign)
    (quiet : (cell s.faults.dispositions n).report = false)
    (why : n = 10 ∧ selectLine s none a.entry.line false (some a.entry.material) = none ∨
      n = 11 ∧ (selectLine s none a.entry.line false (some a.entry.material)).isSome = true ∧ c.holdCopy = some 0 ∧
        lowestFree s = none) :
    closeCompleted p s = offerIntake p (.giveBack x.seq (.fault n)) (moveContext p
      { Context.blank .returning with seq := some x.seq, handoverTimer := startTimer s.mgmt.timers.handover }
      (s.setFaultContext p (some { f with
        last := some ⟨n, .reject, false, false, .line, a.entry.line.val, p, some x.seq, none, none, none⟩ }))) := by
  have start : startLine c = a.entry.line := by simp only [startLine, hk, ha]
  have line : selectLine s none (capacityOf p c x s).start (capacityOf p c x s).kept (capacityOf p c x s).material =
      selectLine s none a.entry.line false (some a.entry.material) := by
    simp only [capacityOf, start, hk, materialOf, ha, Option.isSome_none]
  have raised := raiseFrom_benign (i := a.entry.line.val) (q := some x.seq) (why.imp And.left And.left) hc hs hf act benign quiet
  have checked : closeCompleted p s = takeChamber p n .giveBack (s.setFaultContext p (some { f with
      last := some ⟨n, .reject, false, false, .line, a.entry.line.val, p, some x.seq, none, none, none⟩ })) := by
    rw [closeCompleted_paused hc hs hp, hk]
    obtain ⟨rfl, none⟩ | ⟨rfl, some, zero, full⟩ := why
    · rw [checkCapacity_unrouted hc hx hr (capacityRequest_noLine (line.trans none)) hk, start, hq, raised]
      rfl
    · obtain ⟨l, hl⟩ := Option.isSome_iff_exists.mp some
      have may : (capacityOf p c x s).mayQueue = false := by simp [capacityOf, zero]
      rw [checkCapacity_denied hc hx hr (capacityRequest_denied (line.trans hl) full may), start, hq, raised]
      rfl
  rw [checked]
  exact returnContainer_some (s := s.setFaultContext p _) hc hq

/-! ### The ROOM_STOP latches (R68) -/

theorem resumeFromRoomStop_paused (h : s.context p = some c) (hs : c.state = .paused) (hp : c.pause = some .roomStop) :
    resumeFromRoomStop s p = runChecks p s := by
  simp only [resumeFromRoomStop, h]
  exact if_pos ⟨hs, hp⟩

theorem resumeFromRoomStop_other (h : ∀ c, s.context p = some c → c.pause ≠ some .roomStop) :
    resumeFromRoomStop s p = s := by
  unfold resumeFromRoomStop
  split
  · rfl
  · rename_i d hd
    exact if_neg fun k => h d hd k.2

/-- The contexts PAUSED for ROOM_STOP start their check runs in turn (R68). -/
theorem roomStopReport_clear (s : State) : roomStopReport false s =
    (indices 12).foldl resumeFromRoomStop { s with admission := { s.admission with roomStop := false } } := by
  unfold roomStopReport
  rw [if_neg Bool.false_ne_true]

theorem roomStopReport_none (h : ∀ q c, s.context q = some c → c.pause ≠ some .roomStop) :
    roomStopReport false s = { s with admission := { s.admission with roomStop := false } } := by
  let u : State := { s with admission := { s.admission with roomStop := false } }
  have still : ∀ q, resumeFromRoomStop u q = u := fun q => resumeFromRoomStop_other (s := u) (h q)
  rw [roomStopReport_clear]
  exact List.foldl_fixed' still _

/-- The one context PAUSED for ROOM_STOP starts its check run, which leaves the others as they are (others_runChecks). -/
theorem roomStopReport_one (h : s.context p = some c) (hs : c.state = .paused) (hp : c.pause = some .roomStop)
    (others : ∀ q d, q ≠ p → s.context q = some d → d.pause ≠ some .roomStop) :
    roomStopReport false s = runChecks p { s with admission := { s.admission with roomStop := false } } := by
  let u : State := { s with admission := { s.admission with roomStop := false } }
  have run : resumeFromRoomStop u p = runChecks p u := resumeFromRoomStop_paused (s := u) h hs hp
  rw [roomStopReport_clear, ← run]
  refine foldl_single (List.nodup_finRange 12) (mem_indices p) (fun q hq => ?_) fun q hq => ?_
  · exact resumeFromRoomStop_other fun d hd => others q d hq hd
  · refine resumeFromRoomStop_other fun d hd => others q d hq ?_
    rw [run, others_runChecks q hq] at hd
    exact hd

end Contexts

/-- Settles O32: each request of the other units by the state of the context, as the lemmas above say. -/
theorem otherUnitsMoveTheContext : Obligations.OtherUnitsMoveTheContext := by
  intro s p
  have report : ∀ b, exec (.roomStopReport b) s = .next (roomStopReport b s) := fun _ => rfl
  have returned : exec (.returnRequest p) s = .next (returnRequest p s) := rfl
  have closed : exec (.closeCompleted p) s = .next (closeCompleted p s) := rfl
  rw [report, report, returned, closed]
  refine ⟨fun c q hc hq hs => ?_, fun c hc h1 h2 => congrArg _ (returnRequest_refused hc h1 h2),
    fun c hc hs => congrArg _ (closeCompleted_other hc hs), ?_, ?_, ?_, rfl,
    fun c hc hs hp others => congrArg _ (roomStopReport_one hc hs hp others), ?_,
    fun h => congrArg _ (roomStopReport_none h)⟩
  · intro t
    obtain hs | hs := hs
    · have ht : t = s.post (.removalRequest p) := if_pos hs
      have asked : cancelHeld p c s = s.post (.removalRequest p) := by simp only [cancelHeld, hs]
      rw [ht]
      exact congrArg _ (returnRequest_granted hc hq (.inl hs) asked hc)
    · have ht : t = s := if_neg (by simp [hs])
      have asked : cancelHeld p c s = s := by simp only [cancelHeld, hs]
      rw [ht]
      exact congrArg _ (returnRequest_granted hc hq (.inr hs) asked hc)
  · intro c x l hc hs hp hx _ hh hq hr start kept material found pitch
    have hstart : start = startLine c := by
      cases hk : c.keep with
      | none => cases ha : c.article <;> simp only [start, startLine, hk, ha]
      | some k => simp only [start, startLine, hk]
    have hmaterial : material = materialOf c x := by
      cases ha : c.article <;> simp only [material, materialOf, ha]
    have hpitch : pitch = (capacityOf p c x s).pitch := by
      cases ha : c.article <;> simp only [pitch, capacityOf, shapeOf, ha]
    rw [hpitch, hstart, hmaterial]
    rw [hstart, hmaterial] at found
    exact ⟨fun full => congrArg _ (closeCompleted_queued hc hs hp hx hh hr found full),
      fun t free room alone => congrArg _ (closeCompleted_granted hc hs hp hx hr found free room alone)⟩
  · intro c x k hc hs hp hx hk hq hr found
    have material : materialOf c x = (c.article.map fun a => some a.entry.material).getD x.material := by
      cases ha : c.article <;> simp [materialOf, ha]
    rw [closeCompleted_kept hc hs hp hx hk hr (material ▸ found)]
    exact congrArg _ (returnContainer_some hc hq)
  · intro c x a f n hc hs hp hx hk ha hq hr hf act benign quiet found why
    exact congrArg _ (closeCompleted_fault hc hs hp hx hk ha hq hr hf act benign quiet why)
  · rw [roomStopReport_clear]
    rfl

end Sys2Proof.Machine
end

section
/-! The law of the credits (R63, R121, R123) over every command: the meanings that Laws/Calm.lean to Laws/Steady.lean do not cover,
the case analysis over the commands, and the statement it settles. -/

namespace Sys2Proof.Machine

section Money
variable {s t u : State}

/-- The sessions, contexts and entries that the law speaks of are the same, and the messages lose none of their laws. -/
theorem MoneyLaw.same (h : MoneyLaw s) (sessions : ∀ p, t.session p = s.session p) (contexts : ∀ p, t.context p = s.context p)
    (entries : ∀ g, t.entry g = s.entry g) (mail : ∀ m ∈ t.mail, m ∈ s.mail ∨ MessageLaw m)
    (pending : ∀ m ∈ t.pending, m ∈ s.pending) : MoneyLaw t := by
  obtain ⟨hs, hc, he, hm, hp⟩ := h
  exact ⟨fun p => sessions p ▸ hs p, fun p => contexts p ▸ hc p, fun g => entries g ▸ he g,
    fun m h => (mail m h).elim (hm m) id, fun m h => hp m (pending m h)⟩

/-! ### Postings, container records and drops (R104, R114, R123) -/

theorem moneyLaw_takePostingEvent {g : Posting} (split : CreditLaw g.credit) (h : MoneyLaw s) :
    MoneyLaw (takePostingEvent g s) :=
  (calm_takePostingEvent (fun _ => split) (.refl s)).money h

theorem moneyLaw_takeRecord {tag : Tag} {g : Gen} {r : ContainerRecord} (split : CreditLaw r.cargo.credit) (h : MoneyLaw s) :
    MoneyLaw (takeRecord tag g r s) :=
  (calm_takeRecord (fun _ => split) (.refl s)).money h

/-- The container of an entry has its split, one without a record a credit of 0. -/
theorem creditLaw_container (h : MoneyLaw s) (tag : Tag) : CreditLaw (s.entry tag).container.credit := by
  obtain ⟨-, -, records, -⟩ := h
  unfold Entry.container
  cases found : (s.entry tag).record with
  | none => exact creditLaw_zero
  | some r => exact records tag r found

theorem moneyLaw_post {m : Instr} (law : MessageLaw m) (h : MoneyLaw s) : MoneyLaw (s.post m) :=
  h.same (fun _ => rfl) (fun _ => rfl) (fun _ => rfl)
    (fun x hx => (List.mem_append.mp hx).imp_right fun k => by rwa [List.mem_singleton.mp k]) fun _ => id

theorem moneyLaw_setEntry {tag : Tag} {e : Entry} (law : ∀ r, e.record = some r → CreditLaw r.credit) (h : MoneyLaw s) :
    MoneyLaw (s.setEntry tag e) := by
  obtain ⟨hs, hc, he, hm, hp⟩ := h
  refine ⟨hs, hc, fun g r hr => ?_, hm, hp⟩
  by_cases hg : g = tag
  · subst hg
    rw [setEntry_entry_self] at hr
    exact law r hr
  · rw [setEntry_entry_ne s e hg] at hr
    exact he g r hr

/-- The posting of a drop carries the credit of the entry's record. -/
theorem moneyLaw_dropped {p : Port} {q : Byte} (h : MoneyLaw s) : MoneyLaw (dropped p q s) := by
  unfold dropped
  split
  · exact moneyLaw_post trivial h
  · rename_i tag _
    split
    · exact moneyLaw_post trivial h
    · obtain ⟨-, -, records, -⟩ := id h
      exact moneyLaw_post trivial (moneyLaw_post trivial (moneyLaw_post (creditLaw_container h tag)
        (moneyLaw_setEntry (records tag) h)))

/-! ### Requests on the catalogue (R35 to R53) -/

theorem moneyLaw_lockRead {n : Nat} (h : MoneyLaw s) : MoneyLaw (lockRead n s).state := by
  unfold lockRead
  (repeat' split) <;> exact h

theorem moneyLaw_readEntry {n i : Nat} (h : MoneyLaw s) : MoneyLaw (readEntry n i s).state := by
  unfold readEntry
  split
  case h_13 => exact moneyLaw_lockRead h
  case h_14 => exact h
  all_goals
    rw [readAt_state]
    exact h

theorem moneyLaw_materialWrite {i v : Nat} (h : MoneyLaw s) : MoneyLaw (materialWrite i v s).state := by
  unfold materialWrite
  (repeat' split) <;> exact h

theorem moneyLaw_classWrite {i k : Nat} {d : Fin 65536} (h : MoneyLaw s) : MoneyLaw (classWrite i d k s).state := by
  unfold classWrite
  (repeat' split) <;> exact h

theorem moneyLaw_schemeWrite {i v : Nat} (h : MoneyLaw s) : MoneyLaw (schemeWrite i v s).state := by
  unfold schemeWrite
  (repeat' split) <;> exact h

theorem moneyLaw_lockWrite {i : Nat} {k : Key} (h : MoneyLaw s) : MoneyLaw (lockWrite i k s).state := by
  unfold lockWrite
  (repeat' split) <;> exact h

theorem moneyLaw_unlock {k : Key} (h : MoneyLaw s) : MoneyLaw (unlock k s).state := by
  unfold unlock
  split
  · exact h
  · exact moneyLaw_post (s := withLock s _) trivial h

theorem moneyLaw_articleInsert {x : ArticleFields} (h : MoneyLaw s) : MoneyLaw (articleInsert x s).state := by
  unfold articleInsert
  dsimp only
  (repeat' split) <;> exact h

theorem moneyLaw_articleReplace {x : ArticleFields} (h : MoneyLaw s) : MoneyLaw (articleReplace x s).state := by
  unfold articleReplace
  dsimp only
  (repeat' split) <;> exact h

theorem moneyLaw_articleDelete {k : ArticleCode} (h : MoneyLaw s) : MoneyLaw (articleDelete k s).state := by
  unfold articleDelete
  dsimp only
  (repeat' split) <;> exact h

theorem moneyLaw_articleFind {k : ArticleCode} (h : MoneyLaw s) : MoneyLaw (articleFind k s).state := by
  unfold articleFind
  dsimp only
  (repeat' split) <;> exact h

theorem moneyLaw_articleRead {n : Nat} (h : MoneyLaw s) : MoneyLaw (articleRead n s).state := by
  unfold articleRead
  split <;> exact h

/-! ### Requests on the other tables (R82, R88, R90, R91, R150, R163, R166, R168, R176) -/

theorem moneyLaw_timerWrite {i v : Nat} (h : MoneyLaw s) : MoneyLaw (timerWrite i v s).state := by
  unfold timerWrite
  split <;> exact h

theorem moneyLaw_pitchWrite {i v : Nat} (h : MoneyLaw s) : MoneyLaw (pitchWrite i v s).state := by
  unfold pitchWrite
  (repeat' split) <;> exact h

theorem moneyLaw_lineWrite {i : Nat} {x : LineFields} (h : MoneyLaw s) : MoneyLaw (lineWrite i x s).state := by
  unfold lineWrite
  split
  · exact h
  · split
    · exact h
    · split
      · exact h
      · exact (quiet_applyLine (quiet_refl s)).money h

theorem moneyLaw_lineControl {i : Nat} {b : Bool} (h : MoneyLaw s) : MoneyLaw (lineControl i b s).state := by
  unfold lineControl
  split
  · exact h
  · exact (quiet_rederive (quiet_setLine (quiet_refl s))).money h

theorem moneyLaw_segmentWrite {i v : Nat} (h : MoneyLaw s) : MoneyLaw (segmentWrite i v s).state := by
  unfold segmentWrite
  split
  · exact h
  · exact (quiet_walk (quiet_lines (quiet_refl s))).money h

theorem moneyLaw_dispositionWrite {i : Nat} {x : DispositionFields} (h : MoneyLaw s) :
    MoneyLaw (dispositionWrite i x s).state := by
  unfold dispositionWrite
  (repeat' split) <;> exact h

theorem calm_applySense {i : SenseIx} {e : SenseEntry} : Calm s (applySense i e s) := by
  unfold applySense
  split
  · exact calm_cond (.refl s)
  · exact calm_evalOutputs (calm_setInput (calm_cond (calm_releaseInput (.refl s))))

theorem moneyLaw_senseWrite {i : Nat} {x : SenseFields} (h : MoneyLaw s) : MoneyLaw (senseWrite i x s).state := by
  unfold senseWrite
  split
  · exact h
  · split
    · exact h
    · exact calm_applySense.money h

theorem moneyLaw_outputWrite {i : Nat} {x : OutputFields} (h : MoneyLaw s) : MoneyLaw (outputWrite i x s).state := by
  unfold outputWrite
  split
  · exact h
  · split
    · exact h
    · exact (calm_evalOutputs (calm_cond (.refl s))).money h

theorem moneyLaw_maskWrite {i : Nat} {b : BitVec 24} (h : MoneyLaw s) : MoneyLaw (maskWrite i b s).state := by
  unfold maskWrite
  split
  · exact h
  · exact (calm_evalOutputs (calm_cond (.refl s))).money h

/-! ### Resets and the store (R179 to R183) -/

theorem moneyLaw_powerOnReset (h : MoneyLaw s) : MoneyLaw (powerOnReset s) := by
  obtain ⟨hs, hc, he, hm, -⟩ := moneyLaw_reset
  exact ⟨hs, hc, he, hm, h.2.2.2.2⟩

/-- A read leaves new sessions and contexts, with nothing to their credit (R121, R181). -/
theorem moneyLaw_tablesStarted {i : Image} (h : MoneyLaw s) : MoneyLaw (tablesStarted i s) := by
  refine ⟨fun p x hx => ?_, fun p c k hc hk => ?_, h.2.2⟩
  · have made := (cell_whenRole (s := s) (i := i) (p := p) .intake Session.new).symm.trans hx
    split at made
    · cases made
      exact sessionLaw_new
    · cases made
  · have made := (cell_whenRole (s := s) (i := i) (p := p) .intake Context.fresh).symm.trans hc
    split at made
    · cases made
      cases hk
    · cases made

theorem moneyLaw_completeRead (h : MoneyLaw s) : MoneyLaw (completeRead s) := by
  have read : MoneyLaw (readTables (tablesRead s.store) s) := calm_reportLines.money (moneyLaw_tablesStarted h)
  rw [completeRead_eq]
  refine (calm_evalOutputs (.refl _)).money ?_
  split
  · exact read
  · exact moneyLaw_post trivial read

theorem moneyLaw_storeReadDone {m : Option ConfigStore} (h : MoneyLaw s) : MoneyLaw (storeReadDone m s) := by
  unfold storeReadDone
  split
  · split
    · exact moneyLaw_completeRead h
    · exact moneyLaw_completeRead (s := { s with store := _ }) h
  · exact h

theorem moneyLaw_softAdmission (h : MoneyLaw s) : MoneyLaw (softAdmission s) :=
  (calm_foldl calm_resetContext (calm_roomStop (.refl s))).money h

theorem moneyLaw_softLines (h : MoneyLaw s) : MoneyLaw (softLines s) :=
  calm_reportLines.money ((quiet_lines (quiet_refl s)).money h)

/-- Every transit entry is left FREE, with no record (R120). -/
theorem moneyLaw_softTransit (h : MoneyLaw s) : MoneyLaw (softTransit s) := by
  obtain ⟨hs, hc, -, hm, hp⟩ := h
  refine ⟨hs, hc, fun g r hr => ?_, hm, hp⟩
  have free : (softTransit s).entry g = Entry.free (s.entry g).gen := cell_mapCells _ _ g
  rw [free] at hr
  cases hr

/-- A soft reset leaves a session its counts (R135). -/
theorem moneyLaw_softTally (h : MoneyLaw s) : MoneyLaw (softTally s) := by
  obtain ⟨hs, rest⟩ := h
  refine ⟨fun p x hx => ?_, rest⟩
  have reset : (s.session p).map (resetSession s) = some x := (cell_mapCells _ _ p).symm.trans hx
  obtain ⟨y, hy, rfl⟩ := Option.map_eq_some_iff.mp reset
  exact (hs p y hy).same rfl rfl rfl

theorem moneyLaw_softFaults (h : MoneyLaw s) : MoneyLaw (softFaults s) := h

theorem moneyLaw_softCatalogue (h : MoneyLaw s) : MoneyLaw (softCatalogue s) := h

theorem moneyLaw_softConditions (h : MoneyLaw s) : MoneyLaw (softConditions s) := by
  have filtered : MoneyLaw { s with mail := s.mail.filter fun m => !isLatchReport m } :=
    h.same (fun _ => rfl) (fun _ => rfl) (fun _ => rfl) (fun _ k => .inl (List.mem_filter.mp k).1) fun _ => id
  unfold softConditions startInputs
  exact (calm_evalOutputs (calm_withConditions (calm_cond (.refl _)))).money filtered

theorem moneyLaw_softReset (h : MoneyLaw s) : MoneyLaw (softReset s) :=
  moneyLaw_softConditions (moneyLaw_softFaults (moneyLaw_softTally (moneyLaw_softTransit (moneyLaw_softLines
    (moneyLaw_softAdmission (moneyLaw_softCatalogue h))))))

theorem moneyLaw_softResetRequest (h : MoneyLaw s) : MoneyLaw (softResetRequest s).state := by
  unfold softResetRequest
  split
  · exact h
  · rw [answer_state]
    exact moneyLaw_softReset h

theorem moneyLaw_storeSave {r : Requester} (h : MoneyLaw s) : MoneyLaw (storeSave r s) := by
  unfold storeSave
  split
  · exact h
  · split
    · exact (calm_placeReply (.refl s)).money h
    · split
      · exact (calm_placeReply (calm_request (.refl s))).money h
      · exact h

theorem moneyLaw_endSave {v : Save} {b : Bool} (h : MoneyLaw s) : MoneyLaw (endSave v b s) := by
  unfold endSave
  split
  · exact calm_oweReply.money (s := withSave s none) h
  · exact calm_oweReply.money (moneyLaw_post (s := withSave s none) trivial h)

theorem moneyLaw_storeSaveDone {e : SaveEnd} (h : MoneyLaw s) : MoneyLaw (storeSaveDone e s) := by
  have stored : ∀ m, MoneyLaw (withStore s m) := fun _ => h
  unfold storeSaveDone
  split
  · exact h
  · split
    · exact moneyLaw_endSave h
    · dsimp only
      split
      · exact stored _
      · exact moneyLaw_endSave (stored _)
    · exact moneyLaw_endSave (stored _)

/-! ### Every command, and every step -/

theorem moneyLaw_of_next (h : MoneyLaw u) (e : (.next u : Host.Outcome State Fault Refusal) = .next t) : MoneyLaw t := by
  cases e
  exact h

theorem moneyLaw_of_calm (h : MoneyLaw s) (c : Calm s u) (e : (.next u : Host.Outcome State Fault Refusal) = .next t) :
    MoneyLaw t := moneyLaw_of_next (c.money h) e

theorem moneyLaw_of_steady (h : MoneyLaw s) (c : Steady s u) (e : (.next u : Host.Outcome State Fault Refusal) = .next t) :
    MoneyLaw t := moneyLaw_of_next (c.money h) e

/-- A management request keeps the law when its owner does: its reply carries no credit (R172). -/
theorem moneyLaw_of_manage {r : Requester} {f : State → Answer} (h : MoneyLaw s) (hf : MoneyLaw (f s).state)
    (e : (.next (manage r f s) : Host.Outcome State Fault Refusal) = .next t) : MoneyLaw t := by
  refine moneyLaw_of_next ?_ e
  unfold manage
  split
  · exact (calm_placeReply (.refl _)).money hf
  · exact h

/-- Every command that carries no false credit itself keeps the law. -/
theorem moneyLaw_exec {i : Instr} (law : MessageLaw i) (h : MoneyLaw s) (e : exec i s = .next t) : MoneyLaw t := by
  have same : Calm s s := .refl s
  have still : Steady s s := .refl s
  cases i with
  | powerOnReset => exact moneyLaw_of_next (moneyLaw_powerOnReset h) e
  | storeReadDone m => exact moneyLaw_of_next (moneyLaw_storeReadDone h) e
  | signalDetect p => exact moneyLaw_of_steady h (steady_signalDetect still) e
  | signalLoss p => exact moneyLaw_of_steady h (steady_signalLoss still) e
  | frameArrival p b => exact moneyLaw_of_steady h (steady_frameArrival still) e
  | announce p f => exact moneyLaw_of_steady h (steady_takeAnnounce still) e
  | credit p f => exact moneyLaw_of_steady h (steady_creditFrame still) e
  | frameTransmit p => exact moneyLaw_of_steady h (steady_frameTransmit still) e
  | placeFree p o => exact moneyLaw_of_steady h (steady_placeFree still) e
  | frameDispatch p => exact moneyLaw_of_steady h (steady_dispatchFrame still) e
  | pass p => exact moneyLaw_of_steady h (steady_passFrame still) e
  | sighting p x => exact moneyLaw_of_calm h (calm_sighting same) e
  | faultOutcome p n o => exact moneyLaw_of_calm h (calm_applyOutcome same) e
  | withdrawn p q => exact moneyLaw_of_calm h (calm_withdrawn same) e
  | returned p q => exact moneyLaw_of_calm h (calm_returned same) e
  | dropped p q => exact moneyLaw_of_next (moneyLaw_dropped h) e
  | present p => exact moneyLaw_of_calm h (calm_restartIdle same) e
  | finish p =>
    refine moneyLaw_of_calm h ?_ e
    split
    · exact same
    · exact calm_applyFinish ‹_› same
  | headFault p n c => exact moneyLaw_of_calm h (calm_headFault same) e
  | gateAck p g n k r => exact moneyLaw_of_calm h (calm_gateAck same) e
  | passage p g n k => exact moneyLaw_of_calm h (calm_passage same) e
  | arrival p g n => exact moneyLaw_of_calm h (calm_arrival same) e
  | fill p n => exact moneyLaw_of_calm h (calm_fill same) e
  | voucherDone p n r => exact moneyLaw_of_calm h (calm_voucherDone same) e
  | holdTimerExpiry p => exact moneyLaw_of_calm h (calm_holdExpiry same) e
  | handoverTimerExpiry p => exact moneyLaw_of_calm h (calm_handoverExpiry same) e
  | gateAckTimerExpiry g => exact moneyLaw_of_calm h (calm_gateAckExpiry same) e
  | transitTimerExpiry g => exact moneyLaw_of_calm h (calm_transitExpiry same) e
  | idleTimerExpiry p => exact moneyLaw_of_calm h (calm_idleExpiry same) e
  | replyTimerExpiry p => exact moneyLaw_of_calm h (calm_replyExpiry same) e
  | senseAssert n => exact moneyLaw_of_calm h calm_senseAssert e
  | senseRelease n => exact moneyLaw_of_calm h calm_senseRelease e
  | debounceTimerExpiry n => exact moneyLaw_of_calm h calm_debounceExpiry e
  | claim c => exact moneyLaw_of_calm h (calm_takeClaim same) e
  | containerRecord g n r => exact moneyLaw_of_next (moneyLaw_takeRecord law h) e
  | grantNotice p q g n l k => exact moneyLaw_of_calm h (calm_grantNotice same) e
  | reselectionNotice p q l k => exact moneyLaw_of_calm h (calm_reselectionNotice same) e
  | removalRequest p => exact moneyLaw_of_calm h (calm_removeEntry same) e
  | releaseNotice g n l k q => exact moneyLaw_of_calm h (calm_release same) e
  | cancelRequest g n => exact moneyLaw_of_calm h (calm_cancelRequest same) e
  | freeRequest g n => exact moneyLaw_of_calm h (calm_freeRequest same) e
  | gatesSetReport p g n => exact moneyLaw_of_calm h (calm_gatesSet same) e
  | gateFault p k g n b => exact moneyLaw_of_calm h (calm_gateFault same) e
  | dropReport p g n => exact moneyLaw_of_calm h (calm_dropReport same) e
  | posting x => exact moneyLaw_of_next (moneyLaw_takePostingEvent law h) e
  | dropNote p g q c => exact moneyLaw_of_calm h (calm_dropNote same) e
  | stateReport p x r q => exact moneyLaw_of_steady h (steady_stateReport still) e
  | returnRequest p => exact moneyLaw_of_calm h (calm_returnRequest same) e
  | returnAnswer p b x => exact moneyLaw_of_calm h (calm_returnAnswer same) e
  | closeCompleted p => exact moneyLaw_of_calm h (calm_closeCompleted same) e
  | roomStopReport b => exact moneyLaw_of_calm h (calm_roomStopReport same) e
  | binFullReport l b => exact moneyLaw_of_calm h (calm_withCauses same) e
  | flagClear p => exact moneyLaw_of_calm h (calm_clearFlag same) e
  | transitFault k g n p q => exact moneyLaw_of_calm h (calm_transitFault same) e
  | voucherRequest x =>
    have made : Calm s (createVoucher x s).2 := calm_createVoucher same
    exact moneyLaw_of_calm h (calm_vouchers
      (x := { (createVoucher x s).2.vouchers with answer := some (createVoucher x s).1 }) rfl made) e
  | voucherPlaceFreed p => exact moneyLaw_of_calm h (calm_placeFreed same) e
  | intakeDeparture p => exact moneyLaw_of_calm h (calm_intakeDeparture same) e
  | intakeArrival p b => exact moneyLaw_of_calm h (calm_intakeArrival same) e
  | portEventReport p => exact moneyLaw_of_calm h (calm_portEvent same) e
  | sorterDownReport p => exact moneyLaw_of_calm h (calm_foldl calm_sorterDownEntry same) e
  | counterPortReport p b => exact moneyLaw_of_calm h (calm_counterPortReport same) e
  | conditionRequest c => exact moneyLaw_of_calm h (calm_setCondition same) e
  | lineStateReport l x => exact moneyLaw_of_calm h (calm_evalOutputs (calm_cond same)) e
  | readEntry r k i => exact moneyLaw_of_manage h (moneyLaw_readEntry h) e
  | lockRecordRead r i => exact moneyLaw_of_manage h (moneyLaw_lockRead h) e
  | portWrite r i x => exact moneyLaw_of_manage h ((steady_portWrite still).money h) e
  | timerWrite r i v => exact moneyLaw_of_manage h (moneyLaw_timerWrite h) e
  | materialWrite r i v => exact moneyLaw_of_manage h (moneyLaw_materialWrite h) e
  | pitchWrite r i v => exact moneyLaw_of_manage h (moneyLaw_pitchWrite h) e
  | classWrite r i d k => exact moneyLaw_of_manage h (moneyLaw_classWrite h) e
  | schemeWrite r i v => exact moneyLaw_of_manage h (moneyLaw_schemeWrite h) e
  | lineWrite r i x => exact moneyLaw_of_manage h (moneyLaw_lineWrite h) e
  | segmentWrite r i v => exact moneyLaw_of_manage h (moneyLaw_segmentWrite h) e
  | dispositionWrite r i x => exact moneyLaw_of_manage h (moneyLaw_dispositionWrite h) e
  | senseWrite r i x => exact moneyLaw_of_manage h (moneyLaw_senseWrite h) e
  | outputWrite r i x => exact moneyLaw_of_manage h (moneyLaw_outputWrite h) e
  | maskWrite r i b => exact moneyLaw_of_manage h (moneyLaw_maskWrite h) e
  | lockRecordWrite r i k => exact moneyLaw_of_manage h (moneyLaw_lockWrite h) e
  | articleInsert r x => exact moneyLaw_of_manage h (moneyLaw_articleInsert h) e
  | articleReplace r x => exact moneyLaw_of_manage h (moneyLaw_articleReplace h) e
  | articleDelete r k => exact moneyLaw_of_manage h (moneyLaw_articleDelete h) e
  | articleFind r k => exact moneyLaw_of_manage h (moneyLaw_articleFind h) e
  | articleRead r n => exact moneyLaw_of_manage h (moneyLaw_articleRead h) e
  | articleClear r => exact moneyLaw_of_manage (f := articleClear) h h e
  | unlock r k => exact moneyLaw_of_manage h (moneyLaw_unlock h) e
  | relock r => exact moneyLaw_of_manage (f := relock) h h e
  | clearConditions r b => exact moneyLaw_of_manage (f := clearConditions b) h ((calm_clearNamed same).money h) e
  | clearSense r b => exact moneyLaw_of_manage (f := clearSense b) h ((calm_releaseInputs same).money h) e
  | intakeResume r n =>
    exact moneyLaw_of_manage h ((calm_intakeControl (fun _ _ => calm_resumeContext same) same).money h) e
  | intakeStopControl r n =>
    exact moneyLaw_of_manage h ((calm_intakeControl (fun _ _ => calm_stopControl same) same).money h) e
  | clearFault r n => exact moneyLaw_of_manage h ((calm_intakeControl (fun _ _ => calm_clearFlag same) same).money h) e
  | portEnable r n => exact moneyLaw_of_manage h ((steady_adminWrite still).money h) e
  | portDisable r n => exact moneyLaw_of_manage h ((steady_adminWrite still).money h) e
  | portReset r n => exact moneyLaw_of_manage h ((steady_portReset still).money h) e
  | lineEnable r n => exact moneyLaw_of_manage h (moneyLaw_lineControl h) e
  | lineDisable r n => exact moneyLaw_of_manage h (moneyLaw_lineControl h) e
  | counterResume r n => exact moneyLaw_of_manage h (calm_counterResume.money h) e
  | readState r k i n => exact moneyLaw_of_manage h (readState_state.symm ▸ h) e
  | softReset r => exact moneyLaw_of_manage h (moneyLaw_softResetRequest h) e
  | storeSave r => exact moneyLaw_of_next (moneyLaw_storeSave h) e
  | storeSaveDone x => exact moneyLaw_of_next (moneyLaw_storeSaveDone h) e

/-- A tick moves timers alone (R177). -/
theorem moneyLaw_tick (h : MoneyLaw s) : MoneyLaw (tick s) := by
  obtain ⟨hs, hc, he, rest⟩ := h
  refine ⟨fun p x hx => ?_, fun p c k hk => ?_, fun g r hr => ?_, rest⟩
  · rw [tick_session] at hx
    obtain ⟨y, hy, rfl⟩ := Option.map_eq_some_iff.mp hx
    exact (hs p y hy).same rfl rfl rfl
  · rw [tick_context] at hk
    obtain ⟨d, hd, rfl⟩ := Option.map_eq_some_iff.mp hk
    exact hc p d k hd
  · rw [tick_entry] at hr
    exact he g r hr

/-- An expiry carries no credit. -/
theorem messageLaw_dueCommand {i : Instr} (due : dueCommand s = some i) : MessageLaw i := by
  have found : ∀ {n : Nat} {f : Fin n → Option Instr}, (indices n).findSome? f = some i →
      (∀ x, f x = some i → MessageLaw i) → MessageLaw i := fun hit law =>
    let ⟨x, _, hx⟩ := List.exists_of_findSome?_eq_some hit
    law x hx
  simp only [dueCommand, Option.or_eq_some_iff] at due
  obtain hit | ⟨-, hit | ⟨-, hit | ⟨-, hit | ⟨-, hit⟩⟩⟩⟩ := due
  all_goals
    refine found hit fun x hx => ?_
    simp only [dueContext, dueEntry, dueSession, dueUnit, dueInput] at hx
    (repeat' split at hx) <;> cases hx <;> trivial

/-- What the part does of itself carries no credit: a transmission, a dispatch, or an expiry. -/
theorem messageLaw_ownCommand {i : Instr} (own : ownCommand s = some i) : MessageLaw i := by
  unfold ownCommand at own
  split at own
  · cases own
    trivial
  · split at own
    · cases own
      trivial
    · exact messageLaw_dueCommand own

end Money

/-- Settles O56: a command whose own credit has its split keeps the law (moneyLaw_exec), and so does a tick. -/
theorem creditIsAccountedFor : Obligations.CreditIsAccountedFor := by
  intro s t h e
  obtain ⟨hs, hc, he, hm, hp⟩ := id h
  unfold step at e
  split at e
  · rename_i i rest waiting
    rw [waiting] at hp
    obtain ⟨front, behind⟩ := List.forall_mem_cons.mp hp
    exact moneyLaw_exec (s := { s with pending := rest }) front ⟨hs, hc, he, hm, behind⟩ e
  · split at e
    · rename_i i rest sent
      rw [sent] at hm
      obtain ⟨oldest, later⟩ := List.forall_mem_cons.mp hm
      exact moneyLaw_exec (s := { s with mail := rest }) oldest ⟨hs, hc, he, later, hp⟩ e
    · split at e
      · exact moneyLaw_exec (messageLaw_ownCommand ‹_›) h e
      · cases e
        exact moneyLaw_tick h

end Sys2Proof.Machine
end

section
/-! A context's move, its frames to the intake, and its state report (R56, R58, R131, R152, R155, R156, R167): one equation per
case, and the statements they settle. -/

namespace Sys2Proof.Machine

section Moves
variable {s : State} {p : Port} {old c : Context} {f : IntakeFrame}

/-! ### Moves (R56, R58) -/

/-- The context c in the place of `old`, whose outbound list it keeps. -/
def Context.inPlaceOf (c old : Context) : Context := { c with outbound := keptOutbound old.state c.state old.outbound }

theorem moveContext_some (h : s.context p = some old) : moveContext p c s =
    if old.state = c.state ∧ old.stopReason = c.stopReason then s.setContext p (some (c.inPlaceOf old))
    else (s.setContext p (some (c.inPlaceOf old))).post (.stateReport p c.state c.stopReason c.seq) := by
  simp only [moveContext, h]
  rfl

theorem keptOutbound_eq (a b : CtxState) (l : List IntakeFrame) : keptOutbound a b l = l.filter fun f => match f with
    | .hold _ _ => !decide ((a = .holding ∨ a = .paused) ∧ b ≠ a)
    | .giveBack _ _ => !decide (a = .returning ∧ b = .idle)
    | _ => true := by
  unfold keptOutbound
  by_cases held : (a = .holding ∨ a = .paused) ∧ b ≠ a
  · have given : ¬ (a = .returning ∧ b = .idle) := by
      rintro ⟨rfl, -⟩
      obtain ⟨h | h, -⟩ := held <;> cases h
    rw [if_pos held, if_neg given]
    refine List.filter_congr fun f _ => ?_
    cases f <;> simp [isHold, held, given]
  · rw [if_neg held]
    by_cases given : a = .returning ∧ b = .idle
    · rw [if_pos given]
      refine List.filter_congr fun f _ => ?_
      cases f <;> simp [isReturn, given]
    · rw [if_neg given]
      refine (List.filter_eq_self.mpr fun f _ => ?_).symm
      cases f <;> simp [held, given]

/-! ### Frames for the intake (R58) -/

theorem offerIntake_waiting (h : s.context p = some old) (waiting : old.outbound ≠ []) : offerIntake p f s =
    s.setContext p (some { old with outbound := old.outbound.filter (fun g => !sameKind f g) ++ [f] }) := by
  have some : old.outbound.isEmpty = false := by simp [waiting]
  simp only [offerIntake, h, some, Bool.false_eq_true, if_false]

end Moves

/-- Settles O26: the move by moveContext_some, the list by keptOutbound_eq, and each offer by the answer of the port. -/
theorem contextsMoveAndSpeak : Obligations.ContextsMoveAndSpeak := by
  intro s p old h
  refine ⟨fun c => ?_, fun f => ⟨offerIntake_accepted h, offerIntake_queueFull h, offerIntake_notUp h, fun waiting => ?_⟩⟩
  · intro held given out t
    have moved : s.setContext p (some (c.inPlaceOf old)) = t :=
      congrArg (fun out => s.setContext p (some { c with outbound := out })) (keptOutbound_eq _ _ _)
    rw [moveContext_some h, moved]
  · refine ⟨_, offerIntake_waiting h waiting, List.filter_sublist, fun g hg => ?_⟩
    have gone : g ∉ old.outbound.filter (fun g => !sameKind f g) ↔ sameKind f g = true := by
      simp [List.mem_filter, hg]
    rw [gone]
    cases f <;> cases g <;> simp [sameKind, isHold, isReturn, isStopGo]

section Reports
variable {s : State} {p : Port} {c : FaultContext} {x : CtxState} {r : Option StopReason} {q : Option Byte}

/-! ### State reports (R131, R152, R155, R156, R167) -/

theorem faultReportState_none (h : s.faultContext p = none) : faultReportState p x r q s = s := by
  simp only [faultReportState, h]

theorem faultReportState_some (h : s.faultContext p = some c) : faultReportState p x r q s =
    shutdownReport p x r (lockReport c.reported x (s.setFaultContext p (some { c with reported := x, seq := q }))) := by
  simp only [faultReportState, h]

theorem lockReport_other {a : CtxState} (h : x ≠ .locked) : lockReport a x s = s := if_neg fun k => h k.1

theorem lockReport_locked {a : CtxState} :
    lockReport a .locked s = if a = .locked then s else s.request .intakeLocked := by
  unfold lockReport
  by_cases h : a = .locked <;> simp [h]

theorem shutdownReport_other (h : ¬ (x = .stopped ∧ r = some .shutdown)) : shutdownReport p x r s = s := if_neg h

theorem shutdownReport_stopped : shutdownReport p .stopped (some .shutdown) s =
    (applyEntry p { (s.port p).entry with enabled := false } s).request .intakeShutdown := if_pos ⟨rfl, rfl⟩

end Reports

/-- Settles O49: what the fault unit does by the reported state; the tally and condition units take every report. -/
theorem stateReportsAreTaken : Obligations.StateReportsAreTaken := by
  intro s p x r q t seen
  have taken : exec (.stateReport p x r q) s = .next (seen (faultReportState p x r q t)) := rfl
  rw [taken]
  refine ⟨fun h => ?_, fun c h => ?_⟩
  · rw [faultReportState_none h]
  · rw [faultReportState_some h]
    refine ⟨fun notLocked notShut => ?_, fun locked => ?_, fun stopped shut => ?_⟩
    · rw [lockReport_other notLocked, shutdownReport_other notShut]
    · subst locked
      rw [lockReport_locked, shutdownReport_other (by simp)]
    · subst stopped shut
      rw [lockReport_other (by simp), shutdownReport_stopped]

end Sys2Proof.Machine
end

section
/-! The layer the events of a context rest on: a fault raised with no report (R153, R154, R160), what a context holds elsewhere
given up (R72, R73), and the moves that follow (R71, R73). -/

namespace Sys2Proof.Machine

section Faults
variable {s : State} {p : Port} {c : Context} {f : FaultContext}

/-! ### Raised faults (R60, R153, R154, R160) -/

theorem reportFault_noController {e : ErrorRecord} (h : s.controllersUp = []) : reportFault e s = s := by
  simp only [reportFault, h, List.foldl_nil]

/-- A fault that is not reported, or that no controller is UP to hear of, is judged and recorded alone. -/
theorem raiseFault_quiet {r : FaultRaise} (hf : s.faultContext p = some f)
    (quiet : isReported r f.flag (cell s.faults.dispositions r.number) = false ∨ s.controllersUp = []) :
    let d := cell s.faults.dispositions r.number
    raiseFault p r s = (faultOutcomeOf r f.flag d, s.setFaultContext p (some { f with
      flag := flagAfter r f.flag d, last := some (errorRecordOf p r (isDouble r f.flag d)) })) := by
  simp only [raiseFault, hf]
  obtain quiet | alone := quiet
  · rw [if_neg (by simp [quiet])]
  · rw [reportFault_noController (s := s.setFaultContext p _) alone, ite_self]

variable {n : FaultNo} {k : ErrorTable} {i : Nat} {g : Option TagGen} {b : Option HopSet} {q : Option Byte}

theorem raiseFrom_some (hc : s.context p = some c) : raiseFrom p n k i g b q s = raiseFault p
    ⟨n, false, c.state, k, i, q, g, b, if n = 20 ∨ n = 21 then some (s.port p).stationCode else none⟩ s := by
  simp only [raiseFrom, hc]

/-- A disposition's action never shuts an intake down. -/
theorem actionOutcome_ne_shutdown (kind : FaultKind) (d : Disposition) : actionOutcome kind d ≠ .shutdown := by
  unfold actionOutcome
  split <;> nofun

/-- A fault that is no ABORT, no double fault and not reported, at an intake that is not LOCKED, has the outcome of its
disposition. -/
theorem raiseFrom_single (hc : s.context p = some c) (hs : c.state ≠ .locked) (kind : faultKind n ≠ .abort)
    (hf : s.faultContext p = some f) (single : f.flag = false ∨ (cell s.faults.dispositions n).cls = .benign)
    (quiet : (cell s.faults.dispositions n).report = false) :
    raiseFrom p n k i g b q s =
      (actionOutcome (faultKind n) (cell s.faults.dispositions n), s.setFaultContext p (some { f with
        flag := f.flag || decide ((cell s.faults.dispositions n).cls = .contributory),
        last := some ⟨n, faultKind n, false, false, k, i, p, q, g, b, none⟩ })) := by
  have station : ¬ (n = 20 ∨ n = 21) := by
    rintro (rfl | rfl) <;> exact kind rfl
  have once : isDouble ⟨n, false, c.state, k, i, q, g, b, none⟩ f.flag (cell s.faults.dispositions n) = false := by
    obtain clear | benign := single
    · simp [isDouble, clear]
    · simp [isDouble, benign]
  rw [raiseFrom_some hc, if_neg station, raiseFault_quiet hf]
  · simp only [faultOutcomeOf, once, hs, flagAfter, errorRecordOf, if_false, Bool.false_eq_true]
    rfl
  · left
    simp [isReported, faultOutcomeOf, once, hs, kind, actionOutcome_ne_shutdown, quiet]

/-- A REJECT fault whose disposition is RETURN, raised once and unheard at an intake with fault context f (R151, R154, R160). -/
structure ReturnsQuietly (s : State) (p : Port) (n : FaultNo) (f : FaultContext) : Prop where
  reject  : faultKind n = .reject
  context : s.faultContext p = some f
  action  : (cell s.faults.dispositions n).action = .giveBack
  single  : f.flag = false ∨ (cell s.faults.dispositions n).cls = .benign
  quiet   : (cell s.faults.dispositions n).report = false

/-- The fault unit alone decides it. -/
theorem ReturnsQuietly.same {t : State} (h : ReturnsQuietly s p n f) (e : t.faults = s.faults) : ReturnsQuietly t p n f := by
  obtain ⟨reject, context, action, single, quiet⟩ := h
  exact ⟨reject, by rw [State.faultContext, e]; exact context, e ▸ action, e ▸ single, e ▸ quiet⟩

theorem raiseFrom_returns (hc : s.context p = some c) (hs : c.state ≠ .locked) (hf : ReturnsQuietly s p n f) :
    raiseFrom p n k i g b q s = (.giveBack, s.setFaultContext p (some { f with
      flag := f.flag || decide ((cell s.faults.dispositions n).cls = .contributory),
      last := some ⟨n, .reject, false, false, k, i, p, q, g, b, none⟩ })) := by
  rw [raiseFrom_single hc hs (by rw [hf.reject]; nofun) hf.context hf.single hf.quiet, hf.reject]
  simp only [actionOutcome, hf.action]

/-- A NOTE fault whose disposition is not STOP lets the run go on. -/
theorem raiseFrom_notes (hc : s.context p = some c) (hs : c.state ≠ .locked) (kind : faultKind n = .note)
    (hf : s.faultContext p = some f) (act : (cell s.faults.dispositions n).action ≠ .stop)
    (single : f.flag = false ∨ (cell s.faults.dispositions n).cls = .benign)
    (quiet : (cell s.faults.dispositions n).report = false) :
    raiseFrom p n k i g b q s = (.proceed, s.setFaultContext p (some { f with
      flag := f.flag || decide ((cell s.faults.dispositions n).cls = .contributory),
      last := some ⟨n, .note, false, false, k, i, p, q, g, b, none⟩ })) := by
  rw [raiseFrom_single hc hs (by rw [kind]; nofun) hf single quiet, kind]
  cases ha : (cell s.faults.dispositions n).action with
  | stop => exact absurd ha act
  | giveBack => simp only [actionOutcome, ha]
  | keep => simp only [actionOutcome, ha]

/-- An ABORT fault with no controller UP locks the intake, or shuts down one that is LOCKED. -/
theorem raiseFrom_aborts (hc : s.context p = some c) (kind : faultKind n = .abort) (hf : s.faultContext p = some f)
    (alone : s.controllersUp = []) : raiseFrom p n k i g b q s =
      (if c.state = .locked then .shutdown else .lock, s.setFaultContext p (some { f with
        flag := if c.state = .locked then f.flag else
          f.flag || decide ((cell s.faults.dispositions n).cls = .contributory),
        last := some ⟨n, .abort, false, decide (c.state ≠ .locked) && f.flag &&
          decide ((cell s.faults.dispositions n).cls = .contributory), k, i, p, q, g, b,
          if n = 20 ∨ n = 21 then some (s.port p).stationCode else .none⟩ })) := by
  have double : ∀ r : FaultRaise, isDouble r f.flag (cell s.faults.dispositions n) = (decide (r.state ≠ .locked) && f.flag &&
      decide ((cell s.faults.dispositions n).cls = .contributory)) := fun r => by
    rw [isDouble, Bool.and_right_comm]
    by_cases locked : r.state = .locked <;> simp [locked, bne, beq_eq_decide]
  rw [raiseFrom_some hc, raiseFault_quiet hf (.inr alone)]
  simp only [faultOutcomeOf, flagAfter, errorRecordOf, kind, actionOutcome, double, ite_self]
  rfl

/-- An ABORT fault with no controller UP locks an intake that is not LOCKED. -/
theorem raiseFrom_locks (hc : s.context p = some c) (hs : c.state ≠ .locked) (kind : faultKind n = .abort)
    (hf : s.faultContext p = some f) (alone : s.controllersUp = []) : raiseFrom p n k i g b q s =
      (.lock, s.setFaultContext p (some { f with
        flag := f.flag || decide ((cell s.faults.dispositions n).cls = .contributory),
        last := some ⟨n, .abort, false, f.flag && decide ((cell s.faults.dispositions n).cls = .contributory), k, i, p, q, g, b,
          if n = 20 ∨ n = 21 then some (s.port p).stationCode else .none⟩ })) := by
  rw [raiseFrom_aborts hc kind hf alone, if_neg hs, if_neg hs, decide_eq_true hs, Bool.true_and]

end Faults

section Moves
variable {s t : State} {p : Port} {c d : Context} {n : FaultNo} {o : FaultResult} {q : Byte}

/-! ### Contexts edited and moved (R56, R58) -/

theorem editContext_some {f : Context → Context} (h : s.context p = some c) :
    editContext p f s = s.setContext p (some (f c)) := by
  simp only [editContext, h]

/-- An edit of the context c: what a move looks at stands. -/
structure Context.EditOf (d c : Context) : Prop where
  state  : d.state = c.state
  reason : d.stopReason = c.stopReason
  out    : d.outbound = c.outbound

/-- A move looks at the state, the stop reason and the outbound list of the context it replaces, and at nothing else of it. -/
theorem moveContext_setContext (h : s.context p = some c) (e : d.EditOf c) (x : Context) :
    moveContext p x (s.setContext p (some d)) = moveContext p x s := by
  have list : x.inPlaceOf d = x.inPlaceOf c := by rw [Context.inPlaceOf, e.state, e.out, Context.inPlaceOf]
  rw [moveContext_some h, moveContext_some (setContext_context_self s p (some d)), setContext_setContext, e.state, e.reason,
    list]

/-! ### What is held elsewhere (R72, R73) -/

theorem cancelHeld_holding (hs : c.state = .holding) : cancelHeld p c s = s.post (.removalRequest p) := by
  simp only [cancelHeld, hs]

theorem cancelHeld_tagged {g : TagGen} (hs : c.state = .gating ∨ c.state = .releasing) (hg : c.tag = some g) :
    cancelHeld p c s = s.post (.cancelRequest g.tag g.gen) := by
  obtain hs | hs := hs <;> simp only [cancelHeld, hs, hg]

theorem cancelHeld_untagged (hs : c.state = .gating ∨ c.state = .releasing) (hg : c.tag = none) : cancelHeld p c s = s := by
  obtain hs | hs := hs <;> simp only [cancelHeld, hs, hg]

theorem cancelHeld_nothing
    (hs : c.state = .idle ∨ c.state = .paused ∨ c.state = .returning ∨ c.state = .locked ∨ c.state = .stopped) :
    cancelHeld p c s = s := by
  obtain hs | hs | hs | hs | hs := hs <;> simp only [cancelHeld, hs]

@[simp] theorem cancelHeld_context (x : Port) : (cancelHeld p c s).context x = s.context x := by
  unfold cancelHeld
  (repeat' split) <;> rfl

@[simp] theorem cancelHeld_faults : (cancelHeld p c s).faults = s.faults := by
  unfold cancelHeld
  (repeat' split) <;> rfl

@[simp] theorem cancelHeld_controllersUp : (cancelHeld p c s).controllersUp = s.controllersUp := by
  unfold cancelHeld
  (repeat' split) <;> rfl

@[simp] theorem cancelHeld_port (x : Port) : (cancelHeld p c s).port x = s.port x := by
  unfold cancelHeld
  (repeat' split) <;> rfl

@[simp] theorem cancelHeld_mgmt : (cancelHeld p c s).mgmt = s.mgmt := by
  unfold cancelHeld
  (repeat' split) <;> rfl

/-- The container stays in the chamber with nothing asked of the line unit any more (R73). -/
theorem unreserve'_some (h : s.context p = some c) :
    unreserve' p c s = (cancelHeld p c s).setContext p (some c.unasked) := by
  simp only [unreserve', editContext_some (cancelHeld_context p ▸ h)]
  rfl

/-! ### LOCKED and STOPPED (R73) -/

theorem lockContext_some (h : s.context p = some c) : lockContext p n s = offerIntake p (.stop .locked)
    (moveContext p { Context.blank .locked with seq := c.seq, lockFault := some n } s) := by
  simp only [lockContext, h]

end Moves

end Sys2Proof.Machine
end

section
/-! Outcomes given outside a check run, by the state of the context (R73, R74). -/

namespace Sys2Proof.Machine

section Outcomes
variable {s t : State} {p : Port} {c : Context} {n : FaultNo} {o : FaultResult} {q : Byte} {l : LineIx}

/-! ### What each outcome does (R73) -/

theorem applyOutcome_none (h : s.context p = none) : applyOutcome p n o s = s := by
  simp only [applyOutcome, h]

theorem applyOutcome_proceed : applyOutcome p n .proceed s = s := by
  unfold applyOutcome
  (repeat' split) <;> trivial

/-- RETURN and KEEP find no container in the chamber that could stay there or go. -/
theorem applyOutcome_noContainer (h : s.context p = some c) (ho : o = .giveBack ∨ o = .keep l)
    (hs : c.state = .idle ∨ c.state = .stopped ∨ c.state = .locked ∨ c.state = .returning ∨ c.state = .releasing) :
    applyOutcome p n o s = s := by
  obtain rfl | rfl := ho <;> obtain hs | hs | hs | hs | hs := hs <;> simp only [applyOutcome, h, hs]

/-- A container in the chamber: what it holds elsewhere is given up, and the outcome is applied with nothing reserved. -/
theorem applyOutcome_chamber (h : s.context p = some c) (ho : o ≠ .proceed)
    (hs : c.state = .holding ∨ c.state = .paused ∨ c.state = .gating) :
    applyOutcome p n o s = takeChamber p n o ((cancelHeld p c s).setContext p (some c.unasked)) := by
  rw [← unreserve'_some h]
  cases o with
  | proceed => exact absurd rfl ho
  | giveBack => obtain hs | hs | hs := hs <;> simp only [applyOutcome, h, hs]
  | keep l => obtain hs | hs | hs := hs <;> simp only [applyOutcome, h, hs]
  | lock => obtain hs | hs | hs := hs <;> simp only [applyOutcome, h, hs]
  | shutdown => obtain hs | hs | hs := hs <;> simp only [applyOutcome, h, hs]

theorem applyOutcome_lock (h : s.context p = some c) (hs : c.state = .idle ∨ c.state = .returning ∨ c.state = .releasing) :
    applyOutcome p n .lock s = lockContext p n (cancelHeld p c s) := by
  obtain hs | hs | hs := hs
  · rw [cancelHeld_nothing (.inl hs)]
    simp only [applyOutcome, h, hs]
  · simp only [applyOutcome, h, hs]
  · simp only [applyOutcome, h, hs]

theorem applyOutcome_lock_down (h : s.context p = some c) (hs : c.state = .stopped ∨ c.state = .locked) :
    applyOutcome p n .lock s = s := by
  obtain hs | hs := hs <;> simp only [applyOutcome, h, hs]

theorem applyOutcome_shutdown (h : s.context p = some c)
    (hs : c.state = .idle ∨ c.state = .locked ∨ c.state = .returning ∨ c.state = .releasing) :
    applyOutcome p n .shutdown s = stopContext p .shutdown (cancelHeld p c s) := by
  obtain hs | hs | hs | hs := hs
  · rw [cancelHeld_nothing (.inl hs)]
    simp only [applyOutcome, h, hs]
  · rw [cancelHeld_nothing (by simp [hs])]
    simp only [applyOutcome, h, hs]
  · simp only [applyOutcome, h, hs]
  · simp only [applyOutcome, h, hs]

theorem applyOutcome_shutdown_stopped (h : s.context p = some c) (hs : c.state = .stopped) :
    applyOutcome p n .shutdown s = shutdownStopped p c s := by
  simp only [applyOutcome, h, hs]

/-! ### A container with nothing reserved (R73, R74) -/

theorem takeChamber_giveBack (h : s.context p = some c) (hq : c.seq = some q) : takeChamber p n .giveBack s =
    offerIntake p (.giveBack q (.fault n)) (moveContext p
      { Context.blank .returning with seq := some q, handoverTimer := startTimer s.mgmt.timers.handover } s) :=
  returnContainer_some h hq

/-- KEEP for a container that is kept already is RETURN (R74). -/
theorem takeChamber_keep_kept (h : s.context p = some c) (hk : c.keep.isSome = true) :
    takeChamber p n (.keep l) s = takeChamber p n .giveBack s := by
  simp only [takeChamber, h, hk, if_true]
  rfl

/-- KEEP routes the container to its keep line, with no credit (R74). -/
theorem takeChamber_keep (h : s.context p = some c) (hk : c.keep = none) : takeChamber p n (.keep l) s =
    checkSession takeKept p 0 (s.port p).entry.creditLimit (s.setContext p (some { c with
      keep := some ⟨l, n⟩, credit := some ⟨0, [], []⟩, line := none, pitch := none, tag := none, holdTimer := none })) := by
  simp only [takeChamber, h, hk, routeKeep, editContext_some h]
  rfl

theorem takeChamber_lock (h : s.context p = some c) : takeChamber p n .lock s = offerIntake p (.stop .locked)
    (moveContext p { Context.blank .locked with seq := c.seq, lockFault := some n } s) := lockContext_some h

theorem takeChamber_shutdown : takeChamber p n .shutdown s = stopContext p .shutdown s := rfl

end Outcomes

/-- Settles O29: each outcome by the state of the context. -/
theorem outcomesAreApplied : Obligations.OutcomesAreApplied := by
  intro s p n
  refine ⟨fun h o => congrArg _ (applyOutcome_none h), fun c h => ?_⟩
  intro gives locked stopped returning cancelled apart
  have applied : ∀ {o t}, applyOutcome p n o s = t → gives o t := congrArg _
  have stays : (c.state = .idle ∨ c.state = .stopped ∨ c.state = .locked ∨ c.state = .returning ∨ c.state = .releasing) →
      gives .giveBack s ∧ ∀ l, gives (.keep l) s := fun hs =>
    ⟨applied (applyOutcome_noContainer (l := 0) h (.inl rfl) hs), fun _ => applied (applyOutcome_noContainer h (.inr rfl) hs)⟩
  have lock : ∀ {t}, cancelHeld p c s = t → lockContext p n (cancelHeld p c s) = locked t := fun e => by
    rw [← e, lockContext_some (cancelHeld_context p ▸ h)]
  have held : c.state = .gating ∨ c.state = .releasing → cancelHeld p c s = cancelled s := fun hs => by
    cases hg : c.tag with
    | none => simp only [cancelHeld_untagged hs hg, cancelled, hg]
    | some g => simp only [cancelHeld_tagged hs hg, cancelled, hg]
  refine ⟨applied applyOutcome_proceed, fun hs => ?_, fun hs => ?_, fun hs => ?_, fun hs => ?_, fun hs => ?_, fun t ht => ?_⟩
  · have nothing : cancelHeld p c s = s := cancelHeld_nothing (.inl hs)
    obtain ⟨back, keep⟩ := stays (.inl hs)
    exact ⟨back, keep, applied ((applyOutcome_lock h (.inl hs)).trans (lock nothing)),
      applied ((applyOutcome_shutdown h (.inl hs)).trans (congrArg stopped nothing))⟩
  · obtain ⟨back, keep⟩ := stays (.inr (.inl hs))
    refine ⟨back, keep, applied (applyOutcome_lock_down h (.inl hs)), applied ((applyOutcome_shutdown_stopped h hs).trans ?_)⟩
    cases hg : c.tag <;> simp only [shutdownStopped, hg] <;> rfl
  · have nothing : cancelHeld p c s = s := cancelHeld_nothing (by simp [hs])
    obtain ⟨back, keep⟩ := stays (.inr (.inr (.inl hs)))
    exact ⟨back, keep, applied (applyOutcome_lock_down h (.inr hs)),
      applied ((applyOutcome_shutdown h (.inr (.inl hs))).trans (congrArg stopped nothing))⟩
  · have nothing : cancelHeld p c s = s := cancelHeld_nothing (by simp [hs])
    obtain ⟨back, keep⟩ := stays (.inr (.inr (.inr (.inl hs))))
    exact ⟨back, keep, applied ((applyOutcome_lock h (.inr (.inl hs))).trans (lock nothing)),
      applied ((applyOutcome_shutdown h (.inr (.inr (.inl hs)))).trans (congrArg stopped nothing))⟩
  · obtain ⟨back, keep⟩ := stays (.inr (.inr (.inr (.inr hs))))
    exact ⟨back, keep, applied ((applyOutcome_lock h (.inr (.inr hs))).trans (lock (held (.inr hs)))),
      applied ((applyOutcome_shutdown h (.inr (.inr (.inr hs)))).trans (congrArg stopped (held (.inr hs))))⟩
  · have chamber : cancelHeld p c s = t ∧ (c.state = .holding ∨ c.state = .paused ∨ c.state = .gating) := by
      obtain ⟨hs, rfl⟩ | ⟨hs, rfl⟩ | ⟨hs, rfl⟩ := ht
      · exact ⟨cancelHeld_holding hs, .inl hs⟩
      · exact ⟨cancelHeld_nothing (by simp [hs]), .inr (.inl hs)⟩
      · exact ⟨held (.inl hs), .inr (.inr hs)⟩
    obtain ⟨rfl, hs⟩ := chamber
    have unasked : (apart (cancelHeld p c s)).context p = some c.unasked := setContext_context_self _ p _
    have taken : ∀ {o u}, o ≠ .proceed → takeChamber p n o (apart (cancelHeld p c s)) = u → gives o u := fun ho e =>
      applied ((applyOutcome_chamber h ho hs).trans e)
    have back : ∀ q, c.seq = some q →
        takeChamber p n .giveBack (apart (cancelHeld p c s)) = returning q (apart (cancelHeld p c s)) := fun q hq => by
      rw [takeChamber_giveBack (c := c.unasked) unasked hq, setContext_mgmt, cancelHeld_mgmt]
    refine ⟨fun q hq => ⟨taken nofun (back q hq), fun hk l => taken nofun ?_⟩, fun hk l => taken nofun ?_, taken nofun ?_,
      taken nofun rfl⟩
    · exact (takeChamber_keep_kept unasked hk).trans (back q hq)
    · rw [takeChamber_keep (c := c.unasked) unasked hk, setContext_setContext, setContext_port, cancelHeld_port]
      rfl
    · exact takeChamber_lock (c := c.unasked) unasked

end Sys2Proof.Machine
end

section
/-! A fault of a container in the chamber that returns it, and the two chamber timers (R66, R70, R71, R73). -/

namespace Sys2Proof.Machine

section Timers
variable {s t : State} {p : Port} {c d : Context} {f : FaultContext} {n : FaultNo} {q : Byte} {k : ErrorTable} {i : Nat}
  {g : Option TagGen} {b : Option HopSet}

/-- A container in the chamber, whatever its context has been edited to, goes back for a fault that returns it (R71, R73). -/
theorem chamberFault_returns (h : s.context p = some c) (e : d.EditOf c) (hq : d.seq = some q) (hs : c.state ≠ .locked)
    (hf : ReturnsQuietly s p n f) :
    let r := raiseFrom p n k i g b (some q) (s.setContext p (some d))
    takeChamber p n r.1 r.2 = offerIntake p (.giveBack q (.fault n)) (moveContext p
      { Context.blank .returning with seq := some q, handoverTimer := startTimer s.mgmt.timers.handover }
      (s.setFaultContext p (some { f with
        flag := f.flag || decide ((cell s.faults.dispositions n).cls = .contributory),
        last := some ⟨n, .reject, false, false, k, i, p, some q, g, b, none⟩ }))) := by
  have edited : (s.setContext p (some d)).context p = some d := setContext_context_self s p _
  have quietly : ReturnsQuietly (s.setContext p (some d)) p n f := hf.same rfl
  intro r
  have raised : r = _ := raiseFrom_returns edited (e.state ▸ hs) quietly
  rw [raised]
  refine (takeChamber_giveBack (s := (s.setContext p (some d)).setFaultContext p _) edited hq).trans (congrArg _ ?_)
  exact moveContext_setContext (s := s.setFaultContext p _) h e _

/-! ### The hold timer (R66) -/

theorem holdExpiry_other (h : s.context p = some c) (hs : c.holdTimer = none ∨ c.state ≠ .holding) : holdExpiry p s = s := by
  simp only [holdExpiry, h]
  exact if_neg fun ⟨runs, holding⟩ => hs.elim (fun k => by simp [k] at runs) fun k => k holding

theorem unasked_editOf (c : Context) : c.unasked.EditOf c := ⟨rfl, rfl, rfl⟩

theorem holdExpiry_returns {l : LineIx} (h : s.context p = some c) (ht : c.holdTimer ≠ none) (hs : c.state = .holding)
    (hq : c.seq = some q) (hl : c.line = some l) (hf : ReturnsQuietly s p 11 f) :
    holdExpiry p s = offerIntake p (.giveBack q (.fault 11)) (moveContext p
      { Context.blank .returning with seq := some q, handoverTimer := startTimer s.mgmt.timers.handover }
      ((s.post (.removalRequest p)).setFaultContext p (some { f with
        flag := f.flag || decide ((cell s.faults.dispositions 11).cls = .contributory),
        last := some ⟨11, .reject, false, false, .line, l.val, p, some q, none, none, none⟩ }))) := by
  have runs : c.holdTimer.isSome = true := Option.isSome_iff_ne_none.mpr ht
  have line : heldLine c = l.val := by simp only [heldLine, hl]
  simp only [holdExpiry, h, runs, hs, and_self, if_true, unreserve'_some h, cancelHeld_holding hs, line, hq]
  exact chamberFault_returns (s := s.post _) h (unasked_editOf c) hq (by rw [hs]; nofun) (hf.same rfl)

/-! ### The handover timer (R70) -/

theorem handoverExpiry_stopped_timer (h : s.context p = some c) (ht : c.handoverTimer = none) : handoverExpiry p s = s := by
  simp only [handoverExpiry, h, ht]
  rfl

theorem askFree_tagged {x : TagGen} (hg : c.tag = some x) : askFree c s = s.post (.freeRequest x.tag x.gen) := by
  simp only [askFree, hg]

/-- A handover that has not come locks the intake, whatever its context has been edited to (R70, R73). -/
theorem handoverFault_locks (h : s.context p = some c) (e : d.EditOf c) (hq : d.seq = some q)
    (hs : c.state = .returning ∨ c.state = .releasing) (hd : c.state = .releasing → d.tag = none) (hf : s.faultContext p = some f)
    (alone : s.controllersUp = []) :
    let r := raiseFrom p 14 k i g b (some q) (s.setContext p (some d))
    applyOutcome p 14 r.1 r.2 = offerIntake p (.stop .locked) (moveContext p
      { Context.blank .locked with seq := some q, lockFault := some 14 }
      (s.setFaultContext p (some { f with
        flag := f.flag || decide ((cell s.faults.dispositions 14).cls = .contributory),
        last := some ⟨14, .abort, false, f.flag && decide ((cell s.faults.dispositions 14).cls = .contributory), k, i, p, some q,
          g, b, none⟩ }))) := by
  have edited : (s.setContext p (some d)).context p = some d := setContext_context_self s p _
  have state : d.state = .returning ∨ d.state = .releasing := e.state ▸ hs
  have notLocked : d.state ≠ .locked := by obtain k | k := state <;> rw [k] <;> nofun
  have nothing : ∀ v, cancelHeld p d v = v := fun v =>
    state.elim (fun k => cancelHeld_nothing (by simp [k])) fun k =>
      cancelHeld_untagged (.inr k) (hd (e.state ▸ k))
  intro r
  have raised : r = _ := raiseFrom_locks edited notLocked rfl hf alone
  rw [raised]
  refine (applyOutcome_lock (s := (s.setContext p (some d)).setFaultContext p _) edited (.inr state)).trans ?_
  rw [nothing]
  refine (lockContext_some (s := (s.setContext p (some d)).setFaultContext p _) edited).trans ?_
  rw [hq]
  exact congrArg _ (moveContext_setContext (s := s.setFaultContext p _) h e _)

variable (h : s.context p = some c) (runs : c.handoverTimer.isSome = true)
include h runs

theorem handoverExpiry_stopped {x : TagGen} (hs : c.state = .stopped) (hg : c.tag = some x) :
    handoverExpiry p s = (s.post (.freeRequest x.tag x.gen)).setContext p
      (some { c with tag := none, seq := none, credit := none, handoverTimer := none }) := by
  conv_lhs => simp only [handoverExpiry, h, runs, hs, if_true, askFree_tagged hg]
  exact editContext_some (s := s.post _) h

theorem handoverExpiry_other
    (hs : c.state = .idle ∨ c.state = .holding ∨ c.state = .paused ∨ c.state = .gating ∨ c.state = .locked) :
    handoverExpiry p s = s.setContext p (some { c with handoverTimer := none }) := by
  have edited : editContext p (fun d => { d with handoverTimer := stopTimer }) s =
      s.setContext p (some { c with handoverTimer := none }) := editContext_some h
  rw [← edited]
  obtain hs | hs | hs | hs | hs := hs <;> simp only [handoverExpiry, h, runs, hs, if_true]

variable (hq : c.seq = some q) (hf : s.faultContext p = some f) (alone : s.controllersUp = [])
include hq hf alone

theorem handoverExpiry_returning (hs : c.state = .returning) : handoverExpiry p s = offerIntake p (.stop .locked) (moveContext p
      { Context.blank .locked with seq := some q, lockFault := some 14 }
      (s.setFaultContext p (some { f with
        flag := f.flag || decide ((cell s.faults.dispositions 14).cls = .contributory),
        last := some ⟨14, .abort, false, f.flag && decide ((cell s.faults.dispositions 14).cls = .contributory), .none, 0, p,
          some q, none, none, none⟩ }))) := by
  conv_lhs => simp only [handoverExpiry, h, runs, hs, if_true, hq]
  rw [editContext_some h]
  exact handoverFault_locks h ⟨rfl, rfl, rfl⟩ hq (.inl hs) (fun k => by simp [hs] at k) hf alone

theorem handoverExpiry_releasing {x : TagGen} (hs : c.state = .releasing) (hg : c.tag = some x) :
    handoverExpiry p s = offerIntake p (.stop .locked) (moveContext p
      { Context.blank .locked with seq := some q, lockFault := some 14 }
      ((s.post (.freeRequest x.tag x.gen)).setFaultContext p (some { f with
        flag := f.flag || decide ((cell s.faults.dispositions 14).cls = .contributory),
        last := some ⟨14, .abort, false, f.flag && decide ((cell s.faults.dispositions 14).cls = .contributory), .transit,
          x.tag.val, p, some q, some x, none, none⟩ }))) := by
  have index : handoverIndex c = x.tag.val := by simp only [handoverIndex, hg]
  conv_lhs => simp only [handoverExpiry, h, runs, hs, if_true, askFree_tagged hg, index, hg, hq]
  rw [editContext_some (s := s.post (.freeRequest x.tag x.gen)) h]
  exact handoverFault_locks (s := s.post _) h ⟨rfl, rfl, rfl⟩ hq (.inr hs) (fun _ => rfl) hf alone

end Timers

/-- Settles O31: each timer by the state of the context. -/
theorem chamberTimersExpire : Obligations.ChamberTimersExpire := by
  intro s p c h
  have hold : exec (.holdTimerExpiry p) s = .next (holdExpiry p s) := rfl
  have handover : exec (.handoverTimerExpiry p) s = .next (handoverExpiry p s) := rfl
  rw [hold, handover]
  refine ⟨fun ht => congrArg _ (holdExpiry_other h ht), fun ht => congrArg _ (handoverExpiry_stopped_timer h ht),
    fun f q l ht hs hf hq hl act benign quiet => ?_, fun ht => ?_⟩
  · rw [holdExpiry_returns h ht hs hq hl ⟨rfl, hf, act, .inr benign, quiet⟩, benign]
    simp
  · have runs : c.handoverTimer.isSome = true := Option.isSome_iff_ne_none.mpr ht
    exact ⟨fun g hs hg => congrArg _ (handoverExpiry_stopped h runs hs hg),
      fun hs => congrArg _ (handoverExpiry_other h runs hs), fun q hq f hf alone =>
        ⟨fun hs => congrArg _ (handoverExpiry_returning h runs hq hf alone hs),
          fun g hs hg => congrArg _ (handoverExpiry_releasing h runs hq hf alone hs hg)⟩⟩

end Sys2Proof.Machine
end

section
/-! A context and its intake's link (R78, R79): what it tells a head that has come up, the station that restarts, and the departure
by the state of the context. -/

namespace Sys2Proof.Machine

section Intake
variable {s t : State} {p : Port} {c : Context} {f : FaultContext}

/-! ### Arrival (R78) -/

theorem intakeArrival_tells {b : Bool} (h : s.context p = some c)
    (hs : b = false ∨ c.state = .idle ∨ c.state = .stopped) : intakeArrival p b s = tellHead p c s := by
  simp only [intakeArrival, h]
  refine if_neg fun ⟨restarted, busy⟩ => ?_
  obtain off | idle | stopped := hs
  · simp [restarted] at off
  · simp [idle, inProcess] at busy
  · simp [stopped, inProcess] at busy

theorem tellHead_busy (h1 : c.state ≠ .stopped) (h2 : c.state ≠ .locked) (h3 : c.state ≠ .idle) : tellHead p c s = s := by
  cases hs : c.state <;> simp_all [tellHead]

theorem inProcess_of (h1 : c.state ≠ .stopped) (h2 : c.state ≠ .locked) (h3 : c.state ≠ .idle) :
    inProcess c.state = true := by
  cases hs : c.state <;> simp_all [inProcess]

/-! ### The faults of the link (R78, R79, R153, R154) -/

/-- The fault context of an intake with context c after fault 20 or 21. -/
def linkFault (s : State) (p : Port) (c : Context) (f : FaultContext) (n : FaultNo) : FaultContext :=
  { f with
    flag := if c.state = .locked then f.flag else f.flag || decide ((cell s.faults.dispositions n).cls = .contributory)
    last := some ⟨n, .abort, false, decide (c.state ≠ .locked) && f.flag &&
      decide ((cell s.faults.dispositions n).cls = .contributory), .none, 0, p, c.seq, none, none,
      some (s.port p).stationCode⟩ }

/-- It is read off the fault unit and the port alone. -/
theorem linkFault_congr {n : FaultNo} (faults : t.faults = s.faults) (port : t.port p = s.port p) :
    linkFault t p c f n = linkFault s p c f n := by
  simp only [linkFault, faults, port]

theorem raiseFrom_link {n : FaultNo} (hn : n = 20 ∨ n = 21) (h : s.context p = some c) (hf : s.faultContext p = some f)
    (alone : s.controllersUp = []) : raiseFrom p n .none 0 none none c.seq s =
      (if c.state = .locked then .shutdown else .lock, s.setFaultContext p (some (linkFault s p c f n))) := by
  have kind : faultKind n = .abort := by obtain rfl | rfl := hn <;> rfl
  rw [raiseFrom_aborts h kind hf alone, if_pos hn]
  rfl

/-- A restart of the station finds a container, or LOCKED: fault 21, and its outcome in the same event (R78). -/
theorem intakeArrival_restart (h : s.context p = some c) (hs : inProcess c.state = true ∨ c.state = .locked)
    (hf : s.faultContext p = some f) (alone : s.controllersUp = []) : intakeArrival p true s =
      applyOutcome p 21 (if c.state = .locked then .shutdown else .lock)
        (s.setFaultContext p (some (linkFault s p c f 21))) := by
  simp only [intakeArrival, h, hs, and_self, if_true, raiseFrom_link (.inr rfl) h hf alone]

/-! ### Departure (R79) -/

/-- A context whose outbound list is emptied. -/
def Context.hushed (c : Context) : Context := { c with outbound := [] }

theorem departureReason_link (x : CtxState) : departureReason (if x = .locked then .shutdown else .lock) =
    if x = .locked then .shutdown else .start := by
  by_cases h : x = .locked <;> simp [h, departureReason]

theorem editContext_hushed (h : s.context p = some c) :
    editContext p (fun d => { d with outbound := [] }) s = s.setContext p (some c.hushed) := editContext_some h

variable (h : s.context p = some c)
include h

theorem intakeDeparture_stopped (hs : c.state = .stopped) : intakeDeparture p s = s.setContext p (some c.hushed) := by
  have state : c.hushed.state = .stopped := hs
  simp only [intakeDeparture, editContext_hushed h, setContext_context_self, state]

theorem intakeDeparture_idle (hs : c.state = .idle) :
    intakeDeparture p s = stopContext p .start (s.setContext p (some c.hushed)) := by
  have state : c.hushed.state = .idle := hs
  simp only [intakeDeparture, editContext_hushed h, setContext_context_self, state]

/-- What the context holds elsewhere is given up, and fault 20 raised. -/
theorem intakeDeparture_raises
    (hs : c.state = .holding ∨ c.state = .paused ∨ c.state = .gating ∨ c.state = .returning ∨ c.state = .locked) :
    let r := raiseFrom p 20 .none 0 none none c.seq (cancelHeld p c.hushed (s.setContext p (some c.hushed)))
    intakeDeparture p s = stopContext p (departureReason r.1) r.2 := by
  have same : c.hushed.state = c.state := rfl
  obtain hs | hs | hs | hs | hs := hs
  case inr.inr.inr.inl | inr.inr.inr.inr =>
    rw [cancelHeld_nothing (by simp [same, hs])]
    simp only [intakeDeparture, editContext_hushed h, setContext_context_self, same, hs]
    rfl
  all_goals
    simp only [intakeDeparture, editContext_hushed h, setContext_context_self, same, hs]
    rfl

theorem intakeDeparture_aborts (hf : s.faultContext p = some f) (alone : s.controllersUp = [])
    (hs : c.state = .holding ∨ c.state = .paused ∨ c.state = .gating ∨ c.state = .returning ∨ c.state = .locked) :
    intakeDeparture p s = stopContext p (if c.state = .locked then .shutdown else .start)
      ((cancelHeld p c.hushed (s.setContext p (some c.hushed))).setFaultContext p (some (linkFault s p c f 20))) := by
  let u : State := cancelHeld p c.hushed (s.setContext p (some c.hushed))
  have context : u.context p = some c.hushed := by simp [u]
  have faults : u.faults = s.faults := cancelHeld_faults
  have faultContext : u.faultContext p = some f := by rw [State.faultContext, faults]; exact hf
  have noController : u.controllersUp = [] := cancelHeld_controllersUp.trans alone
  have record : linkFault u p c f 20 = linkFault s p c f 20 := linkFault_congr faults (cancelHeld_port p)
  have raised := raiseFrom_link (.inl rfl) context faultContext noController
  rw [intakeDeparture_raises h hs]
  refine (congrArg (fun r : FaultResult × State => stopContext p (departureReason r.1) r.2) raised).trans ?_
  exact record ▸ congrArg (stopContext p · _) (departureReason_link c.state)

theorem intakeDeparture_releasing (hf : s.faultContext p = some f) (alone : s.controllersUp = []) (hs : c.state = .releasing) :
    intakeDeparture p s = moveContext p (stoppedWithTag c .start)
      ((s.setContext p (some c.hushed)).setFaultContext p (some (linkFault s p c f 20))) := by
  have same : c.hushed.state = .releasing := hs
  have raised := raiseFrom_link (s := s.setContext p (some c.hushed)) (n := 20) (.inl rfl) (setContext_context_self s p _) hf alone
  simp only [intakeDeparture, editContext_hushed h, setContext_context_self, same, raised]
  rfl

end Intake

/-- Settles O33: the arrival, the restart and the departure by the state of the context. -/
theorem contextsFollowTheIntake : Obligations.ContextsFollowTheIntake := by
  intro s p c h busy
  have arrives : ∀ b, exec (.intakeArrival p b) s = .next (intakeArrival p b s) := fun _ => rfl
  have departs : exec (.intakeDeparture p) s = .next (intakeDeparture p s) := rfl
  simp only [arrives, departs]
  have held : busy ∨ c.state = .locked → inProcess c.state = true ∨ c.state = .locked := fun hs =>
    hs.imp_left fun ⟨h1, h2, h3⟩ => inProcess_of h1 h2 h3
  refine ⟨fun b hs => ?_, fun b r hs hr => ?_, fun hs => ?_, fun ⟨h1, h2, h3⟩ => ?_,
    fun f hs hf alone => ⟨_, congrArg _ (intakeArrival_restart h (held hs) hf alone), rfl⟩,
    fun hs => congrArg _ (intakeDeparture_stopped h hs), fun hs => congrArg _ (intakeDeparture_idle h hs),
    fun f hf alone => ?_⟩
  · rw [intakeArrival_tells h (.inr (.inl hs))]
    simp only [tellHead, hs]
  · rw [intakeArrival_tells h (.inr (.inr hs))]
    simp only [tellHead, hs, hr, offerStop]
    cases r <;> rfl
  · rw [intakeArrival_tells h (.inl rfl)]
    simp only [tellHead, hs]
  · rw [intakeArrival_tells h (.inl rfl), tellHead_busy h1 h2 h3]
  · have same : c.hushed.state = c.state := rfl
    have starts : ∀ {u}, (c.state = .holding ∨ c.state = .paused ∨ c.state = .gating ∨ c.state = .returning) →
        cancelHeld p c.hushed (s.setContext p (some c.hushed)) = u →
        intakeDeparture p s = stopContext p .start (u.setFaultContext p (some (linkFault s p c f 20))) := fun hs e => by
      have unlocked : c.state ≠ .locked := fun k => by simp [k] at hs
      rw [intakeDeparture_aborts h hf alone (by simpa only [or_assoc] using Or.inl hs), if_neg unlocked, e]
    refine ⟨fun hs => congrArg _ (starts (.inl hs) (cancelHeld_holding hs)), fun hs => congrArg _ (starts ?_ ?_),
      fun g hs hg => congrArg _ (starts (.inr (.inr (.inl hs))) (cancelHeld_tagged (.inl hs) hg)),
      fun hs => congrArg _ (intakeDeparture_releasing h hf alone hs), fun hs => congrArg _ ?_⟩
    · exact hs.elim (.inr ∘ .inl) (.inr ∘ .inr ∘ .inr)
    · exact cancelHeld_nothing (hs.elim (.inr ∘ .inl) (.inr ∘ .inr ∘ .inl))
    · have down := intakeDeparture_aborts h hf alone (by simp [hs])
      rw [cancelHeld_nothing (by simp [same, hs])] at down
      exact down.trans (congrArg (stopContext p · _) (if_pos hs))

end Sys2Proof.Machine
end

section
/-! The events that end a container in the chamber or move it on: WITHDRAWN, RETURNED, the notices of the line unit, and the reports
of the transit table (R66, R67, R69, R71, R72). -/

namespace Sys2Proof.Machine

section Container
variable {s t : State} {p : Port} {c : Context} {q : Byte}

/-! ### WITHDRAWN and RETURNED (R71, R72) -/

theorem withdrawn_some (h : s.context p = some c) (hq : c.seq = some q)
    (hs : c.state = .holding ∨ c.state = .paused ∨ c.state = .gating ∨ c.state = .releasing) :
    withdrawn p q s = clearContext p (cancelHeld p c s) := by
  obtain hs | hs | hs | hs := hs <;> simp only [withdrawn, h, hs, hq, if_true]

theorem withdrawn_stale (h : s.context p = some c)
    (hs : c.seq ≠ some q ∨ c.state = .idle ∨ c.state = .stopped ∨ c.state = .returning ∨ c.state = .locked) :
    withdrawn p q s = s := by
  obtain hq | hs | hs | hs | hs := hs
  · simp only [withdrawn, h, hq, if_false]
    split <;> rfl
  all_goals simp only [withdrawn, h, hs]

theorem returned_some (h : s.context p = some c) (hq : c.seq = some q) (hs : c.state = .returning) :
    returned p q s = clearContext p s := by
  simp only [returned, h]
  exact if_pos ⟨hs, hq⟩

theorem returned_stale (h : s.context p = some c) (hs : c.seq ≠ some q ∨ c.state ≠ .returning) : returned p q s = s := by
  simp only [returned, h]
  exact if_neg fun ⟨k1, k2⟩ => hs.elim (· k2) (· k1)

/-! ### Notices of the line unit (R66, R67) -/

theorem grantNotice_taken {g : Tag} {k : Gen} {l : LineIx} {n : Nat} (h : s.context p = some c) (hs : c.state = .holding)
    (hq : c.seq = some q) : grantNotice p q g k l n s = enterGating p c l n ⟨g, k⟩ s := by
  simp only [grantNotice, h]
  exact if_pos ⟨hs, hq⟩

theorem grantNotice_stale {g : Tag} {k : Gen} {l : LineIx} {n : Nat} (h : s.context p = some c)
    (hs : c.state ≠ .holding ∨ c.seq ≠ some q) : grantNotice p q g k l n s = s.post (.cancelRequest g k) := by
  simp only [grantNotice, h]
  exact if_neg fun ⟨k1, k2⟩ => hs.elim (· k1) (· k2)

/-- The context of a container whose hold queue entry has gone (R67). -/
def Context.unlined (c : Context) : Context := { c with line := none, pitch := none, holdTimer := none }

theorem editContext_unlined (h : s.context p = some c) :
    editContext p (fun d => { d with line := none, pitch := none, holdTimer := stopTimer }) s =
      s.setContext p (some c.unlined) := editContext_some h

variable {tried : LineIx}

theorem reselectionNotice_stale {l : Option LineIx} (h : s.context p = some c) (hs : c.state ≠ .holding ∨ c.seq ≠ some q) :
    reselectionNotice p q l tried s = s := by
  simp only [reselectionNotice, h]
  exact if_neg fun ⟨k1, k2⟩ => hs.elim (· k1) (· k2)

section Holding
variable (h : s.context p = some c) (hs : c.state = .holding) (hq : c.seq = some q)
include h hs hq

theorem reselectionNotice_line {m : LineIx} :
    reselectionNotice p q (some m) tried s = s.setContext p (some { c with line := some m }) := by
  simp only [reselectionNotice, h]
  exact if_pos ⟨hs, hq⟩

theorem reselectionNotice_kept {k : KeepMark} (hk : c.keep = some k) : reselectionNotice p q none tried s =
    offerIntake p (.giveBack q (.fault k.fault)) (moveContext p
      { Context.blank .returning with seq := some q, handoverTimer := startTimer s.mgmt.timers.handover } s) := by
  have left : reselectionNotice p q none tried s = returnContainer p (.fault k.fault) (s.setContext p (some c.unlined)) := by
    simp only [reselectionNotice, h, hs, hq, and_self, if_true, hk, editContext_unlined h]
  rw [left, returnContainer_some (c := c.unlined) (setContext_context_self s p _) hq, setContext_mgmt,
    moveContext_setContext (d := c.unlined) h ⟨rfl, rfl, rfl⟩]

theorem reselectionNotice_unkept (hk : c.keep = none) :
    let r := raiseFrom p 10 .line tried.val none none (some q) (s.setContext p (some c.unlined))
    reselectionNotice p q none tried s = takeChamber p 10 r.1 r.2 := by
  simp only [reselectionNotice, h, hs, hq, and_self, if_true, hk, editContext_unlined h]

end Holding

/-! ### Reports of the transit table (R69) -/

variable {g : Tag} {k : Gen}

theorem gatesSet_taken (h : s.context p = some c) (hs : c.state = .gating) (hg : c.tag = some ⟨g, k⟩) :
    gatesSet p g k s = moveContext p
      { c with state := .releasing, handoverTimer := startTimer s.mgmt.timers.handover } s := by
  simp only [gatesSet, h]
  exact if_pos ⟨hs, hg⟩

theorem gatesSet_other (h : s.context p = some c) (hs : c.state ≠ .gating ∨ c.tag ≠ some ⟨g, k⟩) : gatesSet p g k s = s := by
  simp only [gatesSet, h]
  exact if_neg fun ⟨k1, k2⟩ => hs.elim (· k1) (· k2)

theorem sendDropNote_some {x : ContainerCredit} (hq : c.seq = some q) (hx : c.credit = some x) :
    sendDropNote p c g s = s.post (.dropNote p g q x.credit) := by
  simp only [sendDropNote, hq, hx, Option.getD_some]

theorem dropReport_releasing (h : s.context p = some c) (hs : c.state = .releasing) (hg : c.tag = some ⟨g, k⟩) :
    dropReport p g k s = clearContext p (sendDropNote p c g s) := by
  simp only [dropReport, h, hg, if_true, hs]

theorem dropReport_stopped (h : s.context p = some c) (hs : c.state = .stopped) (hg : c.tag = some ⟨g, k⟩) :
    dropReport p g k s = editContext p (fun d => { d with tag := none, seq := none, credit := none, handoverTimer := stopTimer })
      (sendDropNote p c g s) := by
  simp only [dropReport, h, hg, if_true, hs]

theorem dropReport_other (h : s.context p = some c)
    (hs : c.tag ≠ some ⟨g, k⟩ ∨ (c.state ≠ .releasing ∧ c.state ≠ .stopped)) : dropReport p g k s = s := by
  simp only [dropReport, h]
  obtain hg | ⟨h1, h2⟩ := hs
  · exact if_neg hg
  · cases hs : c.state <;> simp_all

/-- A gate fault of the container in the chamber: it keeps neither tag nor line (R69). -/
theorem gateFault_gating {kind : GateFaultKind} {b : HopSet} (h : s.context p = some c) (hs : c.state = .gating)
    (hg : c.tag = some ⟨g, k⟩) (hq : c.seq = some q) :
    let r := raiseFrom p (gateFaultNumber kind) .transit g.val (some ⟨g, k⟩) (some b) (some q)
      (s.setContext p (some { c with tag := none, line := none, pitch := none }))
    gateFault p kind g k b s = takeChamber p (gateFaultNumber kind) r.1 r.2 := by
  rw [← hq]
  simp only [gateFault, h, editContext_some h]
  exact if_pos ⟨hs, hg⟩

end Container

/-- Settles O30: each event by the state of the context, its chamber seq and its tag. -/
theorem containersMoveOn : Obligations.ContainersMoveOn := by
  intro s p c h cleared cancelled
  have withdraws : ∀ q, exec (.withdrawn p q) s = .next (withdrawn p q s) := fun _ => rfl
  have returns : ∀ q, exec (.returned p q) s = .next (returned p q s) := fun _ => rfl
  have grants : ∀ q t g l n, exec (.grantNotice p q t g l n) s = .next (grantNotice p q t g l n s) := fun _ _ _ _ _ => rfl
  have reselects : ∀ q l k, exec (.reselectionNotice p q l k) s = .next (reselectionNotice p q l k s) := fun _ _ _ => rfl
  have sets : ∀ t g, exec (.gatesSetReport p t g) s = .next (gatesSet p t g s) := fun _ _ => rfl
  have drops : ∀ t g, exec (.dropReport p t g) s = .next (dropReport p t g s) := fun _ _ => rfl
  have fails : ∀ k t g b, exec (.gateFault p k t g b) s = .next (gateFault p k t g b s) := fun _ _ _ _ => rfl
  refine ⟨fun q hq => ⟨fun hs => ?_, fun hs => ?_, fun g hg hs => ?_, fun hs => ?_⟩, fun q hs => ?_, fun q hs => ?_,
    fun q t g l n => ⟨fun hs hq => ?_, fun hs => ?_⟩, fun q l tried => ⟨fun hs hq => ⟨fun m hm => ?_, fun k hl hk => ?_,
      fun f d hl hk hf hd act clear quiet => ?_⟩, fun hs => ?_⟩,
    fun t g => ⟨fun hs hg => ?_, fun hs => ?_, fun q k hg hq hk => ⟨fun hs => ?_, fun hs => ?_⟩, fun hs => ?_⟩,
    fun k n t g b f d q hn hf hd hs hg hq act clear quiet => ?_⟩
  · rw [withdraws, withdrawn_some h hq (.inl hs), cancelHeld_holding hs]
    rfl
  · rw [withdraws, withdrawn_some h hq (.inr (.inl hs)), cancelHeld_nothing (.inr (.inl hs))]
    rfl
  · rw [withdraws, withdrawn_some h hq (.inr (.inr hs)), cancelHeld_tagged hs hg]
    rfl
  · rw [returns, returned_some h hq hs]
    rfl
  · rw [withdraws, withdrawn_stale h hs]
  · rw [returns, returned_stale h hs]
  · rw [grants, grantNotice_taken h hs hq]
    rfl
  · rw [grants, grantNotice_stale h hs]
  · rw [reselects, hm, reselectionNotice_line h hs hq]
  · rw [reselects, hl, reselectionNotice_kept h hs hq hk]
  · rw [reselects, hl, reselectionNotice_unkept h hs hq hk]
    have back := chamberFault_returns (d := c.unlined) (k := .line) (i := tried.val) (g := none) (b := none) h ⟨rfl, rfl, rfl⟩ hq
      (by simp [hs]) ⟨rfl, hf, hd ▸ act, .inl clear, hd ▸ quiet⟩
    rw [back, clear, Bool.false_or, hd]
  · rw [reselects, reselectionNotice_stale h hs]
  · rw [sets, gatesSet_taken h hs hg]
  · rw [sets, gatesSet_other h hs]
  · rw [drops, dropReport_releasing h hs hg, sendDropNote_some hq hk]
    rfl
  · rw [drops, dropReport_stopped h hs hg, sendDropNote_some hq hk]
    exact congrArg _ (editContext_some (s := s.post _) h)
  · rw [drops, dropReport_other h hs]
  · have number : gateFaultNumber k = n ∧ faultKind n = .reject := by
      obtain ⟨rfl, rfl⟩ | ⟨rfl, rfl⟩ := hn <;> exact ⟨rfl, rfl⟩
    obtain ⟨rfl, kind⟩ := number
    have back := chamberFault_returns (d := { c with tag := none, line := none, pitch := none }) (k := .transit) (i := t.val)
      (g := some ⟨t, g⟩) (b := some b) h ⟨rfl, rfl, rfl⟩ hq (by simp [hs]) ⟨kind, hf, hd ▸ act, .inl clear, hd ▸ quiet⟩
    rw [fails, gateFault_gating h hs hg hq, back, clear, Bool.false_or, hd]

end Sys2Proof.Machine
end

section
/-! INTAKE_CONTROL (R76, R77, R158): a request of another port, which the intake's own frames leave its slot and its place. -/

namespace Sys2Proof.Machine

/-- What the reply to a request of port q needs: the port itself and the slots stand. -/
structure SparesPort (q : Port) (s t : State) : Prop where
  port : t.port q = s.port q
  mgmt : t.mgmt = s.mgmt

section Controls
variable {s t u : State} {p q : Port} {c : Context} {f : IntakeFrame} {r : Requester}

theorem SparesPort.refl (q : Port) (s : State) : SparesPort q s s := ⟨rfl, rfl⟩

theorem SparesPort.trans (a : SparesPort q s t) (b : SparesPort q t u) : SparesPort q s u :=
  ⟨b.port.trans a.port, b.mgmt.trans a.mgmt⟩

theorem spares_offerIntake (hq : q ≠ p) : SparesPort q s (offerIntake p f s) := by
  unfold offerIntake
  split
  · exact .refl q s
  · split
    · split
      · exact ⟨enqueue_port_ne s _ hq, rfl⟩
      · exact ⟨rfl, rfl⟩
      · exact .refl q s
    · exact ⟨rfl, rfl⟩

theorem spares_moveContext : SparesPort q s (moveContext p c s) := by
  unfold moveContext
  split
  · exact .refl q s
  · dsimp only
    split <;> exact ⟨rfl, rfl⟩

theorem spares_cancelHeld : SparesPort q s (cancelHeld p c s) := ⟨cancelHeld_port q, cancelHeld_mgmt⟩

/-- An offer changes nothing of the context but its outbound list. -/
theorem offerIntake_context (h : s.context p = some c) :
    ∃ out, (offerIntake p f s).context p = some { c with outbound := out } := by
  by_cases empty : c.outbound = []
  · cases ha : offerAnswer s p with
    | accepted => exact ⟨c.outbound, by rw [offerIntake_accepted h empty ha]; exact h⟩
    | queueFull => exact ⟨_, by rw [offerIntake_queueFull h empty ha, setContext_context_self]⟩
    | notUp => exact ⟨c.outbound, by rw [offerIntake_notUp h empty ha]; exact h⟩
  · exact ⟨_, by rw [offerIntake_waiting h empty, setContext_context_self]⟩

/-- A request that is served is answered at the tail of its port's queue, when its owner leaves that port alone. -/
theorem answers_spared {i : Instr} {owner : State → Answer} {st : Status} (h : ServesRequests s r.port)
    (e : exec i s = .next (manage r owner s)) (ho : owner s = answer st t) (spared : SparesPort r.port s t) :
    Answers i r st .none s t := by
  have slot : (owner s).state.slot r.port = s.slot r.port := by
    rw [ho, answer_state, State.slot, spared.mgmt, State.slot]
  have place : offerAnswer (owner s).state r.port = .accepted := by
    rw [ho, answer_state, offerAnswer, spared.port]
    exact offerAnswer_of_serves h
  rw [Answers, e, manage_serves h slot place, ho]
  rfl

/-! ### Judged (R76, R174) -/

variable {act : Port → Context → State → Answer}

theorem intakeControl_badIndex {i : Nat} (h : 12 ≤ i) : intakeControl i act s = answer .badIndex s := by
  simp only [intakeControl, index?_none h]

theorem intakeControl_notAllowed (h : s.role p ≠ .intake) : intakeControl p.val act s = answer .notAllowed s := by
  simp only [intakeControl, index?_val, h, if_false]
  split <;> rfl

theorem intakeControl_some (hr : s.role p = .intake) (h : s.context p = some c) : intakeControl p.val act s = act p c s := by
  simp only [intakeControl, index?_val, h, hr, if_true]

/-! ### RESUME and STOP by the state of the context (R76, R77) -/

theorem resumeContext_off (hs : c.state = .stopped) (hu : s.up p = false) : resumeContext p c s = answer .notAllowed s := by
  simp only [resumeContext, hs, hu, if_true]

theorem resumeContext_tagged (hs : c.state = .stopped) (hu : s.up p = true) (hg : c.tag.isSome = true) :
    resumeContext p c s = answer .busy s := by
  simp only [resumeContext, hs, hu, Bool.true_eq_false, if_false, hg, if_true]

theorem resumeContext_stopped (hs : c.state = .stopped) (hu : s.up p = true) (hg : c.tag = none) :
    resumeContext p c s = answer .done (offerIntake p .go (clearContext p s)) := by
  simp only [resumeContext, hs, hu, Bool.true_eq_false, if_false, hg]
  rfl

theorem resumeContext_locked_empty (hs : c.state = .locked) (hq : c.seq = none) :
    resumeContext p c s = answer .done (offerIntake p .go (clearContext p s)) := by
  simp only [resumeContext, hs, hq]

theorem resumeContext_locked {x : Byte} {n : FaultNo} (hs : c.state = .locked) (hq : c.seq = some x)
    (hn : c.lockFault = some n) :
    resumeContext p c s = answer .done (returnContainer p (.fault n) (offerIntake p .go s)) := by
  simp only [resumeContext, hs, hq, hn, Option.getD_some]

theorem resumeContext_other (h1 : c.state ≠ .stopped) (h2 : c.state ≠ .locked) : resumeContext p c s = answer .done s := by
  cases hs : c.state <;> simp_all [resumeContext]

theorem stopControl_stopped (hs : c.state = .stopped) : stopControl p c s = answer .done (offerStop p c.stopReason s) := by
  simp only [stopControl, hs]

theorem stopControl_other (hs : c.state ≠ .stopped) : stopControl p c s =
    answer .done (offerStop p (some .mgmt) (stopContext p .mgmt (cancelHeld p c s))) := by
  cases hs : c.state <;> simp_all [stopControl]

theorem clearFlag_some {f : FaultContext} (h : s.faultContext p = some f) :
    clearFlag p s = s.setFaultContext p (some { f with flag := false }) := by
  simp only [clearFlag, h]

end Controls

/-- Settles O34: each request by its port and the state of the context there. -/
theorem intakeControls : Obligations.IntakeControls := by
  intro s r hr
  have resume : ∀ {i st t}, intakeControl i resumeContext s = answer st t → SparesPort r.port s t →
      Answers (.intakeResume r i) r st .none s t := fun e => answers_spared hr rfl e
  have stop : ∀ {i st t}, intakeControl i stopControl s = answer st t → SparesPort r.port s t →
      Answers (.intakeStopControl r i) r st .none s t := fun e => answers_spared hr rfl e
  have clear : ∀ {i st t}, intakeControl i (fun p _ t => answer .done (clearFlag p t)) s = answer st t →
      SparesPort r.port s t → Answers (.clearFault r i) r st .none s t := fun e => answers_spared hr rfl e
  refine ⟨fun i hi => ⟨resume (intakeControl_badIndex hi) (.refl _ s), stop (intakeControl_badIndex hi) (.refl _ s),
    clear (intakeControl_badIndex hi) (.refl _ s)⟩, fun p => ⟨fun hp => ⟨resume (intakeControl_notAllowed hp) (.refl _ s),
    stop (intakeControl_notAllowed hp) (.refl _ s), clear (intakeControl_notAllowed hp) (.refl _ s)⟩, fun c hp h => ?_⟩⟩
  intro resumed cleared
  have other : r.port ≠ p := fun e => by
    obtain ⟨controller, -⟩ := hr
    rw [e, hp] at controller
    cases controller
  have judged : ∀ {act}, intakeControl p.val act s = act p c s := intakeControl_some hp h
  have spared : SparesPort r.port s cleared := spares_moveContext.trans (spares_offerIntake other)
  refine ⟨fun hs hu => resume (judged.trans (resumeContext_off hs hu)) (.refl _ s),
    fun hs hu hg => resume (judged.trans (resumeContext_tagged hs hu hg)) (.refl _ s),
    fun hs hu hg => resume (judged.trans (resumeContext_stopped hs hu hg)) spared,
    fun hs hq => resume (judged.trans (resumeContext_locked_empty hs hq)) spared,
    fun q n hs hq hn => ?_, fun h1 h2 => resume (judged.trans (resumeContext_other h1 h2)) (.refl _ s),
    fun x hs hx => ?_, fun t ht => ?_, fun f hf => ⟨?_, congrArg _ (clearFlag_some hf)⟩⟩
  · obtain ⟨out, told⟩ := offerIntake_context (f := .go) h
    have back := returnContainer_some (r := .fault n) told hq
    have timers : (offerIntake p .go s).mgmt = s.mgmt := (spares_offerIntake other).mgmt
    rw [timers] at back
    exact resume (judged.trans ((resumeContext_locked hs hq hn).trans (congrArg _ back)))
      ((spares_offerIntake other).trans (spares_moveContext.trans (spares_offerIntake other)))
  · refine stop (judged.trans ((stopControl_stopped hs).trans (congrArg _ ?_))) (spares_offerIntake other)
    rw [hx]
    cases x <;> rfl
  · have held : c.state ≠ .stopped ∧ cancelHeld p c s = t := by
      obtain ⟨hs, rfl⟩ | ⟨g, hg, hs, rfl⟩ | ⟨hs, rfl⟩ := ht
      · exact ⟨by simp [hs], cancelHeld_holding hs⟩
      · exact ⟨by obtain hs | hs := hs <;> simp [hs], cancelHeld_tagged hs hg⟩
      · exact ⟨by obtain hs | hs | hs | hs := hs <;> simp [hs],
          cancelHeld_nothing (by obtain hs | hs | hs | hs := hs <;> simp [hs])⟩
    obtain ⟨running, rfl⟩ := held
    exact stop (judged.trans (stopControl_other running))
      (spares_cancelHeld.trans (spares_moveContext.trans (spares_offerIntake other)))
  · exact clear (judged.trans (congrArg _ (clearFlag_some hf))) ⟨rfl, rfl⟩

end Sys2Proof.Machine
end

section
/-! The checks of a container (R61 to R63): the first of checks 3 to 6 that fails, the weight verdict, the credit, and the notes that
a check run goes on past. -/

namespace Sys2Proof.Machine

section Checks
variable {s : State} {p : Port} {x : Sighting} {e : ArticleEntry} {a : ArticleCopy} {c : Context} {f : FaultContext} {n : Nat}

/-! ### Checks 3 to 6 (R61) -/

theorem material_differs : (x.material.isSome ∧ x.material ≠ some e.material) ↔ ∃ m, x.material = some m ∧ m ≠ e.material := by
  cases x.material <;> simp

theorem entryFault_eq : entryFault x e =
    if e.active = false then some 2
    else if x.shape ≠ e.shape then some 3
    else if ∃ m, x.material = some m ∧ m ≠ e.material then some 4
    else if e.markRequired = true ∧ x.mark = .absent then some 5
    else if e.markRequired = true ∧ x.mark = .unread then some 6
    else none := by
  simp only [entryFault, material_differs]

/-! ### The weight (R62) -/

theorem correctedWeight_eq (m : Nat) (tare : Int) : (correctedWeight m tare : Int) = max 0 ((m : Int) - tare) := by
  unfold correctedWeight
  omega

theorem weightVerdict_eq (m : Nat) (tare : Int) (low high allowance : Nat) : weightVerdict m tare low high allowance =
    if m = 65535 then .residue
    else if max 0 ((m : Int) - tare) < low then .underweight
    else if max 0 ((m : Int) - tare) ≤ high then .pass
    else if max 0 ((m : Int) - tare) ≤ high + allowance then .damp
    else .residue := by
  simp only [← correctedWeight_eq, ← Nat.cast_add, Nat.cast_lt, Nat.cast_le]
  rfl

/-! ### Articles without a crate, and crates (R62, R63) -/

theorem reportedCount_eq : reportedCount x = (x.count.map (·.val)).getD 0 := by
  unfold reportedCount
  cases x.count <;> rfl

theorem creditOf_single (h : a.entry.crate = none) : creditOf a n =
    ⟨a.tariff.deposit, [(a.tariff.scheme, a.tariff.deposit)], [(a.entry.depositClass, 1)]⟩ := by
  simp only [creditOf, h]

theorem creditOf_crate {k : CratePart} {t : TariffClass} (h : a.entry.crate = some k) (ht : a.content = some t) :
    creditOf a n =
      { credit := a.tariff.deposit + n * t.deposit
        split := if a.tariff.scheme = t.scheme then [(a.tariff.scheme, a.tariff.deposit + n * t.deposit)]
                 else [(a.tariff.scheme, a.tariff.deposit), (t.scheme, n * t.deposit)]
        classes := if a.entry.depositClass = k.contentClass then [(a.entry.depositClass, 1 + n)]
                   else [(a.entry.depositClass, 1), (k.contentClass, n)] } := by
  simp only [creditOf, h, ht]

/-! ### Notes (R60) -/

/-- A check run goes on past a note (R60). -/
theorem noteThen_passes {k : FaultNo} {next : State → State} (h : s.context p = some c) (hs : c.state ≠ .locked)
    (kind : faultKind k = .note) (hf : s.faultContext p = some f) (clear : f.flag = false)
    (act : (cell s.faults.dispositions k).action ≠ .stop) (quiet : (cell s.faults.dispositions k).report = false) :
    noteThen p k n next s = next (s.setFaultContext p (some { f with
      flag := decide ((cell s.faults.dispositions k).cls = .contributory),
      last := some ⟨k, .note, false, false, .article, n, p, c.seq, none, none, none⟩ })) := by
  have seq : seqOf s p = c.seq := by simp only [seqOf, h]
  simp only [noteThen, seq, raiseFrom_notes h hs kind hf act (.inl clear) quiet, clear, Bool.false_or]

theorem checkCount_some {tare : Int} (h : s.context p = some c) : checkCount p x tare a s =
    let s1 := s.setContext p (some { c with clampedCount := clampedCountOf x a.entry })
    if overcount x a.entry then noteThen p 16 a.position (checkWeight p x tare a ((clampedCountOf x a.entry).getD 0)) s1
    else checkWeight p x tare a ((clampedCountOf x a.entry).getD 0) s1 := by
  simp only [checkCount, editContext_some h]

end Checks

/-- Settles O28: each check by its tests in order, the credit by whether the article is a crate, and the notes by noteThen_passes. -/
theorem containersAreChecked : Obligations.ContainersAreChecked := by
  refine ⟨fun x e => ?_, ⟨weightVerdict_eq, fun a n => ⟨fun e => creditLaw_creditOf _ n, fun h => ?_, fun k t hk ht => ?_⟩⟩,
    fun s p x tare a c f h hs hf clear => ?_⟩
  · intro fail2 fail3 fail4 fail5 fail6
    rw [entryFault_eq]
    refine ⟨fun h2 => if_pos h2, fun h2 h3 => ?_, fun h2 h3 h4 => ?_, fun h2 h3 h4 h5 => ?_, fun h2 h3 h4 h6 => ?_,
      fun h2 h3 h4 h5 h6 => ?_⟩
    · rw [if_neg h2, if_pos h3]
    · rw [if_neg h2, if_neg h3, if_pos h4]
    · rw [if_neg h2, if_neg h3, if_neg h4, if_pos h5]
    · obtain ⟨-, unread⟩ := id h6
      have h5 : ¬ fail5 := fun ⟨_, absent⟩ => nomatch unread.symm.trans absent
      rw [if_neg h2, if_neg h3, if_neg h4, if_neg h5, if_pos h6]
    · rw [if_neg h2, if_neg h3, if_neg h4, if_neg h5, if_neg h6]
  · exact ⟨creditOf_single h, by simp only [lowBound, h], by simp only [highBound, h], fun x => by
      simp only [clampedCountOf, overcount, h, Option.map_none, and_self]⟩
  · rw [creditOf_crate hk ht]
    refine ⟨fun x => ?_, fun hc => if_neg hc, fun hc => if_pos hc, rfl, by simp only [lowBound, hk], by simp only [highBound, hk],
      fun hc => if_neg hc, fun hc => if_pos hc⟩
    simp only [clampedCountOf, overcount, hk, Option.map_some, reportedCount_eq, decide_eq_true_eq, and_self]
  · intro passes noted b
    refine ⟨fun hb => ?_, fun hb ⟨act, quiet⟩ => ?_, fun n hw ⟨act, quiet⟩ => ?_⟩
    · rw [checkCount_some h, hb]
      rfl
    · rw [checkCount_some h, hb]
      exact noteThen_passes (c := { c with clampedCount := b }) (setContext_context_self s p _) hs rfl hf clear act quiet
    · simp only [checkWeight, hw]
      exact noteThen_passes h hs rfl hf clear act quiet

end Sys2Proof.Machine
end

section
/-! The space of the lines (R92 to R100): capacity requests, grants, the walk of the hold queue, re-selection, removals and
releases. -/

namespace Sys2Proof.Machine

section Space
variable {s : State} {x : CapacityRequest} {l : LineIx} {t : Tag}

@[simp] theorem withQueue_self (s : State) : withQueue s s.lines.holdQueue = s := rfl

/-! ### Capacity requests (R93) -/

theorem fits_iff {q : List SegIx} {n : Nat} : fits s q n = true ↔
    ∀ g ∈ q, (cell s.lines.segments g).reserved + n ≤ (cell s.lines.segments g).capacity := by
  simp [fits]

theorem sharesSegment_iff {a b : List SegIx} : sharesSegment a b = true ↔ ∃ g ∈ a, g ∈ b := by
  simp [sharesSegment]

/-- A pitch has room on a list of segments: it fits on each, and no queued entry waits for one of them (R93). -/
def Room (s : State) (q : List SegIx) (n : Nat) : Prop :=
  (∀ g ∈ q, (cell s.lines.segments g).reserved + n ≤ (cell s.lines.segments g).capacity) ∧
    ∀ e ∈ s.lines.holdQueue, ∀ g ∈ e.segments, g ∉ q

theorem room_iff {q : List SegIx} {n : Nat} :
    Room s q n ↔ (fits s q n && !(s.lines.holdQueue.any fun e => sharesSegment e.segments q)) = true := by
  simp [Room, fits, sharesSegment]

theorem capacityRequest_room (h : selectLine s none x.start x.kept x.material = some l) (ht : lowestFree s = some t)
    (room : Room s (s.line l).record.segments x.pitch) :
    capacityRequest x s = (.granted l x.pitch t (claimGen s t), grant t x.intake x.seq l x.pitch s) := by
  simp only [capacityRequest, h, ht, if_pos (room_iff.mp room)]

theorem capacityRequest_noRoom (h : selectLine s none x.start x.kept x.material = some l)
    (full : lowestFree s = none ∨ ¬ Room s (s.line l).record.segments x.pitch) :
    capacityRequest x s = queueOrDeny x l s := by
  cases ht : lowestFree s with
  | none => simp only [capacityRequest, h, ht]
  | some t =>
    have room : ¬ Room s (s.line l).record.segments x.pitch := full.resolve_left (by simp [ht])
    simp only [capacityRequest, h, ht, if_neg (mt room_iff.mpr room)]

theorem queueOrDeny_queues (h : x.mayQueue = true) :
    queueOrDeny x l s = (.queued l x.pitch, withQueue s (s.lines.holdQueue ++ [holdEntryOf s x l])) := if_pos h

theorem queueOrDeny_denies (h : x.mayQueue = false) : queueOrDeny x l s = (.denied, s) := if_neg (by simp [h])

/-! ### Lines and segments after a grant or a release (R94, R95) -/

theorem grant_segments {p : Port} {q : Byte} {n : Nat} (h : (s.line l).record.segments.Nodup) (k : SegIx) :
    cell (grant t p q l n s).lines.segments k = if k ∈ (s.line l).record.segments then
      { cell s.lines.segments k with reserved := (cell s.lines.segments k).reserved + n } else cell s.lines.segments k :=
  cell_adjustSegments (reserve n) h _ _

/-- The lines as a release leaves them, the queue not yet walked (R95). -/
def released (t : Tag) (g : Gen) (l : LineIx) (n : Nat) (q : List SegIx) (s : State) : State :=
  { s with lines := { s.lines with
    segments := adjustSegments (unreserve n) q s.lines.segments
    tags := put s.lines.tags t ⟨true, g⟩
    lines := put s.lines.lines l { s.line l with live := (s.line l).live - 1 } } }

theorem released_segments {g : Gen} {n : Nat} {q : List SegIx} (h : q.Nodup) (k : SegIx) :
    cell (released t g l n q s).lines.segments k = if k ∈ q then
      { cell s.lines.segments k with reserved := (cell s.lines.segments k).reserved - n } else cell s.lines.segments k :=
  cell_adjustSegments (unreserve n) h _ _

theorem release_stale {g : Gen} {n : Nat} {q : List SegIx}
    (h : (cell s.lines.tags t).free = true ∨ (cell s.lines.tags t).gen ≠ g) : release t g l n q s = s := if_pos h

theorem release_claimed {g : Gen} {n : Nat} {q : List SegIx} (hf : (cell s.lines.tags t).free = false)
    (hg : (cell s.lines.tags t).gen = g) : release t g l n q s = walk (released t g l n q s) := by
  subst hg
  exact if_neg (by simp [hf])

/-! ### The walk of the hold queue (R97) -/

section Walk
variable {w : Walk} {e : HoldEntry}

theorem walkEntry_ended (h : w.ended = true) : walkEntry w e = { w with left := w.left ++ [e] } := if_pos h

theorem walkEntry_noTag (h : w.ended = false) (ht : lowestFree w.state = none) :
    walkEntry w e = { w with left := w.left ++ [e], ended := true } := by
  simp [walkEntry, h, ht]

theorem walkEntry_passes (h : w.ended = false) (ht : lowestFree w.state = some t)
    (hb : (∃ g ∈ e.segments, g ∈ w.blocked) ∨ fits w.state e.segments e.pitch = false) :
    walkEntry w e = { w with left := w.left ++ [e], blocked := w.blocked ++ e.segments } := by
  cases hs : sharesSegment e.segments w.blocked with
  | true => simp [walkEntry, h, ht, hs]
  | false =>
    have hf : fits w.state e.segments e.pitch = false := hb.resolve_left (by simp [← sharesSegment_iff, hs])
    simp [walkEntry, h, ht, hs, hf]

theorem walkEntry_grants (h : w.ended = false) (ht : lowestFree w.state = some t)
    (hb : ¬ ∃ g ∈ e.segments, g ∈ w.blocked) (hf : fits w.state e.segments e.pitch = true) :
    walkEntry w e = { w with
      state := (grant t e.intake e.seq e.line e.pitch w.state).post
        (.grantNotice e.intake e.seq t (claimGen w.state t) e.line e.pitch) } := by
  have hs : sharesSegment e.segments w.blocked = false := by simpa [← sharesSegment_iff] using hb
  simp [walkEntry, h, ht, hs, hf]

theorem walk_empty (h : s.lines.holdQueue = []) : walk s = s := by
  rw [walk, h]
  show withQueue s [] = s
  rw [← h, withQueue_self]

end Walk

/-! ### Line selection (R89) and re-selection (R100) -/

theorem materialCode_eq (m : Material) : materialCode m = codeOf materials m := by
  cases m <;> rfl

theorem usable_iff {x : Line} : usable x = true ↔ x.state = .opened ∨ x.state = .nearFull := by
  simp [usable]

theorem accepts_iff {x : Line} {m : Option Material} :
    accepts x m = true ↔ ∀ y, m = some y → hasBit x.record.materials (codeOf materials y) = true := by
  cases m <;> simp [accepts, materialCode_eq]

/-- A line takes a container of a material when line l is excluded (R89, R100). -/
def Takes (u : State) (l : LineIx) (m : Option Material) (k : LineIx) : Prop :=
  k ≠ l ∧ ((u.line k).state = .opened ∨ (u.line k).state = .nearFull) ∧
    ∀ y, m = some y → hasBit (u.line k).record.materials (codeOf materials y) = true

theorem takes_iff {u : State} {m : Option Material} {k : LineIx} : Takes u l m k ↔ choosable u (some l) m k = true := by
  simp only [Takes, choosable, Bool.and_eq_true, bne_iff_ne, usable_iff, accepts_iff, Option.some.injEq, ne_comm, ne_eq, and_assoc]

section Select
variable {start : LineIx} {kept : Bool} {m : Option Material}

theorem selectLine_start (h : Takes s l m start) : selectLine s (some l) start kept m = some start :=
  if_pos (takes_iff.mp h)

theorem selectLine_overflow {o : LineIx} (hs : ¬ Takes s l m start) (ho : (s.line start).record.overflow = some o)
    (h : Takes s l m o) : selectLine s (some l) start false m = some o := by
  simp [selectLine, mt takes_iff.mpr hs, ho, takes_iff.mp h]

theorem selectLine_none (hs : ¬ Takes s l m start)
    (ho : kept = true ∨ ∀ o, (s.line start).record.overflow = some o → ¬ Takes s l m o) :
    selectLine s (some l) start kept m = none := by
  have hs' := mt takes_iff.mpr hs
  cases kept with
  | true => simp [selectLine, hs']
  | false =>
    have ho := ho.resolve_left (by simp)
    cases h : (s.line start).record.overflow with
    | none => simp [selectLine, hs', h]
    | some o => simp [selectLine, hs', h, mt takes_iff.mpr (ho o h)]

end Select

section Reselect
variable {w : Reselection} {e : HoldEntry}

theorem reselectEntry_moves {m : LineIx} (h : selectLine w.state (some l) e.start e.kept e.material = some m) :
    reselectEntry l w e = ⟨w.queue ++ [{ e with line := m, segments := (w.state.line m).record.segments }],
      w.state.post (.reselectionNotice e.intake e.seq (some m) e.start)⟩ := by
  simp only [reselectEntry, h]

theorem reselectEntry_removes (h : selectLine w.state (some l) e.start e.kept e.material = none) :
    reselectEntry l w e = ⟨w.queue, w.state.post (.reselectionNotice e.intake e.seq none e.start)⟩ := by
  simp only [reselectEntry, h]

/-- The fold over entries of which none is re-selected only rebuilds the queue. -/
theorem reselectFold_keeps {which : HoldEntry → Bool} {q : List HoldEntry} (h : ∀ e ∈ q, e.line ≠ l ∨ which e = false) :
    ∀ w : Reselection, q.foldl (reselectStep l which) w = { w with queue := w.queue ++ q } := by
  induction q with
  | nil => intro w; simp
  | cons e q ih =>
    intro w
    have he : ¬ (e.line = l ∧ which e = true) := by
      rintro ⟨hl, hw⟩
      exact (h e List.mem_cons_self).elim (fun a => a hl) (by simp [hw])
    rw [List.foldl_cons, ih (fun a ha => h a (List.mem_cons_of_mem _ ha)), reselectStep, if_neg he]
    simp

theorem reselect_keeps {which : HoldEntry → Bool} (h : ∀ e ∈ s.lines.holdQueue, e.line ≠ l ∨ which e = false) :
    reselect l which s = s := by
  rw [reselect_eq, reselectFold_keeps h]
  exact withQueue_self s

end Reselect

/-! ### Removals (R99) -/

section Removals
variable {p : Port}

theorem removeEntry_absent (h : ∀ e ∈ s.lines.holdQueue, e.intake ≠ p) : removeEntry p s = walk s := by
  rw [removeEntry, List.eraseP_of_forall_not (by simpa using h), withQueue_self]

theorem removeEntry_present {a b : List HoldEntry} {e : HoldEntry} (hq : s.lines.holdQueue = a ++ e :: b)
    (he : e.intake = p) (ha : ∀ x ∈ a, x.intake ≠ p) : removeEntry p s = walk (withQueue s (a ++ b)) := by
  rw [removeEntry, hq, List.eraseP_append_right _ (by simpa using ha), List.eraseP_cons_of_pos (by simpa using he)]

end Removals
end Space

/-- Settles O37: each part is the rule of its operation, on the state or the entry it meets. -/
theorem spaceIsGranted : Obligations.SpaceIsGranted := by
  intro s
  refine ⟨fun x => ⟨capacityRequest_noLine, fun l h => ?requests⟩, fun t l hd p q n => ?grants, fun w e => ?entries, rfl,
    walk_empty, fun l w e => ?reselected, fun l which => ⟨rfl, reselect_keeps⟩, fun p h => congrArg _ (removeEntry_absent h),
    fun p a e b hq he ha => congrArg _ (removeEntry_present hq he ha), fun t g l n q => ?releases⟩
  case requests =>
    refine ⟨fun t ht room => capacityRequest_room h ht room, fun full => ⟨fun hq => ?_, fun hq => ?_⟩⟩
    · exact (capacityRequest_noRoom h full).trans (queueOrDeny_queues hq)
    · exact (capacityRequest_noRoom h full).trans (queueOrDeny_denies hq)
  case grants =>
    exact ⟨grant_segments hd, rfl, cell_put_self .., fun k hk => cell_put_ne _ _ hk, rfl, rfl, rfl, rfl⟩
  case entries =>
    exact ⟨walkEntry_ended, walkEntry_noTag, fun t h ht => ⟨walkEntry_passes h ht, walkEntry_grants h ht⟩⟩
  case reselected =>
    refine ⟨fun h => reselectEntry_moves (selectLine_start h), fun hs => ⟨fun o hk ho h => reselectEntry_moves ?_, fun ho => ?_⟩⟩
    · rw [hk]
      exact selectLine_overflow hs ho h
    · exact reselectEntry_removes (selectLine_none hs ho)
  case releases =>
    exact ⟨fun h => congrArg _ (release_stale h), fun hf hg hd => ⟨released t g l n q s, congrArg _ (release_claimed hf hg),
      released_segments hd, rfl, cell_put_self .., fun k hk => cell_put_ne _ _ hk, rfl, rfl, rfl⟩⟩

end Sys2Proof.Machine
end

section
/-! A SIGHTING by the state of the intake's context (R59 to R65): the check run of a container seen in IDLE, what rejects it, the
session that is not ready, and the grant. -/

namespace Sys2Proof.Machine

section Sighting
variable {s : State} {p : Port} {x : Sighting} {c d : Context} {a : ArticleCopy} {n i k : Nat}

/-! ### The states that take no container (R59) -/

/-- PRESENT touches the tally unit alone (R132). -/
theorem restartIdle_tally (p : Port) (s : State) : ∃ u, restartIdle p s = { s with tally := u } := by
  unfold restartIdle
  (repeat' split) <;> exact ⟨_, rfl⟩

theorem sighting_none (h : s.context p = none) : sighting p x s = s := by
  simp only [sighting, h]

theorem sighting_some (h : s.context p = some c) : sighting p x s = sightingBy p x (restartIdle p s) := by
  simp only [sighting, h]

theorem sightingBy_stopped (h : s.context p = some c) (hs : c.state = .stopped) :
    sightingBy p x s = offerIntake p (.giveBack x.seq .stopped) s := by
  simp only [sightingBy, h, hs]

theorem sightingBy_locked (h : s.context p = some c) (hs : c.state = .locked) :
    sightingBy p x s = offerIntake p (.stop .locked) s := by
  simp only [sightingBy, h, hs]

theorem sightingBy_busy (h : s.context p = some c) (h1 : c.state ≠ .stopped) (h2 : c.state ≠ .locked) (h3 : c.state ≠ .idle) :
    sightingBy p x s = if c.seq = some x.seq then s else
      let r := raiseFrom p 15 .none 0 none none c.seq s
      applyOutcome p 15 r.1 r.2 := by
  cases hs : c.state with
  | stopped => exact absurd hs h1
  | locked => exact absurd hs h2
  | idle => exact absurd hs h3
  | holding => simp only [sightingBy, h, hs]
  | paused => simp only [sightingBy, h, hs]
  | gating => simp only [sightingBy, h, hs]
  | releasing => simp only [sightingBy, h, hs]
  | returning => simp only [sightingBy, h, hs]

/-! ### IDLE (R59) -/

theorem sightingBy_idle (h : s.context p = some c) (hs : c.state = .idle) : sightingBy p x s = sightingIdle p x s := by
  simp only [sightingBy, h, hs]

/-- The context with the copies of a sighting (R57, R59). -/
def Context.sighted (c : Context) (x : Sighting) (e : PortEntry) : Context :=
  { c with seq := some x.seq, sighting := some x, tareCopy := some e.tare, holdCopy := some e.holdLimit }

theorem sightingIdle_roomStop (h : s.context p = some c) (stopped : s.admission.roomStop = true) :
    sightingIdle p x s = offerIntake p (.hold x.seq .roomStop)
      (moveContext p { c.sighted x (s.port p).entry with state := .paused, pause := some .roomStop } s) := by
  simp only [sightingIdle, editContext_some h, stopped, if_true, setContext_context_self]
  exact congrArg _ (moveContext_setContext (d := c.sighted x _) h ⟨rfl, rfl, rfl⟩ _)

theorem sightingIdle_runs (h : s.context p = some c) (clear : s.admission.roomStop = false) :
    sightingIdle p x s = runChecks p (s.setContext p (some (c.sighted x (s.port p).entry))) := by
  simp only [sightingIdle, editContext_some h, clear]
  rfl

/-! ### The run through checks 1 to 9 (R61 to R63) -/

theorem editContext_setContext {f : Context → Context} :
    editContext p f (s.setContext p (some d)) = s.setContext p (some (f d)) := by
  rw [editContext_some (setContext_context_self s p (some d)), setContext_setContext]

theorem runChecks_unread (hx : d.sighting = some x) (h0 : x.code = 0) :
    runChecks p (s.setContext p (some d)) = reject p 0 .none 0 (s.setContext p (some d)) := by
  simp only [runChecks, setContext_context_self, hx, h0, if_true]

theorem runChecks_read (hx : d.sighting = some x) (h0 : x.code ≠ 0) :
    runChecks p (s.setContext p (some d)) = checkLookup p x (d.tareCopy.getD 0) (s.setContext p (some d)) := by
  simp only [runChecks, setContext_context_self, hx, h0, if_false]

variable {tare : Int}

theorem checkLookup_notFound (h : lookup s.catalogue x.code = .notFound k) :
    checkLookup p x tare s = reject p 1 .none 0 s := by
  simp only [checkLookup, h]

theorem checkLookup_rejects {m : FaultNo} (h : lookup s.catalogue x.code = .found a) (hf : entryFault x a.entry = some m) :
    checkLookup p x tare (s.setContext p (some d)) =
      reject p m .article a.position (s.setContext p (some { d with article := some a })) := by
  simp only [checkLookup, setContext_catalogue, h, hf, editContext_setContext]

/-- The context after checks 1 to 7: the article and the clamped count of a crate (R61, R62). -/
def Context.identified (d : Context) (x : Sighting) (a : ArticleCopy) : Context :=
  { d with article := some a, clampedCount := clampedCountOf x a.entry }

/-- A container that comes to check 8 without a fault or a note. -/
theorem checkLookup_weighs (h : lookup s.catalogue x.code = .found a) (hf : entryFault x a.entry = none)
    (count : overcount x a.entry = false) : checkLookup p x tare (s.setContext p (some d)) =
      checkWeight p x tare a ((clampedCountOf x a.entry).getD 0) (s.setContext p (some (d.identified x a))) := by
  simp only [checkLookup, setContext_catalogue, h, hf, editContext_setContext, checkCount_some (setContext_context_self s p _),
    count, setContext_setContext]
  rfl

theorem checkWeight_residue (h : weightVerdict x.weight.val tare (lowBound a.entry n) (highBound a.entry n) a.allowance = .residue) :
    checkWeight p x tare a n s = reject p 8 .article a.position s := by
  simp only [checkWeight, h]

theorem checkWeight_underweight
    (h : weightVerdict x.weight.val tare (lowBound a.entry n) (highBound a.entry n) a.allowance = .underweight) :
    checkWeight p x tare a n s = reject p 7 .article a.position s := by
  simp only [checkWeight, h]

theorem checkWeight_pass (h : weightVerdict x.weight.val tare (lowBound a.entry n) (highBound a.entry n) a.allowance = .pass) :
    checkWeight p x tare a n s = checkCredit p a n s := by
  simp only [checkWeight, h]

theorem checkCredit_over (h : (s.port p).entry.creditLimit < (creditOf a n).credit) :
    checkCredit p a n s = reject p 9 .cls a.entry.depositClass.val s := if_pos h

theorem checkCredit_within (h : (creditOf a n).credit ≤ (s.port p).entry.creditLimit) :
    checkCredit p a n (s.setContext p (some d)) = checkSession takeChamber p (creditOf a n).credit (s.port p).entry.creditLimit
      (s.setContext p (some { d with credit := some (creditOf a n) })) := by
  refine (if_neg (Nat.not_lt.mpr h)).trans ?_
  rw [editContext_setContext]
  rfl

/-- The context after checks 1 to 9 (R61 to R63). -/
def Context.credited (d : Context) (x : Sighting) (a : ArticleCopy) : Context :=
  { d.identified x a with credit := some (creditOf a ((clampedCountOf x a.entry).getD 0)) }

/-- A container that passes checks 1 to 9 without a note comes to check 10 with its credit. -/
theorem runChecks_credits (h0 : x.code ≠ 0) (ha : lookup s.catalogue x.code = .found a) (hf : entryFault x a.entry = none)
    (count : overcount x a.entry = false) :
    let e := (s.port p).entry
    let n := (clampedCountOf x a.entry).getD 0
    weightVerdict x.weight.val e.tare (lowBound a.entry n) (highBound a.entry n) a.allowance = .pass →
    (creditOf a n).credit ≤ e.creditLimit →
    runChecks p (s.setContext p (some (c.sighted x e))) = checkSession takeChamber p (creditOf a n).credit e.creditLimit
      (s.setContext p (some ((c.sighted x e).credited x a))) := by
  intro e n verdict within
  have seen : (c.sighted x e).sighting = some x := rfl
  have tare : (c.sighted x e).tareCopy.getD 0 = e.tare := rfl
  rw [runChecks_read seen h0, tare, checkLookup_weighs ha hf count, checkWeight_pass verdict, checkCredit_within within]
  rfl

/-! ### A run that ends in a fault (R60, R71, R73) -/

theorem entryFault_reject {m : FaultNo} (h : entryFault x a.entry = some m) : faultKind m = .reject := by
  unfold entryFault at h
  (repeat' split at h) <;> cases h <;> rfl

/-- A benign REJECT fault that is not reported and whose disposition is RETURN gives the container back, whatever the run has
recorded of it. -/
theorem reject_returns {f : FaultContext} {m : FaultNo} {q : Byte} {table : ErrorTable} (h : s.context p = some c)
    (e : d.EditOf c) (hq : d.seq = some q) (hs : c.state ≠ .locked) (hf : ReturnsQuietly s p m f)
    (benign : (cell s.faults.dispositions m).cls = .benign) :
    reject p m table i (s.setContext p (some d)) = offerIntake p (.giveBack q (.fault m)) (moveContext p
      { Context.blank .returning with seq := some q, handoverTimer := startTimer s.mgmt.timers.handover }
      (s.setFaultContext p (some { f with last := some ⟨m, .reject, false, false, table, i, p, some q, none, none, none⟩ }))) := by
  have seq : seqOf (s.setContext p (some d)) p = some q := by simp only [seqOf, setContext_context_self, hq]
  rw [reject, seq]
  refine (chamberFault_returns h e hq hs hf).trans ?_
  simp [benign]

/-- The faults of checks 1 to 9, all but a note, with the table and the index they are raised with. -/
def RunFault (s : State) (p : Port) (x : Sighting) (m : FaultNo) (table : ErrorTable) (i : Nat) : Prop :=
  let e := (s.port p).entry
  x.code = 0 ∧ m = 0 ∧ table = .none ∧ i = 0 ∨
  x.code ≠ 0 ∧ (∃ k, lookup s.catalogue x.code = .notFound k) ∧ m = 1 ∧ table = .none ∧ i = 0 ∨
  (x.code ≠ 0 ∧ ∃ a, lookup s.catalogue x.code = .found a ∧ entryFault x a.entry = some m ∧ table = .article ∧
    i = a.position) ∨
  (x.code ≠ 0 ∧ ∃ a, lookup s.catalogue x.code = .found a ∧ entryFault x a.entry = none ∧ overcount x a.entry = false ∧
    let b := (clampedCountOf x a.entry).getD 0
    let verdict := weightVerdict x.weight.val e.tare (lowBound a.entry b) (highBound a.entry b) a.allowance
    (verdict = .underweight ∧ m = 7 ∧ table = .article ∧ i = a.position ∨
      verdict = .residue ∧ m = 8 ∧ table = .article ∧ i = a.position ∨
      verdict = .pass ∧ e.creditLimit < (creditOf a b).credit ∧ m = 9 ∧ table = .cls ∧ i = a.entry.depositClass.val))

theorem RunFault.reject {m : FaultNo} {table : ErrorTable} (h : RunFault s p x m table i) : faultKind m = .reject := by
  obtain ⟨-, rfl, -⟩ | ⟨-, -, rfl, -⟩ | ⟨-, a, -, fault, -⟩ | ⟨-, a, -, -, -, ⟨-, rfl, -⟩ | ⟨-, rfl, -⟩ | ⟨-, -, rfl, -⟩⟩ := h
  case inr.inr.inl => exact entryFault_reject fault
  all_goals rfl

/-- The run rejects the container for the fault, with an edit of the sighted context in place. -/
theorem runChecks_rejects {m : FaultNo} {table : ErrorTable} (h : RunFault s p x m table i) :
    let d := c.sighted x (s.port p).entry
    ∃ d' : Context, d'.EditOf c ∧ d'.seq = some x.seq ∧
      runChecks p (s.setContext p (some d)) = Machine.reject p m table i (s.setContext p (some d')) := by
  intro d
  have seen : d.sighting = some x := rfl
  obtain ⟨h0, rfl, rfl, rfl⟩ | ⟨h0, ⟨k, hk⟩, rfl, rfl, rfl⟩ | ⟨h0, a, ha, hf, rfl, rfl⟩ | ⟨h0, a, ha, hf, count, verdict⟩ := h
  · exact ⟨d, ⟨rfl, rfl, rfl⟩, rfl, runChecks_unread seen h0⟩
  · exact ⟨d, ⟨rfl, rfl, rfl⟩, rfl, (runChecks_read seen h0).trans (checkLookup_notFound hk)⟩
  · exact ⟨{ d with article := some a }, ⟨rfl, rfl, rfl⟩, rfl, (runChecks_read seen h0).trans (checkLookup_rejects ha hf)⟩
  · refine ⟨d.identified x a, ⟨rfl, rfl, rfl⟩, rfl, (runChecks_read seen h0).trans ((checkLookup_weighs ha hf count).trans ?_)⟩
    obtain ⟨light, rfl, rfl, rfl⟩ | ⟨residue, rfl, rfl, rfl⟩ | ⟨pass, beyond, rfl, rfl, rfl⟩ := verdict
    · exact checkWeight_underweight light
    · exact checkWeight_residue residue
    · exact (checkWeight_pass pass).trans (checkCredit_over beyond)

/-! ### Check 10 (R64, R127) -/

section Session
variable {take : OutcomeTaker} {y : Session} {limit : Nat}

theorem takeNotes_none (h : ∀ m ∈ s.mail, isNoteOf p m = false) : takeNotes p s = s := takeWaiting_none h

theorem markWaiting_some (h : s.session p = some y) : markWaiting p s = s.setSession p (some { y with ctxWaiting := true }) := by
  simp only [markWaiting, h]

theorem sessionTest_closingWait (h : s.session p = some y) (hs : y.state = .closingWait) :
    sessionTest p k limit s = (.waiting, s.setSession p (some { y with limit := limit, ctxWaiting := true })) := by
  simp only [sessionTest, h, hs, markWaiting_some (setSession_session_self s p _), setSession_setSession]

theorem sessionTest_fits (h : s.session p = some y) (hs : y.state = .idle ∨ y.state = .opened)
    (room : y.total + awaitedCredit y + k ≤ limit) :
    sessionTest p k limit s = (.fits, s.setSession p (some { y with limit := limit })) := by
  obtain hs | hs := hs <;> simp only [sessionTest, h, hs, if_pos room]

/-- A container whose session waits to close is PAUSED, whatever its context has been edited to (R64). -/
theorem checkSession_pauses {q : Byte} (h : s.context p = some c) (e : d.EditOf c) (hq : d.seq = some q)
    (hy : s.session p = some y) (hs : y.state = .closingWait) (notes : ∀ m ∈ s.mail, isNoteOf p m = false) :
    checkSession take p k limit (s.setContext p (some d)) = offerIntake p (.hold q .counterBusy) (moveContext p
      { d with state := .paused, pause := some .counterBusy, line := none, pitch := none, tag := none, holdTimer := none }
      (s.setSession p (some { y with limit := limit, ctxWaiting := true }))) := by
  have busy := sessionTest_closingWait (s := s.setContext p (some d)) (k := k) (limit := limit) hy hs
  have here : ((s.setContext p (some d)).setSession p (some { y with limit := limit, ctxWaiting := true })).context p = some d :=
    setContext_context_self s p _
  simp only [checkSession, takeNotes_none (s := s.setContext p (some d)) notes, busy, pauseForCounter, here, hq]
  exact congrArg _ (moveContext_setContext (s := s.setSession p _) h e _)

theorem checkSession_fits (hy : s.session p = some y) (hs : y.state = .idle ∨ y.state = .opened)
    (room : y.total + awaitedCredit y + k ≤ limit) (notes : ∀ m ∈ s.mail, isNoteOf p m = false) :
    checkSession take p k limit (s.setContext p (some d)) =
      checkCapacity take p ((s.setSession p (some { y with limit := limit })).setContext p (some d)) := by
  have ready := sessionTest_fits (s := s.setContext p (some d)) hy hs room
  simp only [checkSession, takeNotes_none (s := s.setContext p (some d)) notes, ready]
  rfl

end Session

/-! ### Checks 11 and 12 (R65) -/

/-- A container with a free tag and space is granted its line, whatever its context has been edited to (R65, R94). -/
theorem checkCapacity_gates {take : OutcomeTaker} {l : LineIx} {t : Tag} {kr : ContainerCredit} (h : s.context p = some c)
    (e : d.EditOf c) (hx : d.sighting = some x) (hq : d.seq = some x.seq) (ha : d.article = some a) (hk : d.keep = none)
    (hc : d.credit = some kr) (removals : .removalRequest p ∉ s.mail)
    (line : selectLine s none a.entry.line false (some a.entry.material) = some l) (free : lowestFree s = some t)
    (room : Room s (s.line l).record.segments (cell s.lines.pitches (shapeIndex a.entry.shape))) :
    let pitch := cell s.lines.pitches (shapeIndex a.entry.shape)
    checkCapacity take p (s.setContext p (some d)) = moveContext p
      { d with state := .gating, line := some l, pitch := some pitch, tag := some ⟨t, claimGen s t⟩, pause := none,
               holdTimer := none }
      ((grant t p x.seq l pitch s).post (.containerRecord t (claimGen s t) ⟨p, x.seq, ⟨a.entry.code, false, kr⟩⟩)) := by
  intro pitch
  have asked : capacityOf p d x (s.setContext p (some d)) =
      ⟨p, x.seq, a.entry.line, false, some a.entry.material, pitch, d.holdCopy != some 0⟩ := by
    simp only [capacityOf, startLine, materialOf, shapeOf, ha, hk]
    rfl
  have granted : capacityRequest (capacityOf p d x (s.setContext p (some d))) (s.setContext p (some d)) =
      (.granted l pitch t (claimGen s t), grant t p x.seq l pitch (s.setContext p (some d))) := by
    rw [asked]
    exact capacityRequest_room (s := s.setContext p (some d)) line free room
  have record : recordOf p d = ⟨p, x.seq, ⟨a.entry.code, false, kr⟩⟩ := by
    simp only [recordOf, hq, ha, hk, hc]
    rfl
  rw [checkCapacity_granted (setContext_context_self s p _) hx removals granted, enterGating, record]
  exact moveContext_setContext (s := (grant t p x.seq l pitch s).post _) h e _

end Sighting

/-- Settles O27: each part by the lemmas of its state and of the checks the container comes to. -/
theorem sightingsAreTaken : Obligations.SightingsAreTaken := by
  intro s s1 p x h1
  obtain ⟨u, hu⟩ := restartIdle_tally p s
  obtain rfl : s1 = { s with tally := u } := by
    rw [← hu]
    exact (Host.Outcome.next.inj h1).symm
  refine ⟨fun h => congrArg _ (sighting_none h), fun c h => ?_⟩
  have hc : ({ s with tally := u } : State).context p = some c := h
  have taken : exec (.sighting p x) s = .next (sightingBy p x { s with tally := u }) := by
    rw [← hu, ← sighting_some h]
    rfl
  rw [taken]
  refine ⟨fun hs => congrArg _ (sightingBy_stopped hc hs), fun hs => congrArg _ (sightingBy_locked hc hs),
    fun h1 h2 h3 same => congrArg _ ?_, fun o v h1 h2 h3 other raised => ?_, fun hs => ?idle⟩
  · rw [sightingBy_busy hc h1 h2 h3, if_pos same]
  · rw [sightingBy_busy hc h1 h2 h3, if_neg other, raiseFrom_some hc, if_neg (by decide), raised]
    rfl
  case idle =>
    intro e d
    rw [sightingBy_idle hc hs]
    refine ⟨fun stopped => congrArg _ (sightingIdle_roomStop hc stopped), fun clear => ?_⟩
    rw [sightingIdle_runs hc clear]
    refine ⟨fun a l t y h0 ha hf => ?passes, fun m table i f fault hf act benign quiet => congrArg _ ?rejects⟩
    case rejects =>
      obtain ⟨d', edit, seq, run⟩ := runChecks_rejects (s := { s with tally := u }) (c := c) fault
      have returns : ReturnsQuietly { s with tally := u } p m f := ⟨RunFault.reject fault, hf, act, .inr benign, quiet⟩
      exact run.trans (reject_returns hc edit seq (by rw [hs]; nofun) returns benign)
    case passes =>
      intro b n count verdict kr within hy notes
      rw [runChecks_credits (s := { s with tally := u }) h0 ha hf count verdict within]
      refine ⟨fun waits => congrArg _ ?_, ?_⟩
      · exact checkSession_pauses hc ⟨rfl, rfl, rfl⟩ rfl hy waits notes
      · intro state room removals keep line free pitch fit alone
        refine congrArg _ ((checkSession_fits hy state room notes).trans ?_)
        exact checkCapacity_gates (s := State.setSession { s with tally := u } p _) hc ⟨rfl, rfl, rfl⟩ rfl rfl rfl keep rfl
          removals line free ⟨fits_iff.mp fit, alone⟩

end Sys2Proof.Machine
end

section
/-! Line states and line selection (R84, R85, R89). -/

namespace Sys2Proof.Machine

section LineState
variable {s : State} {l : LineIx} {x : Line} {m : Option Material}

/-! ### The state a line derives (R85) -/

theorem other_iff {c : Causes} :
    c.other = true ↔ c.binFullSense = true ∨ c.fillFull = true ∨ c.binDown = true ∨ c.routeDown = true := by
  simp [Causes.other, or_assoc]

theorem derivedState_eq (x : Line) : derivedState x =
    if x.causes.mgmtDisabled then .disabled
    else if x.causes.binFullSense ∨ x.causes.fillFull ∨ x.causes.binDown ∨ x.causes.routeDown then .closed
    else if x.record.nearFull ≤ x.lastFill then .nearFull else .opened := by
  simp only [derivedState, other_iff]

/-- The messages a change of state sends: the condition of CLOSED or NEAR_FULL, then the report (R85). -/
def changeMessages (l : LineIx) (n : LineState) : List Instr :=
  match n with
  | .closed => [.conditionRequest .lineClosed, .lineStateReport l n]
  | .nearFull => [.conditionRequest .lineNearFull, .lineStateReport l n]
  | _ => [.lineStateReport l n]

/-- A line moved to the state it derives, and the change told (R85). -/
def tellState (l : LineIx) (s : State) : State :=
  { s.setLine l { s.line l with state := derivedState (s.line l) } with
    mail := s.mail ++ changeMessages l (derivedState (s.line l)) }

/-- The condition and the report of a change of state are its messages (R85). -/
theorem stateConditions_post (n : LineState) (t : State) :
    (stateConditions n t).post (.lineStateReport l n) = { t with mail := t.mail ++ changeMessages l n } := by
  cases n <;> simp [stateConditions, changeMessages, State.request, State.post]

theorem rederive_same (h : derivedState (s.line l) = (s.line l).state) : rederive l s = s := if_pos h

/-- What follows a change of state: nothing while the line stays usable or unusable, a walk when it becomes usable, a
re-selection and a walk when it stops being so (R85). -/
theorem rederive_changed (h : derivedState (s.line l) ≠ (s.line l).state) : rederive l s =
    if usable (s.line l) then
      if usable { s.line l with state := derivedState (s.line l) } then tellState l s
      else walk (reselect l (fun _ => true) (tellState l s))
    else if usable { s.line l with state := derivedState (s.line l) } then walk (tellState l s)
    else tellState l s := by
  rw [rederive, if_neg h]
  simp only [stateConditions_post]
  rfl

/-! ### Line selection (R89) -/

theorem choosable_iff {k : LineIx} : choosable s none m k = true ↔
    ((s.line k).state = .opened ∨ (s.line k).state = .nearFull) ∧
      ∀ y, m = some y → hasBit (s.line k).record.materials (codeOf materials y) = true := by
  simp [choosable, usable_iff, accepts_iff]

end LineState

/-- Settles O35: the derived state by its definition, a change by whether the line was and is usable, and selection by whether
the starting line takes the container. -/
theorem linesDeriveTheirState : Obligations.LinesDeriveTheirState := by
  intro s l
  refine ⟨derivedState_eq _, rederive_same, fun change => ?changes, fun kept m => ?selection⟩
  case changes =>
    rw [rederive_changed change]
    exact ⟨fun was now => (if_pos (usable_iff.mpr was)).trans (if_pos (usable_iff.mpr now)),
      fun was now => (if_neg (mt usable_iff.mp was)).trans (if_neg (mt usable_iff.mp now)),
      fun was now => (if_neg (mt usable_iff.mp was)).trans (if_pos (usable_iff.mpr now)),
      fun was now => (if_pos (usable_iff.mpr was)).trans (if_neg (mt usable_iff.mp now))⟩
  case selection =>
    cases h : (s.line l).record.overflow <;> simp only [selectLine, choosable_iff, h]

end Sys2Proof.Machine
end

section
/-! The causes of a line and where they come from (R84, R86 to R88, R165), and what the line unit leaves of the ports and of the
management unit. -/

namespace Sys2Proof.Machine

/-- The ports and the management unit: what the line unit never touches. -/
def desk (s : State) : Vector LinkPort 12 × ManagementUnit := (s.ports, s.mgmt)

section Causes
variable {s t : State} {l : LineIx} {p : Port}

/-! ### The ports and the management unit under the line unit's operations -/

theorem desk_walkEntry {w : Walk} {e : HoldEntry} : desk (walkEntry w e).state = desk w.state := by
  unfold walkEntry
  (repeat' split) <;> rfl

@[simp] theorem desk_walk : desk (walk s) = desk s := by
  have walked : ∀ (q : List HoldEntry) (w : Walk), desk (q.foldl walkEntry w).state = desk w.state := by
    intro q
    induction q with
    | nil => exact fun _ => rfl
    | cons e q ih => exact fun w => (ih _).trans desk_walkEntry
  exact walked _ _

@[simp] theorem desk_reselect {which : HoldEntry → Bool} : desk (reselect l which s) = desk s := by
  have selected : ∀ (q : List HoldEntry) (w : Reselection), desk (q.foldl (reselectStep l which) w).state = desk w.state := by
    intro q
    induction q with
    | nil => exact fun _ => rfl
    | cons e q ih =>
      refine fun w => (ih _).trans ?_
      unfold reselectStep reselectEntry
      (repeat' split) <;> rfl
  exact selected _ ⟨[], s⟩

@[simp] theorem desk_rederive : desk (rederive l s) = desk s := by
  by_cases same : derivedState (s.line l) = (s.line l).state
  · rw [rederive_same same]
  · have told : desk (tellState l s) = desk s := rfl
    rw [rederive_changed same]
    (repeat' split) <;> simp [told]

theorem upWithRole_of_desk (h : desk t = desk s) (r : Role) (q : Port) : upWithRole t r q = upWithRole s r q := by
  have ports : t.ports = s.ports := congrArg Prod.fst h
  simp only [upWithRole, State.up, State.role, State.port, ports]

/-- A request that changes the lines and the messages alone is answered at the tail of its port's queue (R172). -/
theorem manage_answers_desk {r : Requester} {owner : State → Answer} {st : Status} {d : ReplyData}
    (h : ServesRequests s r.port) (e : owner s = ⟨st, d, t⟩) (k : desk t = desk s) :
    manage r owner s = enqueue t r.port (.mgmtReply ⟨r.tag, st, d⟩) :=
  manage_answers h e (congrArg Prod.fst k) (congrArg (ManagementUnit.slots ∘ Prod.snd) k)

/-! ### The lines a command names -/

/-- A list of all indices filtered to one. -/
theorem filter_indices_one {n : Nat} {f : Fin n → Bool} {i : Fin n} (hi : f i = true) (ho : ∀ j, j ≠ i → f j = false) :
    (indices n).filter f = [i] := by
  have only : f = fun j => j == i := by
    funext j
    by_cases hj : j = i
    · simp [hj, hi]
    · simp [hj, ho j hj]
  have once : (indices n).count i = 1 := List.count_eq_one_of_mem (List.nodup_finRange n) (mem_indices i)
  rw [only, List.filter_beq, once, List.replicate_one]

theorem filter_indices_none {n : Nat} {f : Fin n → Bool} (h : ∀ j, f j = false) : (indices n).filter f = [] := by
  simp [h]

theorem namesPort_iff {x : Line} : namesPort x p = true ↔ x.record.binPort = p ∨ ∃ h ∈ x.record.route, h.port = p := by
  simp [namesPort]

theorem namesPort_eq {x : Line} : namesPort x p = decide (x.record.binPort = p ∨ ∃ h ∈ x.record.route, h.port = p) := by
  rw [← Bool.decide_coe (namesPort x p), decide_eq_decide, namesPort_iff]

theorem not_namesPort {x : Line} (h : x.record.binPort ≠ p ∧ ∀ k ∈ x.record.route, k.port ≠ p) : namesPort x p = false := by
  simpa [namesPort] using h

/-! ### BIN_DOWN and ROUTE_DOWN (R84, R87) -/

/-- BIN_DOWN and ROUTE_DOWN as the ports of a state make them. -/
def portCauses (s : State) (x : Line) : Causes :=
  let up (r : Role) (q : Port) : Bool := decide ((s.port q).link = .up ∧ s.role q = r)
  { x.causes with binDown := !up .bin x.record.binPort, routeDown := x.record.route.any fun h => !up .sorter h.port }

theorem judgedCauses_eq (s : State) (x : Line) : judgedCauses s x = portCauses s x := by
  simp only [judgedCauses, portCauses, upWithRole_eq, ← List.not_all_eq_any_not]

theorem judgedCauses_of_desk (h : desk t = desk s) (x : Line) : judgedCauses t x = portCauses s x := by
  rw [← judgedCauses_eq]
  simp only [judgedCauses, upWithRole_of_desk h]

/-- The judgement of one line leaves the ports alone, so that each is judged by the ports as they stood (R87). -/
theorem foldl_judgeLine (ls : List LineIx) (h : desk t = desk s) : ls.foldl judgeLine t =
    ls.foldl (fun u k => rederive k (u.setLine k { u.line k with causes := portCauses s (u.line k) })) t := by
  induction ls generalizing t with
  | nil => rfl
  | cons k ks ih =>
    have judged : judgeLine t k = rederive k (t.setLine k { t.line k with causes := portCauses s (t.line k) }) := by
      rw [judgeLine, judgedCauses_of_desk h, withCauses]
    rw [List.foldl_cons, List.foldl_cons, judged]
    exact ih (desk_rederive.trans h)

theorem portEvent_eq : portEvent p s = ((indices 8).filter fun l => namesPort (s.line l) p).foldl
    (fun u k => rederive k (u.setLine k { u.line k with causes := portCauses s (u.line k) })) s :=
  foldl_judgeLine _ rfl

theorem portEvent_one (hl : namesPort (s.line l) p = true) (ho : ∀ k, k ≠ l → namesPort (s.line k) p = false) :
    portEvent p s = rederive l (s.setLine l { s.line l with causes := portCauses s (s.line l) }) := by
  rw [portEvent_eq, filter_indices_one (f := fun k => namesPort (s.line k) p) hl ho, List.foldl_cons, List.foldl_nil]

theorem portEvent_none (h : ∀ k, namesPort (s.line k) p = false) : portEvent p s = s := by
  rw [portEvent, filter_indices_none h, List.foldl_nil]

/-! ### FILL (R86) -/

theorem fill_none {v : Fin 256} (h : ∀ k, (s.line k).record.binPort ≠ p) : fill p v s = s := by
  rw [fill, filter_indices_none (by simpa using h), List.foldl_nil]

theorem fill_one {v : Fin 256} (hl : (s.line l).record.binPort = p) (ho : ∀ k, k ≠ l → (s.line k).record.binPort ≠ p) :
    fill p v s = fillLine (min v.val 100) s l := by
  rw [fill, filter_indices_one (by simpa using hl) (by simpa using ho), List.foldl_cons, List.foldl_nil, readFill]

/-! ### LINE_CONTROL (R88) -/

theorem lineControl_index {i : Nat} {b : Bool} (h : 8 ≤ i) : lineControl i b s = answer .badIndex s := by
  simp only [lineControl, index?_none h]

theorem lineControl_line {b : Bool} : lineControl l.val b s = answer .done (rederive l (s.setLine l { s.line l with
    enabled := b, causes := { (s.line l).causes with mgmtDisabled := !b } })) := by
  simp only [lineControl, index?_val]

theorem manage_lineControl {r : Requester} {b : Bool} (h : ServesRequests s r.port) :
    manage r (lineControl l.val b) s = enqueue (rederive l (s.setLine l { s.line l with
      enabled := b, causes := { (s.line l).causes with mgmtDisabled := !b } })) r.port (.mgmtReply ⟨r.tag, .done, .none⟩) :=
  manage_answers_desk h lineControl_line desk_rederive

end Causes

/-- Settles O36: FILL and a port's report are folds over the lines that name the port, which one line or none makes one step or
none; the other two derive one line's state again. -/
theorem lineCausesFollowTheirSources : Obligations.LineCausesFollowTheirSources := by
  intro s
  refine ⟨fun l b => rfl, fun p v h => congrArg _ (fill_none h), fun p v l hl ho => congrArg _ (fill_one hl ho),
    fun p v => ?fills, fun p => ?events, fun p h => congrArg _ (portEvent_none fun l => not_namesPort (h l)),
    fun p l hl ho => congrArg _ (portEvent_one (namesPort_iff.mpr hl) fun k hk => not_namesPort (ho k hk)),
    fun r h => ⟨fun i hi => ?indices, fun l => ⟨?enabled, ?disabled⟩⟩⟩
  case fills =>
    simp only [← Bool.beq_eq_decide_eq]
    rfl
  case events =>
    simp only [← namesPort_eq]
    exact congrArg _ portEvent_eq
  case indices =>
    exact ⟨congrArg _ (manage_unchanged h (lineControl_index hi)), congrArg _ (manage_unchanged h (lineControl_index hi))⟩
  case enabled => exact congrArg _ (manage_lineControl h)
  case disabled => exact congrArg _ (manage_lineControl h)

end Sys2Proof.Machine
end

section
/-! Line records: which offered ones are valid (R81, R82), and what the write of one and of a segment's capacity does (R83, R91). -/

namespace Sys2Proof.Machine

/-! ### Offered fields converted (R20, R82) -/

theorem convertAll_eq_some {α β : Type} {f : α → Option β} {code : β → α} (h : ∀ a b, f a = some b ↔ a = code b)
    {l : List α} {m : List β} : convertAll f l = some m ↔ l = m.map code := by
  induction l generalizing m with
  | nil => cases m <;> simp [convertAll]
  | cons a l ih =>
    constructor
    · intro hm
      unfold convertAll at hm
      split at hm
      · cases hm
        rw [List.map_cons, ← (h _ _).mp ‹_›, ← ih.mp ‹_›]
      · cases hm
    · intro hm
      obtain ⟨b, n, rfl, hb, hn⟩ := List.map_eq_cons_iff.mp hm.symm
      simp only [convertAll, (h a b).mpr hb.symm, ih.mpr hn.symm]

theorem convertAll_isSome {α β : Type} {f : α → Option β} {l : List α} :
    (∃ m, convertAll f l = some m) ↔ ∀ a ∈ l, ∃ b, f a = some b := by
  induction l with
  | nil => simp [convertAll]
  | cons a l ih =>
    rw [List.forall_mem_cons, ← ih]
    constructor
    · rintro ⟨m, hm⟩
      unfold convertAll at hm
      split at hm
      · exact ⟨⟨_, ‹_›⟩, ⟨_, ‹_›⟩⟩
      · cases hm
    · rintro ⟨⟨b, hb⟩, n, hn⟩
      exact ⟨b :: n, by simp only [convertAll, hb, hn]⟩

/-- A hop as a request writes it. -/
def hopFields (h : Hop) : Nat × Nat × Nat := (h.port.val, h.gate.val, codeOf positions h.position)

theorem decodeName_positions {n : Nat} {q : Position} : decodeName positions n = some q ↔ n = codeOf positions q := by
  constructor
  · exact fun h => (codeOf_decodeName (by decide) h).symm
  · rintro rfl
    cases q <;> rfl

theorem hopOf_eq_some (x : Nat × Nat × Nat) (h : Hop) : hopOf x = some h ↔ x = hopFields h := by
  constructor
  · intro hx
    unfold hopOf at hx
    split at hx
    · rename_i hp hg hq
      cases hx
      exact Prod.ext (index?_eq_some.mp hp) (Prod.ext (index?_eq_some.mp hg) (decodeName_positions.mp hq))
    · cases hx
  · rintro rfl
    simp only [hopOf, hopFields, index?_val, decodeName_positions.mpr rfl]

theorem hopOf_isSome {x : Nat × Nat × Nat} : (∃ h, hopOf x = some h) ↔ x.1 < 12 ∧ x.2.1 < 4 ∧ x.2.2 < 3 := by
  constructor
  · rintro ⟨h, hx⟩
    rw [(hopOf_eq_some x h).mp hx]
    exact ⟨h.port.isLt, h.gate.isLt, List.idxOf_lt_length_of_mem (by cases h.position <;> decide)⟩
  · rintro ⟨hp, hg, hq⟩
    obtain ⟨q, hq⟩ : ∃ q, decodeName positions x.2.2 = some q := decodeName_isSome.mpr hq
    exact ⟨⟨⟨x.1, hp⟩, ⟨x.2.1, hg⟩, q⟩, (hopOf_eq_some ..).mpr (by rw [hopFields, ← decodeName_positions.mp hq])⟩

/-- An optional number as a request writes it: 255 for none (R20). -/
def optionalCode {n : Nat} (o : Option (Fin n)) : Nat := o.elim 255 (·.val)

theorem decodeOptional_eq_some {n v : Nat} (hn : n ≤ 255) {o : Option (Fin n)} :
    decodeOptional n v = some o ↔ v = optionalCode o := by
  unfold decodeOptional
  constructor
  · intro h
    split at h
    · cases h
      assumption
    · split at h
      · cases h
      · cases h
        exact index?_eq_some.mp ‹_›
  · rintro rfl
    cases o with
    | none => rfl
    | some i =>
      have hi : i.val ≠ 255 := by omega
      simp [optionalCode, hi]

theorem decodeOptional_isSome {n v : Nat} (hn : n ≤ 255) : (∃ o, decodeOptional n v = some o) ↔ v = 255 ∨ v < n := by
  constructor
  · rintro ⟨o, ho⟩
    rw [(decodeOptional_eq_some hn).mp ho]
    cases o with
    | none => exact .inl rfl
    | some i => exact .inr i.isLt
  · rintro (rfl | h)
    · exact ⟨none, rfl⟩
    · exact ⟨some ⟨v, h⟩, (decodeOptional_eq_some hn).mpr rfl⟩

/-! ### Valid line records (R82) -/

/-- An offered record writes out a line record; its transit limit is clamped. -/
structure Carries (x : LineFields) (y : LineRecord) : Prop where
  route     : x.route = y.route.map hopFields
  segments  : x.segments = y.segments.map (·.val)
  binPort   : x.binPort = y.binPort.val
  overflow  : x.overflow = optionalCode y.overflow
  materials : y.materials = x.materials
  nearFull  : y.nearFull = x.nearFull
  full      : y.full = x.full
  limit     : y.transitLimit = max 500 (min 60000 x.transitLimit)

/-- What R82 asks of the record of line l. -/
structure SoundRecord (l : LineIx) (y : LineRecord) : Prop where
  hops     : 1 ≤ y.route.length ∧ y.route.length ≤ 6
  few      : 1 ≤ y.segments.length ∧ y.segments.length ≤ 4
  distinct : y.segments.Nodup
  overflow : y.overflow ≠ some l
  fill     : y.nearFull < y.full ∧ y.full ≤ 100

section Records
variable {l : LineIx} {x : LineFields} {y : LineRecord}

theorem lineRecordOf_eq_some : lineRecordOf l x = some y ↔ Carries x y ∧ SoundRecord l y := by
  constructor
  · intro h
    unfold lineRecordOf at h
    split at h
    · rename_i r g b o hr hg hb ho
      split at h
      · cases h
      · rename_i sound
        cases h
        simp only [List.isEmpty_iff_length_eq_zero, not_or, not_not] at sound
        obtain ⟨r0, r6, g0, g4, distinct, apart, -, -, full, near⟩ := sound
        have hops : 1 ≤ r.length ∧ r.length ≤ 6 := by omega
        have few : 1 ≤ g.length ∧ g.length ≤ 4 := by omega
        have fill : x.nearFull < x.full ∧ x.full ≤ 100 := by omega
        exact ⟨⟨(convertAll_eq_some hopOf_eq_some).mp hr, (convertAll_eq_some fun _ _ => index?_eq_some).mp hg,
          index?_eq_some.mp hb, (decodeOptional_eq_some (by decide)).mp ho, rfl, rfl, rfl, clamp_eq _ _ _ (by decide)⟩,
          ⟨hops, few, distinct, apart, fill⟩⟩
    · cases h
  · rintro ⟨⟨hr, hg, hb, ho, hm, hn, hf, ht⟩, ⟨hops, few, distinct, apart, fill⟩⟩
    have sound : ¬ (y.route.isEmpty ∨ 6 < y.route.length ∨ y.segments.isEmpty ∨ 4 < y.segments.length ∨ ¬ y.segments.Nodup ∨
        y.overflow = some l ∨ 100 ≤ y.nearFull ∨ y.full = 0 ∨ 100 < y.full ∨ y.full ≤ y.nearFull) := by
      simp only [List.isEmpty_iff_length_eq_zero, not_or, not_not]
      exact ⟨by omega, by omega, by omega, by omega, distinct, apart, by omega, by omega, by omega, by omega⟩
    simp only [lineRecordOf, (convertAll_eq_some hopOf_eq_some).mpr hr, (convertAll_eq_some fun _ _ => index?_eq_some).mpr hg,
      index?_eq_some.mpr hb, (decodeOptional_eq_some (by decide)).mpr ho, clamp_eq 500 60000 _ (by decide),
      ← hm, ← hn, ← hf, ← ht]
    exact if_neg sound

/-- Which offered records are valid, by the numbers they write (R82). -/
theorem lineRecordOf_isSome : (∃ y, lineRecordOf l x = some y) ↔
    1 ≤ x.route.length ∧ x.route.length ≤ 6 ∧ (∀ h ∈ x.route, h.1 < 12 ∧ h.2.1 < 4 ∧ h.2.2 < 3) ∧
    1 ≤ x.segments.length ∧ x.segments.length ≤ 4 ∧ (∀ g ∈ x.segments, g < 12) ∧ x.segments.Nodup ∧ x.binPort < 12 ∧
    (x.overflow = 255 ∨ x.overflow < 8 ∧ x.overflow ≠ l.val) ∧ x.nearFull < x.full ∧ x.full ≤ 100 := by
  have val : Function.Injective (Fin.val : SegIx → Nat) := Fin.val_injective
  constructor
  · rintro ⟨y, hy⟩
    obtain ⟨⟨hr, hg, hb, ho, -, hn, hf, -⟩, ⟨hops, few, distinct, apart, fill⟩⟩ := lineRecordOf_eq_some.mp hy
    have away : x.overflow = 255 ∨ x.overflow < 8 ∧ x.overflow ≠ l.val := by
      rw [ho]
      cases h : y.overflow with
      | none => exact .inl rfl
      | some o => exact .inr ⟨o.isLt, fun e => apart (h.trans (congrArg some (Fin.ext e)))⟩
    rw [hr, hg, hb, ← hn, ← hf, List.length_map, List.length_map]
    refine ⟨hops.1, hops.2, ?_, few.1, few.2, ?_, distinct.map val, y.binPort.isLt, away, fill⟩
    · exact fun h hh => hopOf_isSome.mp (convertAll_isSome.mp ⟨y.route, (convertAll_eq_some hopOf_eq_some).mpr rfl⟩ h hh)
    · exact fun g hg => by obtain ⟨k, -, rfl⟩ := List.mem_map.mp hg; exact k.isLt
  · rintro ⟨r1, r6, inRoute, g1, g4, inSegments, distinct, inPorts, away, near, full⟩
    obtain ⟨r, hr⟩ := convertAll_isSome.mpr fun h hh => hopOf_isSome.mpr (inRoute h hh)
    obtain ⟨g, hg⟩ := convertAll_isSome.mpr fun g hg => index?_isSome.mpr (inSegments g hg)
    obtain ⟨o, ho⟩ := (decodeOptional_isSome (n := 8) (by decide)).mpr (away.imp_right And.left)
    replace hr := (convertAll_eq_some hopOf_eq_some).mp hr
    replace hg := (convertAll_eq_some fun _ _ => index?_eq_some).mp hg
    replace ho := (decodeOptional_eq_some (by decide)).mp ho
    refine ⟨⟨r, g, ⟨x.binPort, inPorts⟩, o, x.materials, x.nearFull, x.full, max 500 (min 60000 x.transitLimit)⟩,
      lineRecordOf_eq_some.mpr ⟨⟨hr, hg, rfl, ho, rfl, rfl, rfl, rfl⟩, ?_⟩⟩
    rw [hr, List.length_map] at r1 r6
    rw [hg, List.length_map] at g1 g4
    rw [hg] at distinct
    refine ⟨⟨r1, r6⟩, ⟨g1, g4⟩, List.Nodup.of_map _ distinct, ?_, near, full⟩
    rintro rfl
    have := l.isLt
    have hl : x.overflow = l.val := ho
    omega

end Records
end Sys2Proof.Machine
end

section
/-! The writes of line records and segment capacities, with the hold queue brought up to date (R83, R91). -/

namespace Sys2Proof.Machine

section LineWrites
variable {s : State} {l : LineIx} {x : LineFields} {y : LineRecord}

/-! ### Records under the line unit's operations -/

theorem sameLines_walkEntry {w : Walk} {e : HoldEntry} : SameLines w.state (walkEntry w e).state := by
  unfold walkEntry
  split
  · exact .refl _
  · split
    · exact .refl _
    · rename_i t _
      have g : SameLines w.state (grant t e.intake e.seq e.line e.pitch w.state) := sameLines_grant
      split
      · exact .refl _
      · split
        · exact ⟨g.record, g.state⟩
        · exact .refl _

theorem sameLines_walk : SameLines s (walk s) := by
  have walked : ∀ (q : List HoldEntry) (w : Walk), SameLines w.state (q.foldl walkEntry w).state := by
    intro q
    induction q with
    | nil => exact fun _ => .refl _
    | cons e q ih => exact fun w => sameLines_walkEntry.trans (ih _)
  have k := walked s.lines.holdQueue ⟨[], [], false, s⟩
  exact ⟨k.record, k.state⟩

theorem sameLines_reselect {which : HoldEntry → Bool} : SameLines s (reselect l which s) := by
  have k := line_of_lines (reselect_law (s := s) (l := l) which).1
  exact ⟨fun m => by rw [k], fun m => by rw [k]⟩

/-- Deriving a state again touches no record. -/
theorem rederive_record (k : LineIx) : ((rederive l s).line k).record = (s.line k).record := by
  by_cases same : derivedState (s.line l) = (s.line l).state
  · rw [rederive_same same]
  · have told : ((tellState l s).line k).record = (s.line k).record := by
      show ((s.setLine l _).line k).record = _
      by_cases hk : k = l
      · subst hk
        rw [setLine_line_self]
      · rw [setLine_line_ne _ _ hk]
    rw [rederive_changed same]
    (repeat' split) <;> simp only [sameLines_walk.record, sameLines_reselect.record, told]

theorem rederive_empty (h : s.lines.holdQueue = []) : (rederive l s).lines.holdQueue = [] := by
  by_cases same : derivedState (s.line l) = (s.line l).state
  · rw [rederive_same same, h]
  · have told : (tellState l s).lines.holdQueue = [] := h
    have kept : reselect l (fun _ => true) (tellState l s) = tellState l s := reselect_keeps (by simp [told])
    rw [rederive_changed same, kept, walk_empty told]
    (repeat' split) <;> exact told

/-! ### Segment capacities (R91) -/

theorem segmentWrite_index {i v : Nat} (h : 12 ≤ i) : segmentWrite i v s = answer .badIndex s := by
  simp only [segmentWrite, index?_none h]

theorem segmentWrite_written (g : SegIx) (v : Nat) : segmentWrite g.val v s = answer (if v ≤ 255 then .done else .doneClamped)
    (walk { s with lines := { s.lines with
      segments := put s.lines.segments g { cell s.lines.segments g with capacity := min v 255 } } }) := by
  have value : clamp 0 255 v = min v 255 := by rw [clamp_eq 0 255 v (by decide), Nat.zero_max, Nat.min_comm]
  have status : clampStatus (255 < v) = if v ≤ 255 then .done else .doneClamped := by
    by_cases h : v ≤ 255
    · simp [clampStatus, h, Nat.not_lt.mpr h]
    · simp [clampStatus, h, Nat.lt_of_not_le h]
  simp only [segmentWrite, index?_val, value, status]

/-! ### Line records by the tests of R82 -/

theorem lineWrite_index {i : Nat} (h : 8 ≤ i) : lineWrite i x s = answer .badIndex s := by
  simp only [lineWrite, index?_none h]

theorem lineWrite_invalid (h : lineRecordOf l x = none) : lineWrite l.val x s = answer .badValue s := by
  simp only [lineWrite, index?_val, h]

theorem lineWrite_live (h : lineRecordOf l x = some y) (live : 0 < (s.line l).live) :
    lineWrite l.val x s = answer .notAllowed s := by
  simp only [lineWrite, index?_val, h, if_pos live]

theorem lineWrite_applied (h : lineRecordOf l x = some y) (live : (s.line l).live = 0) : lineWrite l.val x s =
    answer (if y.transitLimit = x.transitLimit then .done else .doneClamped) (applyLine l y s) := by
  have idle : ¬ 0 < (s.line l).live := by omega
  simp only [lineWrite, index?_val, h, if_neg idle, clampStatus_ne]

/-! ### The steps of an accepted write (R83) -/

/-- The last fill a line keeps under a new record (R83, step 1). -/
def keptFill (old : Line) (y : LineRecord) : Nat := if old.record.binPort ≠ y.binPort then 0 else old.lastFill

/-- FILL_FULL under a new record: removed with the bin port changed, judged by new thresholds, else kept (R83, step 1). -/
def keptFillFull (old : Line) (y : LineRecord) : Bool :=
  if old.record.binPort ≠ y.binPort then false
  else if old.record.nearFull = y.nearFull ∧ old.record.full = y.full then old.causes.fillFull
  else if y.full ≤ keptFill old y then true else if keptFill old y < y.nearFull then false else old.causes.fillFull

theorem refill_eq (old : Line) (y : LineRecord) : refill old y =
    { old with lastFill := keptFill old y, causes := { old.causes with fillFull := keptFillFull old y } } := by
  unfold refill
  by_cases moved : old.record.binPort ≠ y.binPort
  · simp only [keptFillFull, keptFill, if_pos moved]
  · by_cases same : old.record.nearFull = y.nearFull ∧ old.record.full = y.full
    · simp [keptFillFull, keptFill, moved, same]
    · have changed : old.record.nearFull ≠ y.nearFull ∨ old.record.full ≠ y.full := by tauto
      simp only [keptFillFull, keptFill, if_neg moved, if_neg same, if_pos changed, fillFullAfter]

/-- A line as a new record leaves it, with BIN_DOWN and ROUTE_DOWN judged by the ports of the state (R83, steps 1 and 2). -/
def renewedLine (s : State) (l : LineIx) (y : LineRecord) : Line :=
  let old := s.line l
  let x := { old with
    record := y, lastFill := keptFill old y, causes := { old.causes with fillFull := keptFillFull old y } }
  { x with causes := portCauses s x }

/-- A hold queue entry leaves the line it waits for when that is not usable, or does not accept its material (R83, step 4). -/
def leavesLine (u : Line) (e : HoldEntry) : Bool := !usable u || !accepts u e.material

theorem applyLine_eq : applyLine l y s =
    let t := rederive l (s.setLine l (renewedLine s l y))
    walk (reselect l (leavesLine (t.line l)) (withQueue t (t.lines.holdQueue.map fun e =>
      if e.line = l then { e with segments := y.segments } else e))) := by
  have setTwice : ∀ a b : Line, (s.setLine l a).setLine l b = s.setLine l b := fun a b => by simp [State.setLine]
  have causes : ∀ a : Line, withCauses l (judgedCauses (s.setLine l a) a) (s.setLine l a) =
      rederive l (s.setLine l { a with causes := portCauses s a }) := fun a => by
    rw [withCauses, judgedCauses_of_desk (t := s.setLine l a) (s := s) rfl, setLine_line_self, setTwice]
  have record : ((rederive l (s.setLine l (renewedLine s l y))).line l).record = y := by
    rw [rederive_record, setLine_line_self]
    rfl
  have steps : applyLine l y s =
      let t := rederive l (s.setLine l (renewedLine s l y))
      walk (reselect l (leavesLine (t.line l)) (renewSegments l t)) := by
    simp only [applyLine, refill_eq, causes]
    rfl
  rw [steps]
  simp only [renewSegments, record]

theorem leavesLine_eq {u : Line} (h : u.record = y) (e : HoldEntry) : leavesLine u e =
    (!decide (u.state = .opened ∨ u.state = .nearFull) || e.material.any fun m => !hasBit y.materials (codeOf materials m)) := by
  have used : usable u = decide (u.state = .opened ∨ u.state = .nearFull) := by
    rw [← Bool.decide_coe (usable u), decide_eq_decide, usable_iff]
  rw [leavesLine, used]
  cases e.material <;> simp [accepts, h, materialCode_eq]

/-- With no entry waiting the write is the line's new state alone. -/
theorem applyLine_empty (h : s.lines.holdQueue = []) : applyLine l y s = rederive l (s.setLine l (renewedLine s l y)) := by
  have none : (rederive l (s.setLine l (renewedLine s l y))).lines.holdQueue = [] := rederive_empty h
  generalize ht : rederive l (s.setLine l (renewedLine s l y)) = t at none
  have renewed : withQueue t (t.lines.holdQueue.map fun e => if e.line = l then { e with segments := y.segments } else e) = t := by
    rw [none, List.map_nil, ← none, withQueue_self]
  rw [applyLine_eq]
  simp only [ht, renewed]
  rw [reselect_keeps (by simp [none]), walk_empty none]

theorem desk_applyLine : desk (applyLine l y s) = desk s := by
  rw [applyLine_eq]
  simp only [desk_walk, desk_reselect]
  exact desk_rederive

end LineWrites

/-- Settles O38: each refusal by its test, an accepted write by the steps of R83, and a valid record by the fields it carries. -/
theorem lineRecordsAreWritten : Obligations.LineRecordsAreWritten := by
  intro s r h
  refine ⟨fun i x hi => congrArg _ (manage_unchanged h (lineWrite_index hi)),
    fun i v hi => congrArg _ (manage_unchanged h (segmentWrite_index hi)),
    fun g v => congrArg _ (manage_answers_desk h (segmentWrite_written g v) desk_walk), fun l x =>
    ⟨fun invalid => congrArg _ (manage_unchanged h (lineWrite_invalid invalid)),
      fun y hy live => congrArg _ (manage_unchanged h (lineWrite_live hy live)), lineRecordOf_isSome,
      fun y hy live => ?applied, fun y hy => ?fields⟩⟩
  case applied =>
    have answered := manage_answers_desk h (lineWrite_applied hy live) desk_applyLine
    refine ⟨fun empty => ?_, ?_⟩
    · rw [applyLine_empty empty] at answered
      exact congrArg _ answered
    · have record : ((rederive l (s.setLine l (renewedLine s l y))).line l).record = y := by
        rw [rederive_record, setLine_line_self]
        rfl
      have leaves := funext (leavesLine_eq record)
      rw [applyLine_eq] at answered
      simp only [leaves] at answered
      exact congrArg _ answered
  case fields =>
    obtain ⟨⟨hr, hg, hb, ho, hm, hn, hf, ht⟩, ⟨hops, few, distinct, apart, fill⟩⟩ := lineRecordOf_eq_some.mp hy
    refine ⟨hops.1, hops.2, few.1, few.2, distinct, ?_, apart, fill.1, fill.2, ht, hb.symm, hg.symm, hm, hn, hf, hr.symm⟩
    rw [ho]
    cases y.overflow with
    | none => rfl
    | some o =>
      have : o.val ≠ 255 := by omega
      simp [optionalCode, this]

end Sys2Proof.Machine
end

section
/-! What each operation leaves of the space held on the lines (R91, R92): the line unit, and the reservations of the transit entries in
use and of the messages on their way. Here the operations that leave all of it as it stands. -/

namespace Sys2Proof.Machine

/-- What the law of the reserved counts speaks of: the line unit, and the reservations that stand (R91, R92). -/
def State.space (s : State) : LineUnit × List Reservation := (s.lines, reservations s)

section Frames
variable {s t : State} {p : Port} {c : Context}

/-! ### Updates of the state -/

@[simp] theorem setPort_space {x : LinkPort} : (s.setPort p x).space = s.space := rfl
@[simp] theorem setContext_space {x : Option Context} : (s.setContext p x).space = s.space := rfl
@[simp] theorem setSession_space {x : Option Session} : (s.setSession p x).space = s.space := rfl
@[simp] theorem setUnit_space {x : Option CounterUnit} : (s.setUnit p x).space = s.space := rfl
@[simp] theorem setFaultContext_space {x : Option FaultContext} : (s.setFaultContext p x).space = s.space := rfl
@[simp] theorem setBacklog_space {b : List ClearFrame} : (s.setBacklog p b).space = s.space := rfl
@[simp] theorem setSlot_space {x : ControllerSlot} : (s.setSlot p x).space = s.space := rfl
@[simp] theorem setInput_space {i : SenseIx} {x : SenseInput} : (setInput s i x).space = s.space := rfl
@[simp] theorem setQueued_space {b : Bool} : (setQueued s p b).space = s.space := rfl
@[simp] theorem setReported_space {x : CtxState} : (setReported p x s).space = s.space := rfl
@[simp] theorem withClosingWait_space {q : List Port} : (withClosingWait s q).space = s.space := rfl
@[simp] theorem withConditions_space {x : ConditionSet} : (withConditions s x).space = s.space := rfl
@[simp] theorem withSave_space {v : Option Save} : (withSave s v).space = s.space := rfl
@[simp] theorem withStore_space {m : ConfigStore} : (withStore s m).space = s.space := rfl
@[simp] theorem enqueue_space {f : TxFrame} : (enqueue s p f).space = s.space := rfl

/-- A message adds its own reservation; only a claim and a release notice have one. -/
@[simp] theorem post_space {m : Instr} : (s.post m).space = (s.space.1, s.space.2 ++ (messageReservation m).toList) := by
  rw [State.space, reservations_post]
  rfl

/-- A message that is neither a claim nor a release notice holds no space. -/
theorem post_space_none {m : Instr} (hm : messageReservation m = none) : (s.post m).space = s.space := by
  rw [post_space, hm, Option.toList_none, List.append_nil]

@[simp] theorem request_space {k : Condition} : (s.request k).space = s.space := post_space_none rfl

/-- Messages without a reservation taken out of the mail. -/
theorem mailFilter_space {f : Instr → Bool} (h : ∀ m, f m = false → messageReservation m = none) :
    State.space { s with mail := s.mail.filter f } = s.space := by
  have same : (s.mail.filter f).filterMap messageReservation = s.mail.filterMap messageReservation := by
    induction s.mail with
    | nil => rfl
    | cons m l ih => cases hf : f m <;> simp [hf, h m, ih, List.filterMap_cons]
  exact congrArg (fun l => (s.lines, (indices 64).filterMap (entryReservation s) ++ l)) same

/-- What an entry in use holds on the lines: its generation, line, pitch and segments. -/
def Entry.hold (e : Entry) : Option (Gen × LineIx × Nat × List SegIx) :=
  e.use.map fun u => (e.gen, u.line, u.pitch, u.segments)

/-- An entry replaced by one that holds the same space. -/
theorem setEntry_space {k : Tag} {e : Entry} (h : e.hold = (s.entry k).hold) : (s.setEntry k e).space = s.space := by
  have same : entryReservation (s.setEntry k e) = entryReservation s := by
    funext j
    by_cases hj : j = k
    · subst hj
      have := congrArg (Option.map fun x : Gen × LineIx × Nat × List SegIx => (⟨j, x.1, x.2.1, x.2.2.1, x.2.2.2⟩ : Reservation)) h
      simpa [Entry.hold, entryReservation, Function.comp_def] using this
    · simp [entryReservation, hj]
  exact congrArg (fun f => (s.lines, (indices 64).filterMap f ++ s.mail.filterMap messageReservation)) same

@[simp] theorem foldl_space {α : Type} {f : State → α → State} {l : List α} (h : ∀ t x, (f t x).space = t.space) :
    (l.foldl f s).space = s.space := by
  induction l generalizing s with
  | nil => rfl
  | cons x xs ih => exact ih.trans (h s x)

/-! ### Offers, conditions and sense inputs (R14, R163 to R170) -/

@[simp] theorem offerList_space {α : Type} {frame : α → TxFrame} {l : List α} : (offerList frame p l s).2.space = s.space := by
  induction l generalizing s with
  | nil => rfl
  | cons x xs ih => unfold offerList; split <;> simp [ih]

@[simp] theorem offerReport_space {α : Type} {frame : α → TxFrame} {l : List α} {x : α} :
    (offerReport frame p l x s).2.space = s.space := by
  unfold offerReport; (repeat' split) <;> simp

@[simp] theorem evalOutputs_space : (evalOutputs s).space = s.space := by
  unfold evalOutputs; split <;> rfl

@[simp] theorem noticeTo_space : (noticeTo s p).space = s.space := by
  unfold noticeTo; (repeat' split) <;> simp

@[simp] theorem setCondition_space {k : Condition} : (setCondition k s).space = s.space := by
  unfold setCondition; dsimp only; (repeat' split) <;> simp

@[simp] theorem clearNamed_space {x : ConditionSet} : (clearNamed x s).space = s.space := by simp [clearNamed]

@[simp] theorem countLatch_space {f : SenseFunction} : (countLatch f s).space = s.space := by
  cases f
  · rfl
  · unfold countLatch countBinLatch; dsimp only; split
    · exact post_space_none rfl
    · rfl
  · unfold countLatch countRoomStop; dsimp only; split
    · exact post_space_none rfl
    · rfl

@[simp] theorem uncountLatch_space {f : SenseFunction} : (uncountLatch f s).space = s.space := by
  cases f
  · rfl
  · unfold uncountLatch uncountBinLatch; dsimp only; split
    · exact post_space_none rfl
    · rfl
  · unfold uncountLatch uncountRoomStop; dsimp only; split
    · exact post_space_none rfl
    · rfl

@[simp] theorem latchInput_space {i : SenseIx} : (latchInput i s).space = s.space := by
  unfold latchInput; dsimp only; split <;> simp

@[simp] theorem releaseInput_space {i : SenseIx} : (releaseInput s i).space = s.space := by
  unfold releaseInput; split <;> simp

@[simp] theorem releaseInputs_space {b : BitVec 8} : (releaseInputs b s).space = s.space := by simp [releaseInputs]

@[simp] theorem debounceExpiry_space {i : SenseIx} : (debounceExpiry i s).space = s.space := by
  unfold debounceExpiry; dsimp only; split <;> simp

@[simp] theorem applySense_space {i : SenseIx} {e : SenseEntry} : (applySense i e s).space = s.space := by
  unfold applySense; dsimp only; split
  · rfl
  · exact evalOutputs_space.trans (setInput_space.trans releaseInput_space)

/-! ### Faults (R153 to R160) -/

@[simp] theorem faultReportTo_space {e : ErrorRecord} : (faultReportTo e s p).space = s.space :=
  offerReport_space (s := s) (p := p)

@[simp] theorem reportFault_space {e : ErrorRecord} : (reportFault e s).space = s.space := by simp [reportFault]

@[simp] theorem raiseFault_space {f : FaultRaise} : (raiseFault p f s).2.space = s.space := by
  unfold raiseFault; dsimp only; (repeat' split) <;> simp

@[simp] theorem headFault_space {n : FaultNo} {b : Byte} : (headFault p n b s).space = s.space := by
  unfold headFault; split <;> simp [messageReservation]

@[simp] theorem clearFlag_space : (clearFlag p s).space = s.space := by
  unfold clearFlag; split <;> simp

@[simp] theorem transitFault_space {k : TransitFaultKind} {t : Tag} {g : Gen} {q : Byte} :
    (transitFault k t g p q s).space = s.space := by
  unfold transitFault; dsimp only; split <;> simp

/-! ### Vouchers and counter units (R137 to R147) -/

@[simp] theorem sendHead_space : (sendHead p s).space = s.space := by
  unfold sendHead; (repeat' split) <;> simp

@[simp] theorem unitReady_space : (unitReady p s).space = s.space := by
  unfold unitReady; split <;> simp

@[simp] theorem createVoucher_space {x : VoucherRequest} : (createVoucher x s).2.space = s.space := by
  unfold createVoucher
  dsimp only
  split
  · rfl
  · split
    · rfl
    · split
      · exact sendHead_space
      · rfl

@[simp] theorem voucherReportTo_space {x : VoucherReport} : (voucherReportTo x s p).space = s.space :=
  offerReport_space (s := s) (p := p)

@[simp] theorem reportVoucher_space {x : VoucherReport} : (reportVoucher x s).space = s.space := by simp [reportVoucher]

@[simp] theorem restartUnit_space : (restartUnit p s).space = s.space := by
  unfold restartUnit; (repeat' split) <;> simp

@[simp] theorem createUnit_space : (createUnit p s).space = s.space := post_space_none rfl

@[simp] theorem removeUnit_space : (removeUnit p s).space = s.space := by
  unfold removeUnit; dsimp only; (repeat' split) <;> simp

@[simp] theorem voucherDone_space {n : Fin 65536} {x : VoucherResult} : (voucherDone p n x s).space = s.space := by
  unfold voucherDone voucherDoneTaken; (repeat' split) <;> simp [messageReservation]

@[simp] theorem replyExpiry_space : (replyExpiry p s).space = s.space := by
  unfold replyExpiry; (repeat' split) <;> simp

@[simp] theorem counterPortReport_space {b : Bool} : (counterPortReport p b s).space = s.space := by
  unfold counterPortReport; (repeat' split) <;> simp

@[simp] theorem resumeUnit_space : (resumeUnit p s).space = s.space := by
  unfold resumeUnit; (repeat' split) <;> simp

@[simp] theorem sendOwed_space : (sendOwed p s).space = s.space := by
  unfold sendOwed; (repeat' split) <;> simp

/-! ### Sessions (R121 to R135) -/

@[simp] theorem offerTally_space : (offerTally p s).space = s.space := by
  unfold offerTally; (repeat' split) <;> simp

@[simp] theorem takePosting_space {g : Posting} : (takePosting p g s).space = s.space := by
  unfold takePosting; split <;> simp

@[simp] theorem enterClosingWait_space : (enterClosingWait p s).space = s.space := by
  unfold enterClosingWait; dsimp only; (repeat' split) <;> simp

@[simp] theorem finishClose_space {x : Session} : (finishClose p x s).space = s.space := by
  unfold finishClose; dsimp only; (repeat' split) <;> simp [messageReservation]

@[simp] theorem attemptClose_space : (attemptClose p s).2.space = s.space := by
  unfold attemptClose; dsimp only; (repeat' split) <;> simp

@[simp] theorem removeClosed_space : (removeClosed p s).space = s.space := by
  unfold removeClosed; split <;> simp

@[simp] theorem closeAttempt_space : (closeAttempt p s).2.space = s.space := by
  unfold closeAttempt; dsimp only; (repeat' split) <;> simp

@[simp] theorem retryClose_space : (retryClose s p).space = s.space := by
  unfold retryClose; (repeat' split) <;> simp

@[simp] theorem markWaiting_space : (markWaiting p s).space = s.space := by
  unfold markWaiting; split <;> simp

@[simp] theorem testByClose_space : (testByClose p s).2.space = s.space := by
  unfold testByClose; dsimp only; split <;> simp

@[simp] theorem sessionTest_space {n l : Nat} : (sessionTest p n l s).2.space = s.space := by
  unfold sessionTest; dsimp only; (repeat' split) <;> simp

@[simp] theorem dropNote_space {t : Tag} {q : Byte} {n : Nat} : (dropNote p t q n s).space = s.space := by
  unfold dropNote; (repeat' split) <;> simp

@[simp] theorem takeNote_space {m : Instr} : (takeNote p s m).space = s.space := by
  unfold takeNote; (repeat' split) <;> simp

/-- Messages without a reservation taken out of turn (log entry 2). -/
theorem takeWaiting_space {mine : Instr → Bool} {take : State → Instr → State}
    (hm : ∀ m, mine m = true → messageReservation m = none) (ht : ∀ t m, (take t m).space = t.space) :
    (takeWaiting mine take s).space = s.space := by
  unfold takeWaiting
  dsimp only
  split
  · rfl
  · exact (foldl_space ht).trans (mailFilter_space fun m h => hm m (by simpa using h))

@[simp] theorem takeNotes_space : (takeNotes p s).space = s.space :=
  takeWaiting_space (fun m h => by
    unfold isNoteOf at h
    split at h
    · rfl
    · cases h) fun _ _ => takeNote_space

@[simp] theorem restartIdle_space : (restartIdle p s).space = s.space := by
  unfold restartIdle; (repeat' split) <;> simp

@[simp] theorem takePostingEvent_space {g : Posting} : (takePostingEvent g s).space = s.space := by
  unfold takePostingEvent postWaiting postPast carry; dsimp only; (repeat' split) <;> simp

@[simp] theorem applyFinish_space {x : Session} {k : CtxState} {b : Bool} : (applyFinish p x k b s).space = s.space := by
  unfold applyFinish enterClosePending; (repeat' split) <;> simp [messageReservation]

@[simp] theorem returnAnswer_space {b : Bool} {k : CtxState} : (returnAnswer p b k s).space = s.space := by
  unfold returnAnswer; (repeat' split) <;> simp

@[simp] theorem idleExpiry_space : (idleExpiry p s).space = s.space := by
  unfold idleExpiry; (repeat' split) <;> simp

@[simp] theorem placeFreed_space : (placeFreed p s).space = s.space := by simp [placeFreed]

@[simp] theorem tallyReport_space {k : CtxState} : (tallyReport p k s).space = s.space := by
  unfold tallyReport; dsimp only; (repeat' split) <;> simp

@[simp] theorem createSession_space : (createSession p s).space = s.space := by
  unfold createSession; split <;> simp

@[simp] theorem removeSession_space : (removeSession p s).space = s.space := by
  unfold removeSession; (repeat' split) <;> simp

@[simp] theorem clearOwed_space : (clearOwed p s).space = s.space := by
  unfold clearOwed; split <;> simp

@[simp] theorem offerOwedTally_space : (offerOwedTally p s).space = s.space := by
  unfold offerOwedTally; (repeat' split) <;> simp

end Frames
end Sys2Proof.Machine
end

section
/-! The operations of the admission unit that leave the space on the lines as it stands (chapter 4). -/

namespace Sys2Proof.Machine
section AdmissionFrames
variable {s t : State} {p : Port} {c : Context}

@[simp] theorem moveContext_space : (moveContext p c s).space = s.space := by
  unfold moveContext; dsimp only; (repeat' split) <;> simp [messageReservation]

@[simp] theorem editContext_space {f : Context → Context} : (editContext p f s).space = s.space := by
  unfold editContext; split <;> simp

@[simp] theorem offerIntake_space {f : IntakeFrame} : (offerIntake p f s).space = s.space := by
  unfold offerIntake; (repeat' split) <;> simp

@[simp] theorem offerOutbound_space : (offerOutbound p s).space = s.space := by
  unfold offerOutbound; split <;> simp

@[simp] theorem offerStop_space {r : Option StopReason} : (offerStop p r s).space = s.space := by
  unfold offerStop; split <;> simp

@[simp] theorem cancelHeld_space : (cancelHeld p c s).space = s.space := by
  unfold cancelHeld; (repeat' split) <;> simp [messageReservation]

@[simp] theorem returnContainer_space {r : ReturnReason} : (returnContainer p r s).space = s.space := by
  unfold returnContainer; dsimp only; (repeat' split) <;> simp

@[simp] theorem lockContext_space {n : FaultNo} : (lockContext p n s).space = s.space := by
  unfold lockContext; split <;> simp

@[simp] theorem stopContext_space {r : StopReason} : (stopContext p r s).space = s.space := moveContext_space

@[simp] theorem clearContext_space : (clearContext p s).space = s.space := moveContext_space

@[simp] theorem raiseFrom_space {n : FaultNo} {k : ErrorTable} {i : Nat} {g : Option TagGen} {b : Option HopSet}
    {q : Option Byte} : (raiseFrom p n k i g b q s).2.space = s.space := by
  unfold raiseFrom; split <;> simp

@[simp] theorem enterGating_space {l : LineIx} {n : Nat} {g : TagGen} : (enterGating p c l n g s).space = s.space := by
  simp [enterGating, messageReservation]

@[simp] theorem enterHolding_space {l : LineIx} {n : Nat} {q : Byte} : (enterHolding p c l n q s).space = s.space := by
  simp [enterHolding]

@[simp] theorem pauseForCounter_space : (pauseForCounter p s).space = s.space := by
  unfold pauseForCounter; dsimp only; (repeat' split) <;> simp

@[simp] theorem takeKept_space {n : FaultNo} {o : FaultResult} : (takeKept p n o s).space = s.space := by
  cases o <;> simp [takeKept]

@[simp] theorem unreserve'_space : (unreserve' p c s).space = s.space := by simp [unreserve']

@[simp] theorem shutdownStopped_space : (shutdownStopped p c s).space = s.space := by
  unfold shutdownStopped; split <;> simp [messageReservation]

@[simp] theorem withdrawn_space {q : Byte} : (withdrawn p q s).space = s.space := by
  unfold withdrawn; (repeat' split) <;> simp

@[simp] theorem returned_space {q : Byte} : (returned p q s).space = s.space := by
  unfold returned; (repeat' split) <;> simp

@[simp] theorem askFree_space : (askFree c s).space = s.space := by
  unfold askFree; split <;> simp [messageReservation]

@[simp] theorem grantNotice_space {q : Byte} {k : Tag} {g : Gen} {l : LineIx} {n : Nat} :
    (grantNotice p q k g l n s).space = s.space := by
  unfold grantNotice; (repeat' split) <;> simp [messageReservation]

@[simp] theorem gatesSet_space {k : Tag} {g : Gen} : (gatesSet p k g s).space = s.space := by
  unfold gatesSet; (repeat' split) <;> simp

@[simp] theorem sendDropNote_space {k : Tag} : (sendDropNote p c k s).space = s.space := by
  unfold sendDropNote; split <;> simp [messageReservation]

@[simp] theorem dropReport_space {k : Tag} {g : Gen} : (dropReport p k g s).space = s.space := by
  unfold dropReport; (repeat' split) <;> simp

@[simp] theorem returnRequest_space : (returnRequest p s).space = s.space := by
  unfold returnRequest; (repeat' split) <;> simp [messageReservation]

@[simp] theorem tellHead_space : (tellHead p c s).space = s.space := by
  unfold tellHead; split <;> simp

@[simp] theorem intakeDeparture_space : (intakeDeparture p s).space = s.space := by
  unfold intakeDeparture; dsimp only; (repeat' split) <;> simp

@[simp] theorem resumeContext_space : (resumeContext p c s).state.space = s.space := by
  unfold resumeContext; (repeat' split) <;> simp

@[simp] theorem stopControl_space : (stopControl p c s).state.space = s.space := by
  unfold stopControl; split <;> simp

@[simp] theorem createContext_space : (createContext p s).space = s.space := rfl

@[simp] theorem removeContext_space : (removeContext p s).space = s.space := by
  unfold removeContext; split <;> simp

theorem intakeControl_space {n : Nat} {act : Port → Context → State → Answer}
    (h : ∀ p c, (act p c s).state.space = s.space) : (intakeControl n act s).state.space = s.space := by
  unfold intakeControl; (repeat' split) <;> simp [h]

end AdmissionFrames
end Sys2Proof.Machine
end

section
/-! The operations of the management unit, the condition unit, the links, the dispatcher and the transit table that leave the space on
the lines as it stands. -/

namespace Sys2Proof.Machine
section OtherFrames
variable {s t : State} {p : Port}

/-! ### Replies (R172) and conditions (chapter 10) -/

@[simp] theorem offerSlot_space : (offerSlot p s).space = s.space := by
  unfold offerSlot; dsimp only; (repeat' split) <;> simp

@[simp] theorem settleOwed_space : (settleOwed p s).space = s.space := by
  unfold settleOwed; dsimp only; split <;> simp

@[simp] theorem offerReplies_space : (offerReplies p s).space = s.space := by simp [offerReplies]

@[simp] theorem placeReply_space {r : Requester} {x : Status} {d : ReplyData} : (placeReply r x d s).space = s.space := by
  unfold placeReply; dsimp only; split <;> simp

@[simp] theorem senseAssert_space {i : SenseIx} : (senseAssert i s).space = s.space := setInput_space

@[simp] theorem senseRelease_space {i : SenseIx} : (senseRelease i s).space = s.space := setInput_space

@[simp] theorem lineStateReport_space {l : LineIx} {x : LineState} : (lineStateReport l x s).space = s.space := evalOutputs_space

/-! ### The head of a receive queue (R12, R28 to R31) -/

@[simp] theorem returnCredit_space : (returnCredit p s).space = s.space := by
  unfold returnCredit; dsimp only; split <;> simp

@[simp] theorem takeCount_space : (takeCount p s).space = s.space := by simp [takeCount]

@[simp] theorem dropHead_space : (dropHead p s).space = s.space := by simp [dropHead]

@[simp] theorem holdHead_space {x : Held} : (holdHead p x s).space = s.space := rfl

@[simp] theorem enqueueAt_space {d : Fin 16} {f : TxFrame} : (enqueueAt d f s).space = s.space := by
  unfold enqueueAt; split <;> simp

@[simp] theorem offerUndeliverable_space {f : RxFrame} : (offerUndeliverable p f s).space = s.space := by
  unfold offerUndeliverable; split <;> simp

@[simp] theorem undeliverable_space {f : RxFrame} : (undeliverable p f s).space = s.space := by
  unfold undeliverable; dsimp only; split <;> simp

@[simp] theorem offerPass_space {f : RxFrame} : (offerPass p f s).space = s.space := by
  unfold offerPass; split <;> simp

@[simp] theorem reoffer_space : (reoffer p s).space = s.space := by
  unfold reoffer; split <;> simp

@[simp] theorem endHold_space {q : Port} : (endHold p s q).space = s.space := by
  unfold endHold; (repeat' split) <;> simp

@[simp] theorem endHolds_space : (endHolds p s).space = s.space := by simp [endHolds]

/-! ### The links (chapter 1) -/

@[simp] theorem emptyReports_space : (emptyReports p s).space = s.space := rfl

@[simp] theorem dropReplies_space : (dropReplies p s).space = s.space := rfl

@[simp] theorem departureReports_space : (departureReports p s).space = s.space := by
  unfold departureReports; split <;> simp [messageReservation]

@[simp] theorem departure_space : (departure p s).space = s.space := by simp [departure]

@[simp] theorem moveLink_space {f : LinkPort → LinkPort} : (moveLink p f s).space = s.space := by
  unfold moveLink; dsimp only; split <;> simp

@[simp] theorem addError_space : (addError p s).space = s.space := by
  unfold addError; dsimp only; split <;> simp

@[simp] theorem goodFrame_space : (goodFrame p s).space = s.space := rfl

@[simp] theorem arrivalReports_space : (arrivalReports p s).space = s.space := by
  unfold arrivalReports; split <;> simp [messageReservation]

@[simp] theorem restartReports_space : (restartReports p s).space = s.space := by
  unfold restartReports; split <;> simp [messageReservation]

@[simp] theorem roleMismatch_space : (roleMismatch p s).space = s.space := by simp [roleMismatch]

@[simp] theorem takeAnnounced_space {a : Announced} : (takeAnnounced p a s).space = s.space := by
  unfold takeAnnounced; dsimp only; (repeat' split) <;> simp

@[simp] theorem takeAnnounce_space {f : RxFrame} : (takeAnnounce p f s).space = s.space := by
  unfold takeAnnounce; (repeat' split) <;> simp

@[simp] theorem overrun_space : (overrun p s).space = s.space := by simp [overrun]

@[simp] theorem useGrant_space : (useGrant p s).space = s.space := rfl

@[simp] theorem takeGrant_space : (takeGrant p s).space = s.space := by
  unfold takeGrant; split <;> simp

@[simp] theorem takeCredit_space {f : RxFrame} : (takeCredit p f s).space = s.space := by
  unfold takeCredit; dsimp only; split <;> simp

@[simp] theorem creditFrame_space {f : RxFrame} : (creditFrame p f s).space = s.space := by
  unfold creditFrame; (repeat' split) <;> simp

@[simp] theorem checkFailed_space {b : List Byte} : (checkFailed p b s).space = s.space := by
  unfold checkFailed; split <;> simp

@[simp] theorem queueFrame_space {f : RxFrame} : (queueFrame p f s).space = s.space := rfl

@[simp] theorem receiveUp_space {f : RxFrame} : (receiveUp p f s).space = s.space := by
  unfold receiveUp; (repeat' split) <;> simp

@[simp] theorem failUp_space {b : List Byte} : (failUp p b s).space = s.space := by
  unfold failUp; split <;> simp

@[simp] theorem frameArrival_space {b : List Byte} : (frameArrival p b s).space = s.space := by
  unfold frameArrival; (repeat' split) <;> simp

@[simp] theorem signalDetect_space : (signalDetect p s).space = s.space := rfl

@[simp] theorem signalLoss_space : (signalLoss p s).space = s.space := by
  unfold signalLoss; dsimp only; split <;> simp

@[simp] theorem notifyPlace_space : (notifyPlace p s).space = s.space := by simp [notifyPlace, messageReservation]

@[simp] theorem frameTransmit_space : (frameTransmit p s).space = s.space := by
  unfold frameTransmit; dsimp only; (repeat' split) <;> simp

@[simp] theorem moveForWrite_space {a b : PortEntry} : (moveForWrite p a b s).space = s.space := by
  unfold moveForWrite; (repeat' split) <;> simp

@[simp] theorem createRole_space {r : Role} : (createRole p r s).space = s.space := by
  unfold createRole; split <;> simp

@[simp] theorem resetPort_space : (resetPort p s).space = s.space := by
  unfold resetPort; dsimp only; split <;> simp

@[simp] theorem portReset_space {i : Nat} : (portReset i s).state.space = s.space := by
  unfold portReset; split <;> simp

/-! ### The dispatcher (chapter 2) -/

@[simp] theorem refuse_space {k : Condition} : (refuse p k s).space = s.space := by simp [refuse]

@[simp] theorem decidePass_space {f : RxFrame} : (decidePass p f s).space = s.space := by
  unfold decidePass; (repeat' split) <;> simp

@[simp] theorem passFrame_space : (passFrame p s).space = s.space := by
  unfold passFrame; (repeat' split) <;> simp

@[simp] theorem offerVoucherReports_space : (offerVoucherReports p s).space = s.space := offerList_space (s := s) (p := p)

@[simp] theorem offerFaultReports_space : (offerFaultReports p s).space = s.space := offerList_space (s := s) (p := p)

/-! ### The transit table (chapter 6) -/

@[simp] theorem sendClear_space {x : ClearFrame} : (sendClear p x s).space = s.space := by
  unfold sendClear; dsimp only; (repeat' split) <;> simp

@[simp] theorem clearGates_space {k : Tag} {g : Gen} {r : List Hop} : (clearGates k g r s).space = s.space := by
  simp [clearGates]

@[simp] theorem offerGates_space {k : Tag} {g : Gen} {i : Nat} {r : List Hop} : (offerGates k g i r s).2.space = s.space := by
  induction r generalizing i s with
  | nil => rfl
  | cons h hs ih => unfold offerGates; (repeat' split) <;> simp [ih]

theorem offerRelease_space {k : Tag} {e : Entry} {u : EntryUse} (h : e.hold = (s.entry k).hold) :
    (offerRelease k e u s).space = s.space := by
  unfold offerRelease
  split
  · exact (post_space_none rfl).trans (setEntry_space (s := enqueue s _ _) h)
  · exact setEntry_space h
  · exact setEntry_space h

theorem takeDrop_space {k : Tag} {u : EntryUse} {r : Cargo} : (takeDrop k (s.entry k) u r s).space = s.space :=
  (post_space_none rfl).trans ((post_space_none rfl).trans ((post_space_none rfl).trans (setEntry_space rfl)))

@[simp] theorem dropped_space {q : Byte} : (dropped p q s).space = s.space := by
  unfold dropped
  split
  · exact request_space
  · split
    · exact request_space
    · exact takeDrop_space

@[simp] theorem reofferRelease_space {k : Tag} : (reofferRelease p s k).space = s.space := by
  unfold reofferRelease
  dsimp only
  split
  · rfl
  · split
    · exact offerRelease_space rfl
    · rfl

@[simp] theorem offerBacklog_space : (offerBacklog p s).space = s.space := by simp [offerBacklog]

@[simp] theorem placeFree_space {o : Owner} : (placeFree p o s).space = s.space := by
  unfold placeFree; (repeat' split) <;> simp [offerTransit]

end OtherFrames
end Sys2Proof.Machine
end

section
/-! Commands made from frames hold no space (R25, R173), so that their dispatch leaves it as it stands. -/

namespace Sys2Proof.Machine
section DecodedFrames
variable {s : State} {p : Port} {r : Requester} {i : Instr}

theorem reservation_of_requester (h : requesterOf i = some r) : messageReservation i = none := by
  unfold requesterOf at h
  split at h
  case h_38 => cases h
  all_goals rfl

theorem stationCommand_reservation {k : Kind} {f : RxFrame} (h : stationCommand p k f = some i) :
    messageReservation i = none := by
  simp only [stationCommand, oneByte, noBytes, headFaultPayload, gateAckPayload, passagePayload, arrivalPayload,
    voucherDonePayload] at h
  (repeat' split at h) <;> cases h <;> rfl

/-! ### The requester of a decoded request (R173, R174) -/

theorem writeCommand_requester {t n : Nat} {x : List Byte} (h : writeCommand r t n x = some i) : requesterOf i = some r := by
  simp only [writeCommand, oneByte, oneWord, classBytes, fourBytes, conditionBytes, Option.map] at h
  (repeat' split at h) <;> cases h <;> rfl

theorem writeRequest_requester {x : List Byte} (h : writeRequest r x = .command i) : requesterOf i = some r := by
  unfold writeRequest wrongLength at h
  split at h
  · cases h
  · split at h
    · cases h
    · split at h
      · cases h
      · exact writeCommand_requester (whenFits_command h)

theorem operationRequest_requester {n : Nat} {x : List Byte} (h : operationRequest r n x = .command i) :
    requesterOf i = some r := by
  unfold operationRequest at h
  split at h
  case h_2 => exact writeRequest_requester h
  case h_20 => cases h
  all_goals
    simp only [readRequest, stateRequest, controlRequest, intakeRequest, portRequest, lineRequest, unknownControl,
      wrongLength, Option.map, oneByte, noBytes, oneWord, conditionBytes] at h
    (repeat' split at h) <;> cases h <;> rfl

theorem requestOf_requester {x : List Byte} (h : requestOf r x = .command i) : requesterOf i = some r := by
  unfold requestOf wrongLength at h
  split at h
  · cases h
  · exact operationRequest_requester h

/-! ### Dispatch (R25) -/

@[simp] theorem takeRequest_space {f : RxFrame} : (takeRequest p f s).space = s.space := by
  unfold takeRequest
  dsimp only
  split
  · split
    · simp
    · rw [post_space_none (reservation_of_requester (requestOf_requester ‹_›))]
      simp
  · rfl

@[simp] theorem handOver_space {k : Kind} {f : RxFrame} : (handOver p k f s).space = s.space := by
  unfold handOver
  split
  · split <;> simp
  · split
    · simp
    · rw [post_space_none (stationCommand_reservation ‹_›)]
      simp

@[simp] theorem decideFrame_space {f : RxFrame} : (decideFrame p f s).space = s.space := by
  unfold decideFrame; (repeat' split) <;> simp

@[simp] theorem dispatchFrame_space : (dispatchFrame p s).space = s.space := by
  unfold dispatchFrame; split <;> simp

/-! ### Store saves (R182) -/

@[simp] theorem beginSave_space : (beginSave r s).space = s.space := rfl

@[simp] theorem storeSave_space : (storeSave r s).space = s.space := by
  unfold storeSave; (repeat' split) <;> simp

@[simp] theorem oweReply_space {v : Save} {x : Status} : (oweReply v x s).space = s.space := by
  unfold oweReply; split <;> simp

@[simp] theorem endSave_space {v : Save} {b : Bool} : (endSave v b s).space = s.space := by
  unfold endSave; split <;> simp

@[simp] theorem storeSaveDone_space {x : SaveEnd} : (storeSaveDone x s).space = s.space := by
  unfold storeSaveDone; dsimp only; (repeat' split) <;> simp

end DecodedFrames
end Sys2Proof.Machine
end

section
/-! The law of the reserved counts under the operations that move space (R91 to R100): those of the line unit, of the check run that
asks for it, and of the entries that give it back. -/

namespace Sys2Proof.Machine

/-- The law of the reserved counts, and every line's segments distinct: what a grant needs to keep it. -/
def Balanced (s : State) : Prop := (∀ l, (s.line l).record.segments.Nodup) ∧ SpaceLaw s

section Lines
variable {s t : State} {l : LineIx} {p : Port}

/-- Both parts speak of the space alone. -/
theorem Balanced.of_space (h : Balanced s) (e : t.space = s.space) : Balanced t := by
  have lines : t.lines = s.lines := congrArg Prod.fst e
  have held : reservations t = reservations s := congrArg Prod.snd e
  obtain ⟨distinct, law⟩ := h
  refine ⟨?_, ?_⟩
  · simpa only [State.line, lines] using distinct
  · rw [spaceLaw_iff] at law ⊢
    rw [held, lines]
    exact law

theorem balanced_foldl {α : Type} {f : State → α → State} (hf : ∀ {s x}, Balanced s → Balanced (f s x)) {xs : List α}
    (h : Balanced s) : Balanced (xs.foldl f s) := by
  induction xs generalizing s with
  | nil => exact h
  | cons x xs ih => exact ih (hf h)

/-! ### The line unit -/

theorem balanced_walk (h : Balanced s) : Balanced (walk s) :=
  ⟨fun l => (sameLines_walk.record l).symm ▸ h.1 l, space_walk h.1 h.2⟩

theorem balanced_withQueue {q : List HoldEntry} (h : Balanced s) : Balanced (withQueue s q) := h

theorem balanced_grant {k : Tag} {q : Byte} {n : Nat} (h : Balanced s) (free : (cell s.lines.tags k).free = true) :
    Balanced (grant k p q l n s) :=
  ⟨fun m => (sameLines_grant.record m).symm ▸ h.1 m, space_grant h.2 free (h.1 l)⟩

theorem balanced_capacityRequest {x : CapacityRequest} (h : Balanced s) : Balanced (capacityRequest x s).2 := by
  have queued : ∀ l, Balanced (queueOrDeny x l s).2 := fun l => by
    unfold queueOrDeny
    split
    · exact balanced_withQueue h
    · exact h
  unfold capacityRequest
  split
  · exact h
  · split
    · exact queued _
    · rename_i free
      split
      · exact balanced_grant h (List.find?_some (p := fun k => (cell s.lines.tags k).free) free)
      · exact queued _

theorem balanced_removeEntry (h : Balanced s) : Balanced (removeEntry p s) := balanced_walk (balanced_withQueue h)

theorem balanced_takeRemovals (h : Balanced s) : Balanced (takeRemovals p s) := by
  unfold takeRemovals
  split
  · refine balanced_removeEntry (h.of_space (mailFilter_space fun m hm => ?_))
    obtain rfl : m = .removalRequest p := by simpa using hm
    rfl
  · exact h

/-- A line replaced by one with distinct segments and the same live count. -/
theorem balanced_setLine {x : Line} (distinct : x.record.segments.Nodup) (live : x.live = (s.line l).live) (h : Balanced s) :
    Balanced (s.setLine l x) := by
  have line : ∀ m, (s.setLine l x).line m = if m = l then x else s.line m := fun m => by
    by_cases e : m = l
    · subst e; simp
    · simp [e]
  obtain ⟨all, law⟩ := h
  rw [spaceLaw_iff] at law
  obtain ⟨tags, held, counts, lives⟩ := law
  refine ⟨fun m => ?_, tags, held, counts, fun m => ?_⟩
  · rw [line]
    split
    · exact distinct
    · exact all m
  · refine Eq.trans ?_ (lives m)
    rw [line]
    split
    · subst m; exact live
    · rfl

theorem balanced_reselect {which : HoldEntry → Bool} (h : Balanced s) : Balanced (reselect l which s) := by
  have step : ∀ w e, (reselectStep l which w e).state.space = w.state.space := fun w e => by
    unfold reselectStep reselectEntry; (repeat' split) <;> simp [messageReservation]
  have fold : ∀ (q : List HoldEntry) (w : Reselection), (q.foldl (reselectStep l which) w).state.space = w.state.space := by
    intro q
    induction q with
    | nil => exact fun _ => rfl
    | cons e q ih => exact fun w => (ih _).trans (step w e)
  exact balanced_withQueue (h.of_space (fold s.lines.holdQueue ⟨[], s⟩))

@[simp] theorem stateConditions_space {n : LineState} : (stateConditions n s).space = s.space := by
  cases n <;> simp [stateConditions]

theorem balanced_rederive (h : Balanced s) : Balanced (rederive l s) := by
  by_cases same : derivedState (s.line l) = (s.line l).state
  · rwa [rederive_same same]
  · have told : Balanced (tellState l s) := by
      have moved : Balanced (s.setLine l { s.line l with state := derivedState (s.line l) }) :=
        balanced_setLine (h.1 l) rfl h
      refine moved.of_space ((congrArg State.space (stateConditions_post _ _).symm).trans ?_)
      rw [post_space_none rfl, stateConditions_space]
    rw [rederive_changed same]
    split
    · split
      · exact told
      · exact balanced_walk (balanced_reselect told)
    · split
      · exact balanced_walk told
      · exact told

theorem balanced_withCauses {c : Causes} (h : Balanced s) : Balanced (withCauses l c s) :=
  balanced_rederive (balanced_setLine (h.1 l) rfl h)

theorem balanced_fillLine {v : Nat} (h : Balanced s) : Balanced (fillLine v s l) := by
  have filled : Balanced (s.setLine l { s.line l with
      lastFill := v, causes := { (s.line l).causes with fillFull := fillFullAfter (s.line l).record v (s.line l).causes.fillFull } }) :=
    balanced_setLine (h.1 l) rfl h
  exact balanced_rederive filled

theorem balanced_fill {v : Fin 256} (h : Balanced s) : Balanced (fill p v s) := balanced_foldl balanced_fillLine h

theorem balanced_portEvent (h : Balanced s) : Balanced (portEvent p s) := balanced_foldl balanced_withCauses h

theorem balanced_applyLine {y : LineRecord} (distinct : y.segments.Nodup) (h : Balanced s) : Balanced (applyLine l y s) := by
  rw [applyLine_eq]
  exact balanced_walk (balanced_reselect (balanced_withQueue (balanced_rederive (balanced_setLine distinct rfl h))))

theorem balanced_lineWrite {i : Nat} {x : LineFields} (h : Balanced s) : Balanced (lineWrite i x s).state := by
  unfold lineWrite
  split
  · exact h
  · split
    · exact h
    · rename_i valid
      split
      · exact h
      · exact balanced_applyLine (lineRecordOf_nodup valid) h

theorem balanced_lineControl {i : Nat} {b : Bool} (h : Balanced s) : Balanced (lineControl i b s).state := by
  unfold lineControl
  split
  · exact h
  · exact balanced_rederive (balanced_setLine (h.1 _) rfl h)

/-- A capacity is no part of the law (R91). -/
theorem balanced_segmentWrite {i v : Nat} (h : Balanced s) : Balanced (segmentWrite i v s).state := by
  unfold segmentWrite
  split
  · exact h
  · rename_i g _
    refine balanced_walk ⟨h.1, ?_⟩
    obtain ⟨-, tags, held, counts, lives⟩ := h
    refine ⟨tags, held, fun k => Eq.trans ?_ (counts k), lives⟩
    by_cases e : k = g
    · subst e; simp
    · simp [e]

end Lines
end Sys2Proof.Machine
end

section
/-! The law of the reserved counts under the check run and the outcomes that ask for space, and under the entries that give it back
(R64 to R73, R103 to R119). -/

namespace Sys2Proof.Machine
section Asking
variable {s : State} {p : Port}

/-! ### The check run (R60 to R65) -/

/-- A taker of outcomes that keeps the law. -/
def BalancedTaker (take : OutcomeTaker) : Prop := ∀ {s : State} {p n o}, Balanced s → Balanced (take p n o s)

theorem balanced_checkCapacity {take : OutcomeTaker} (ht : BalancedTaker take) (h : Balanced s) :
    Balanced (checkCapacity take p s) := by
  unfold checkCapacity
  split
  · exact h
  · split
    · exact h
    · rename_i c _ _ x _
      have asked : Balanced (capacityRequest (capacityOf p c x (takeRemovals p s)) (takeRemovals p s)).2 :=
        balanced_capacityRequest (balanced_takeRemovals h)
      dsimp only
      split
      · exact asked.of_space enterGating_space
      · exact asked.of_space enterHolding_space
      · exact ht (asked.of_space raiseFrom_space)
      · split
        · exact asked.of_space returnContainer_space
        · exact ht (asked.of_space raiseFrom_space)

theorem balanced_checkSession {take : OutcomeTaker} {n l : Nat} (ht : BalancedTaker take) (h : Balanced s) :
    Balanced (checkSession take p n l s) := by
  have tested : Balanced (sessionTest p n l (takeNotes p s)).2 := h.of_space (sessionTest_space.trans takeNotes_space)
  unfold checkSession
  dsimp only
  split
  · exact balanced_checkCapacity ht tested
  · exact balanced_checkCapacity ht tested
  · exact tested.of_space pauseForCounter_space

theorem balanced_takeKept : BalancedTaker takeKept := fun h => h.of_space takeKept_space

theorem balanced_takeChamber : BalancedTaker takeChamber := by
  intro s p n o h
  unfold takeChamber
  split
  · split
    · exact h
    · split
      · exact balanced_takeKept h
      · exact balanced_checkSession balanced_takeKept (h.of_space editContext_space)
  · exact h
  all_goals exact balanced_takeKept h

theorem balanced_reject {n : FaultNo} {k : ErrorTable} {i : Nat} (h : Balanced s) : Balanced (reject p n k i s) :=
  balanced_takeChamber (h.of_space raiseFrom_space)

theorem balanced_noteThen {n : FaultNo} {i : Nat} {next : State → State} (hn : ∀ {t}, Balanced t → Balanced (next t))
    (h : Balanced s) : Balanced (noteThen p n i next s) := by
  have raised : Balanced (raiseFrom p n .article i none none (seqOf s p) s).2 := h.of_space raiseFrom_space
  unfold noteThen
  dsimp only
  split
  · exact balanced_takeChamber raised
  · exact balanced_takeChamber raised
  all_goals exact hn raised

theorem balanced_checkCredit {a : ArticleCopy} {n : Nat} (h : Balanced s) : Balanced (checkCredit p a n s) := by
  unfold checkCredit
  dsimp only
  split
  · exact balanced_reject h
  · exact balanced_checkSession balanced_takeChamber (h.of_space editContext_space)

theorem balanced_checkWeight {x : Sighting} {w : Int} {a : ArticleCopy} {n : Nat} (h : Balanced s) :
    Balanced (checkWeight p x w a n s) := by
  unfold checkWeight
  split
  · exact balanced_reject h
  · exact balanced_reject h
  · exact balanced_noteThen balanced_checkCredit h
  · exact balanced_checkCredit h

theorem balanced_checkCount {x : Sighting} {w : Int} {a : ArticleCopy} (h : Balanced s) : Balanced (checkCount p x w a s) := by
  unfold checkCount
  dsimp only
  split
  · exact balanced_noteThen balanced_checkWeight (h.of_space editContext_space)
  · exact balanced_checkWeight (h.of_space editContext_space)

theorem balanced_checkLookup {x : Sighting} {w : Int} (h : Balanced s) : Balanced (checkLookup p x w s) := by
  unfold checkLookup
  split
  · exact balanced_reject h
  · dsimp only
    split
    · exact balanced_reject (h.of_space editContext_space)
    · exact balanced_checkCount (h.of_space editContext_space)

theorem balanced_runChecks (h : Balanced s) : Balanced (runChecks p s) := by
  unfold runChecks
  split
  · exact h
  · split
    · exact h
    · split
      · exact balanced_reject h
      · exact balanced_checkLookup h

/-! ### Outcomes by the context's state (R73) -/

theorem balanced_applyOutcome {n : FaultNo} {o : FaultResult} (h : Balanced s) : Balanced (applyOutcome p n o s) := by
  have chamber : ∀ c o, Balanced (takeChamber p n o (unreserve' p c s)) := fun c o =>
    balanced_takeChamber (h.of_space unreserve'_space)
  unfold applyOutcome
  split
  · exact h
  · split
    case h_1 | h_2 | h_3 =>
      cases o
      · exact h
      all_goals exact chamber _ _
    all_goals cases o <;> exact h.of_space (by simp)

theorem balanced_sightingIdle {x : Sighting} (h : Balanced s) : Balanced (sightingIdle p x s) := by
  unfold sightingIdle
  dsimp only
  split
  · split <;> exact h.of_space (by simp)
  · exact balanced_runChecks (h.of_space editContext_space)

theorem balanced_sightingBy {x : Sighting} (h : Balanced s) : Balanced (sightingBy p x s) := by
  unfold sightingBy
  split
  · exact h
  · split
    · exact h.of_space offerIntake_space
    · exact h.of_space offerIntake_space
    · exact balanced_sightingIdle h
    all_goals
      split
      · exact h
      · exact balanced_applyOutcome (h.of_space raiseFrom_space)

theorem balanced_sighting {x : Sighting} (h : Balanced s) : Balanced (sighting p x s) := by
  unfold sighting
  split
  · exact h
  · exact balanced_sightingBy (h.of_space restartIdle_space)

theorem balanced_holdExpiry (h : Balanced s) : Balanced (holdExpiry p s) := by
  unfold holdExpiry
  split
  · exact h
  · split
    · exact balanced_takeChamber (h.of_space (raiseFrom_space.trans unreserve'_space))
    · exact h

theorem balanced_handoverExpiry (h : Balanced s) : Balanced (handoverExpiry p s) := by
  unfold handoverExpiry
  split
  · exact h
  · split
    · split
      · exact balanced_applyOutcome (h.of_space (by simp))
      · exact balanced_applyOutcome (h.of_space (by simp))
      all_goals exact h.of_space (by simp)
    · exact h

theorem balanced_reselectionNotice {q : Byte} {l : Option LineIx} {k : LineIx} (h : Balanced s) :
    Balanced (reselectionNotice p q l k s) := by
  unfold reselectionNotice
  split
  · exact h
  · split
    · split
      · exact h.of_space setContext_space
      · dsimp only
        split
        · exact h.of_space (returnContainer_space.trans editContext_space)
        · exact balanced_takeChamber (h.of_space (raiseFrom_space.trans editContext_space))
    · exact h

theorem balanced_gateFault {k : GateFaultKind} {t : Tag} {g : Gen} {b : HopSet} (h : Balanced s) :
    Balanced (gateFault p k t g b s) := by
  unfold gateFault
  dsimp only
  split
  · exact h
  · split
    · exact balanced_takeChamber (h.of_space (raiseFrom_space.trans editContext_space))
    · exact balanced_applyOutcome (h.of_space raiseFrom_space)

theorem balanced_closeCompleted (h : Balanced s) : Balanced (closeCompleted p s) := by
  unfold closeCompleted
  split
  · exact h
  · split
    · split
      · exact balanced_checkCapacity balanced_takeKept h
      · exact balanced_checkCapacity balanced_takeChamber h
    · exact h

theorem balanced_resumeFromRoomStop (h : Balanced s) : Balanced (resumeFromRoomStop s p) := by
  unfold resumeFromRoomStop
  split
  · exact h
  · split
    · exact balanced_runChecks h
    · exact h

theorem balanced_roomStopReport {b : Bool} (h : Balanced s) : Balanced (roomStopReport b s) := by
  have recorded : Balanced { s with admission := { s.admission with roomStop := b } } := h
  unfold roomStopReport
  dsimp only
  split
  · exact recorded
  · exact balanced_foldl balanced_resumeFromRoomStop recorded

theorem balanced_intakeArrival {b : Bool} (h : Balanced s) : Balanced (intakeArrival p b s) := by
  unfold intakeArrival
  split
  · exact h
  · split
    · exact balanced_applyOutcome (h.of_space raiseFrom_space)
    · exact h.of_space tellHead_space

/-! ### Roles given up (R3) and state reports (R56) -/

theorem balanced_takeLinkReports (h : Balanced s) : Balanced (takeLinkReports p s) := by
  have taken : ∀ {t m}, Balanced t → Balanced (takeLinkReport p t m) := fun k => by
    unfold takeLinkReport
    split
    · split
      · exact balanced_intakeArrival k
      · exact k
    · split
      · exact k.of_space intakeDeparture_space
      · exact k
    · exact k
  have noSpace : ∀ m, isLinkReport p m = true → messageReservation m = none := fun m hm => by
    unfold isLinkReport at hm
    split at hm
    · rfl
    · rfl
    · cases hm
  unfold takeLinkReports takeWaiting
  dsimp only
  split
  · exact h
  · exact balanced_foldl taken (h.of_space (mailFilter_space fun m hm => noSpace m (by simpa using hm)))

theorem balanced_removeRole {r : Role} (h : Balanced s) : Balanced (removeRole p r s) := by
  unfold removeRole
  split
  · exact (balanced_takeLinkReports (p := p) h).of_space (by simp)
  all_goals exact h.of_space (by simp)

theorem balanced_changeRole {a b : Role} (h : Balanced s) : Balanced (changeRole p a b s) := by
  unfold changeRole
  split
  · exact h
  · exact (balanced_removeRole (p := p) (r := a) h).of_space (by simp [messageReservation])

theorem balanced_applyEntry {e : PortEntry} (h : Balanced s) : Balanced (applyEntry p e s) := by
  have moved : Balanced (changeRole p (s.port p).entry.role e.role
      (moveForWrite p (s.port p).entry e (s.setPort p { s.port p with entry := e }))) :=
    balanced_changeRole (h.of_space (moveForWrite_space.trans setPort_space))
  unfold applyEntry
  dsimp only
  split
  · exact moved
  · exact moved.of_space retryClose_space

theorem balanced_portWrite {i : Nat} {x : PortFields} (h : Balanced s) : Balanced (portWrite i x s).state := by
  unfold portWrite
  split
  · exact h
  · split
    · exact h
    · split
      · exact h
      · split
        · exact h
        · exact balanced_applyEntry h

theorem balanced_adminWrite {i : Nat} {b : Bool} (h : Balanced s) : Balanced (adminWrite i b s).state := by
  unfold adminWrite
  split
  · exact h
  · exact balanced_portWrite h

theorem balanced_shutdownReport {x : CtxState} {r : Option StopReason} (h : Balanced s) : Balanced (shutdownReport p x r s) := by
  unfold shutdownReport
  split
  · exact (balanced_applyEntry h).of_space request_space
  · exact h

@[simp] theorem lockReport_space {x y : CtxState} : (lockReport x y s).space = s.space := by
  unfold lockReport; split <;> simp

theorem balanced_stateReport {x : CtxState} {r : Option StopReason} {q : Option Byte} (h : Balanced s) :
    Balanced (stateReport p x r q s) := by
  have reported : Balanced (faultReportState p x r q (tallyReport p x s)) := by
    unfold faultReportState
    split
    · exact h.of_space tallyReport_space
    · exact balanced_shutdownReport (h.of_space (by simp))
  exact reported.of_space (by simp [stateReport])

end Asking

section Giving
variable {s : State} {p : Port} {k : Tag} {g : Gen} {u : EntryUse}

/-! ### Entries that give their space back (R108 to R119) -/

theorem entries_clearGates {r : List Hop} : (clearGates k g r s).transit.entries = s.transit.entries := by
  have sent : ∀ (t : State) (q : Port) (c : ClearFrame), (sendClear q c t).transit.entries = t.transit.entries := fun t q c => by
    unfold sendClear; dsimp only; (repeat' split) <;> rfl
  unfold clearGates
  induction r generalizing s with
  | nil => rfl
  | cons h hs ih => exact ih.trans (sent _ _ _)

theorem entry_clearGates {r : List Hop} : (clearGates k g r s).entry k = s.entry k := by
  simp only [State.entry, entries_clearGates]

theorem balanced_freeEntry (hu : (s.entry k).use = some u) (h : Balanced s) :
    Balanced (freeEntry k (s.entry k).gen u s) := ⟨h.1, space_freeEntry hu h.2⟩

theorem balanced_cancelEntry (hu : (s.entry k).use = some u) (h : Balanced s) :
    Balanced (cancelEntry k (s.entry k).gen u s) := by
  have cleared := entry_clearGates (s := s) (k := k) (g := (s.entry k).gen) (r := u.route)
  have freed := balanced_freeEntry (by rw [cleared]; exact hu) (h.of_space (clearGates_space (k := k) (g := (s.entry k).gen)
    (r := u.route)))
  rwa [cleared] at freed

theorem balanced_cancelWithFault {f : GateFaultKind} {b : HopSet} (hu : (s.entry k).use = some u) (h : Balanced s) :
    Balanced (cancelWithFault k (s.entry k).gen u f b s) := (balanced_cancelEntry hu h).of_space (post_space_none rfl)

theorem balanced_loseEntry {f : TransitFaultKind} (hu : (s.entry k).use = some u) (h : Balanced s) :
    Balanced (loseEntry k (s.entry k).gen u f s) := (balanced_freeEntry hu h).of_space (post_space_none rfl)

theorem balanced_takeRecord {r : ContainerRecord} (h : Balanced s) : Balanced (takeRecord k g r s) := by
  unfold takeRecord
  dsimp only
  split
  · exact h
  · rename_i u hu
    split
    · rename_i waits
      obtain ⟨-, -, rfl⟩ := waits
      have entry : (offerGates k (s.entry k).gen 0 u.route s).2.entry k = s.entry k := by
        simp only [State.entry, offerGates_transit]
      have offered : Balanced (offerGates k (s.entry k).gen 0 u.route s).2 := h.of_space offerGates_space
      split
      · refine offered.of_space (setEntry_space ?_)
        rw [entry]
        rfl
      · have cancelled := balanced_cancelWithFault (u := u) (f := .refused) (b := addBit u.refusal ‹Nat›)
          (by rw [entry]; exact hu) offered
        rwa [entry] at cancelled
    · exact h

theorem balanced_takeAck {i : HopIx} {x : GateResult} (hu : (s.entry k).use = some u) (h : Balanced s) :
    Balanced (takeAck k (s.entry k) u i x s) := by
  have same : Entry.hold { s.entry k with use := some { u with ack := addBit u.ack i.val } } = (s.entry k).hold := by
    simp [Entry.hold, hu]
  unfold takeAck
  split
  · split
    · exact h
    · dsimp only
      split
      · exact h.of_space (offerRelease_space same)
      · exact h.of_space (setEntry_space same)
  all_goals exact balanced_cancelWithFault hu h

theorem balanced_gateAck {i : HopIx} {x : GateResult} (h : Balanced s) : Balanced (gateAck p k g i x s) := by
  unfold gateAck
  dsimp only
  split
  · exact h.of_space request_space
  · split
    · exact balanced_takeAck ‹_› h
    · exact h.of_space request_space

theorem balanced_gateAckExpiry (h : Balanced s) : Balanced (gateAckExpiry k s) := by
  unfold gateAckExpiry
  dsimp only
  split
  · exact h
  · split
    · exact balanced_cancelWithFault ‹_› h
    · exact h

theorem balanced_cancelRequest (h : Balanced s) : Balanced (cancelRequest k g s) := by
  unfold cancelRequest
  dsimp only
  split
  · exact h
  · split
    · rename_i named
      obtain ⟨-, rfl⟩ := named
      exact balanced_cancelEntry ‹_› h
    · exact h

theorem balanced_freeRequest (h : Balanced s) : Balanced (freeRequest k g s) := by
  unfold freeRequest
  dsimp only
  split
  · exact h
  · split
    · rename_i named
      obtain ⟨-, rfl⟩ := named
      exact balanced_freeEntry ‹_› h
    · exact h

theorem balanced_sorterDownEntry (h : Balanced s) : Balanced (sorterDownEntry p s k) := by
  unfold sorterDownEntry
  dsimp only
  split
  · exact h
  · split
    · exact balanced_cancelWithFault ‹_› h
    · exact h

theorem balanced_passage {x : Gate} (h : Balanced s) : Balanced (passage p k g x s) := by
  unfold passage
  dsimp only
  split
  · exact h.of_space request_space
  · split
    · rename_i named
      obtain ⟨-, rfl⟩ := named
      split
      · exact h.of_space (setEntry_space rfl)
      · exact balanced_loseEntry ‹_› h
    · exact h.of_space request_space

theorem balanced_arrival (h : Balanced s) : Balanced (arrival p k g s) := by
  unfold arrival
  dsimp only
  split
  · exact h.of_space request_space
  · split
    · rename_i named
      obtain ⟨-, rfl⟩ := named
      split
      · exact balanced_freeEntry ‹_› h
      · exact balanced_loseEntry ‹_› h
    · exact h.of_space request_space

theorem balanced_transitExpiry (h : Balanced s) : Balanced (transitExpiry k s) := by
  unfold transitExpiry
  dsimp only
  split
  · exact h
  · split
    · exact balanced_loseEntry ‹_› h
    · exact h

end Giving
end Sys2Proof.Machine
end

section
/-! The space held on the lines over every command (R83, R91 to R100): what a command leaves of the budgets, of the hold queue's law
and of the law of the reserved counts. -/

namespace Sys2Proof.Machine
section Owners
variable {s : State} {p : Port}

/-! ### Management requests that leave the space as it stands (R36 to R53, R150, R163 to R178) -/

@[simp] theorem lockRead_space {i : Nat} : (lockRead i s).state.space = s.space := by
  unfold lockRead; (repeat' split) <;> rfl

@[simp] theorem readEntry_space {k i : Nat} : (readEntry k i s).state.space = s.space := by
  unfold readEntry; split <;> simp

@[simp] theorem timerWrite_space {i v : Nat} : (timerWrite i v s).state.space = s.space := by
  unfold timerWrite; split <;> rfl

@[simp] theorem materialWrite_space {i v : Nat} : (materialWrite i v s).state.space = s.space := by
  unfold materialWrite; (repeat' split) <;> rfl

@[simp] theorem classWrite_space {i k : Nat} {d : Fin 65536} : (classWrite i d k s).state.space = s.space := by
  unfold classWrite; (repeat' split) <;> rfl

@[simp] theorem schemeWrite_space {i v : Nat} : (schemeWrite i v s).state.space = s.space := by
  unfold schemeWrite; (repeat' split) <;> rfl

@[simp] theorem dispositionWrite_space {i : Nat} {x : DispositionFields} : (dispositionWrite i x s).state.space = s.space := by
  unfold dispositionWrite; (repeat' split) <;> rfl

@[simp] theorem senseWrite_space {i : Nat} {x : SenseFields} : (senseWrite i x s).state.space = s.space := by
  unfold senseWrite; (repeat' split) <;> simp

@[simp] theorem outputWrite_space {i : Nat} {x : OutputFields} : (outputWrite i x s).state.space = s.space := by
  unfold outputWrite
  split
  · rfl
  · split
    · rfl
    · exact evalOutputs_space

@[simp] theorem maskWrite_space {i : Nat} {b : BitVec 24} : (maskWrite i b s).state.space = s.space := by
  unfold maskWrite
  split
  · rfl
  · exact evalOutputs_space

@[simp] theorem lockWrite_space {i : Nat} {k : Key} : (lockWrite i k s).state.space = s.space := by
  unfold lockWrite; (repeat' split) <;> rfl

@[simp] theorem articleInsert_space {x : ArticleFields} : (articleInsert x s).state.space = s.space := by
  unfold articleInsert; (repeat' split) <;> rfl

@[simp] theorem articleReplace_space {x : ArticleFields} : (articleReplace x s).state.space = s.space := by
  unfold articleReplace; (repeat' split) <;> rfl

@[simp] theorem articleDelete_space {k : ArticleCode} : (articleDelete k s).state.space = s.space := by
  unfold articleDelete; (repeat' split) <;> rfl

@[simp] theorem articleFind_space {k : ArticleCode} : (articleFind k s).state.space = s.space := by
  unfold articleFind; (repeat' split) <;> rfl

@[simp] theorem articleRead_space {n : Nat} : (articleRead n s).state.space = s.space := by
  unfold articleRead; (repeat' split) <;> rfl

@[simp] theorem unlock_space {k : Key} : (unlock k s).state.space = s.space := by
  unfold unlock
  split
  · rfl
  · exact request_space

@[simp] theorem counterResume_space {i : Nat} : (counterResume i s).state.space = s.space := by
  unfold counterResume; (repeat' split) <;> simp

end Owners

/-! ### What a command keeps -/

/-- What every operation but a reset, a store read and a capacity write keeps of the space on the lines. -/
structure Orderly (s t : State) : Prop where
  hold : HoldLaw s → HoldLaw t ∧ Budget s t
  fair : Balanced s → Balanced t

section Orderly
variable {s t u : State}

theorem Orderly.refl (s : State) : Orderly s s := ⟨fun h => ⟨h, .refl s⟩, id⟩

theorem Orderly.of_lines (lines : t.lines = s.lines) (fair : Balanced s → Balanced t) : Orderly s t := by
  refine ⟨fun h => ⟨?_, budget_of_segments (congrArg _ lines)⟩, fair⟩
  simpa only [HoldLaw, State.line, lines] using h

theorem Orderly.of_space (h : t.space = s.space) : Orderly s t := .of_lines (congrArg Prod.fst h) fun k => k.of_space h

theorem Orderly.then_space (a : Orderly s t) (h : u.space = t.space) : Orderly s u := by
  have b := Orderly.of_space h
  exact ⟨fun k => ⟨(b.hold (a.hold k).1).1, (a.hold k).2.trans (b.hold (a.hold k).1).2⟩, fun k => b.fair (a.fair k)⟩

theorem Orderly.of_calm (h : Calm s t) (fair : Balanced s → Balanced t) : Orderly s t := ⟨h.hold, fair⟩

theorem Orderly.of_steady (h : Steady s t) (fair : Balanced s → Balanced t) : Orderly s t := ⟨h.hold, fair⟩

/-- A management request keeps what its owner keeps (R172). -/
theorem orderly_manage {r : Requester} {f : State → Answer} (h : Orderly s (f s).state) : Orderly s (manage r f s) := by
  unfold manage
  split
  · exact h.then_space placeReply_space
  · exact .refl s

theorem orderly_of_next (h : Orderly s u) (e : (.next u : Host.Outcome State Fault Refusal) = .next t) : Orderly s t := by
  cases e
  exact h

theorem orderly_takeRecord {k : Tag} {g : Gen} {r : ContainerRecord} : Orderly s (takeRecord k g r s) := by
  refine .of_lines ?_ balanced_takeRecord
  have offered : ∀ q, (offerGates k g 0 q s).2.lines = s.lines := fun q => congrArg Prod.fst offerGates_space
  have cleared : ∀ q t, (clearGates k g q t).lines = t.lines := fun q t => congrArg Prod.fst clearGates_space
  unfold takeRecord
  dsimp only
  split
  · rfl
  · split
    · split
      · exact offered _
      · exact (cleared _ _).trans (offered _)
    · rfl

theorem orderly_lineWrite {i : Nat} {x : LineFields} : Orderly s (lineWrite i x s).state := by
  refine ⟨fun h => ?_, balanced_lineWrite⟩
  unfold lineWrite
  split
  · exact ⟨h, .refl s⟩
  · split
    · exact ⟨h, .refl s⟩
    · rename_i valid
      split
      · exact ⟨h, .refl s⟩
      · exact hold_applyLine (lineRecordOf_nodup valid) h

theorem orderly_lineControl {i : Nat} {b : Bool} : Orderly s (lineControl i b s).state := by
  refine .of_calm ?_ balanced_lineControl
  unfold lineControl
  split
  · exact .refl s
  · exact calm_rederive (calm_setLineSame rfl rfl (.refl s))

theorem orderly_pitchWrite {i v : Nat} : Orderly s (pitchWrite i v s).state := by
  unfold pitchWrite
  split
  · exact .refl s
  · split
    · exact .refl s
    · exact ⟨fun h => ⟨h, budget_of_segments rfl⟩, id⟩

/-- Whether a command is one whose effect on the space is stated apart: a claim or a release notice taken, a capacity write, a
reset, a store read. -/
def movesSpace : Instr → Bool
  | .claim _ => true
  | .releaseNotice _ _ _ _ _ => true
  | .segmentWrite _ _ _ => true
  | .softReset _ => true
  | .powerOnReset => true
  | .storeReadDone _ => true
  | _ => false

/-- Every other command keeps the budgets and the two laws. -/
theorem orderly_exec {i : Instr} (apart : movesSpace i = false) (e : exec i s = .next t) : Orderly s t := by
  have same : Calm s s := .refl s
  have still : Steady s s := .refl s
  cases i with
  | powerOnReset => cases apart
  | storeReadDone m => cases apart
  | claim c => cases apart
  | releaseNotice g n l k q => cases apart
  | segmentWrite r i v => cases apart
  | softReset r => cases apart
  | signalDetect p => exact orderly_of_next (.of_space signalDetect_space) e
  | signalLoss p => exact orderly_of_next (.of_space signalLoss_space) e
  | frameArrival p b => exact orderly_of_next (.of_space frameArrival_space) e
  | announce p f => exact orderly_of_next (.of_space takeAnnounce_space) e
  | credit p f => exact orderly_of_next (.of_space creditFrame_space) e
  | frameTransmit p => exact orderly_of_next (.of_space frameTransmit_space) e
  | placeFree p o => exact orderly_of_next (.of_space placeFree_space) e
  | frameDispatch p => exact orderly_of_next (.of_space dispatchFrame_space) e
  | pass p => exact orderly_of_next (.of_space passFrame_space) e
  | sighting p x => exact orderly_of_next (.of_calm (calm_sighting same) balanced_sighting) e
  | faultOutcome p n o => exact orderly_of_next (.of_calm (calm_applyOutcome same) balanced_applyOutcome) e
  | withdrawn p q => exact orderly_of_next (.of_space withdrawn_space) e
  | returned p q => exact orderly_of_next (.of_space returned_space) e
  | dropped p q => exact orderly_of_next (.of_space dropped_space) e
  | present p => exact orderly_of_next (.of_space restartIdle_space) e
  | finish p =>
    refine orderly_of_next (.of_space ?_) e
    split <;> simp
  | headFault p n c => exact orderly_of_next (.of_space headFault_space) e
  | gateAck p g n k r => exact orderly_of_next (.of_calm (calm_gateAck same) balanced_gateAck) e
  | passage p g n k => exact orderly_of_next (.of_calm (calm_passage same) balanced_passage) e
  | arrival p g n => exact orderly_of_next (.of_calm (calm_arrival same) balanced_arrival) e
  | fill p n => exact orderly_of_next (.of_calm (calm_fill same) balanced_fill) e
  | voucherDone p n r => exact orderly_of_next (.of_space voucherDone_space) e
  | holdTimerExpiry p => exact orderly_of_next (.of_calm (calm_holdExpiry same) balanced_holdExpiry) e
  | handoverTimerExpiry p => exact orderly_of_next (.of_calm (calm_handoverExpiry same) balanced_handoverExpiry) e
  | gateAckTimerExpiry g => exact orderly_of_next (.of_calm (calm_gateAckExpiry same) balanced_gateAckExpiry) e
  | transitTimerExpiry g => exact orderly_of_next (.of_calm (calm_transitExpiry same) balanced_transitExpiry) e
  | idleTimerExpiry p => exact orderly_of_next (.of_space idleExpiry_space) e
  | replyTimerExpiry p => exact orderly_of_next (.of_space replyExpiry_space) e
  | senseAssert n => exact orderly_of_next (.of_space senseAssert_space) e
  | senseRelease n => exact orderly_of_next (.of_space senseRelease_space) e
  | debounceTimerExpiry n => exact orderly_of_next (.of_space debounceExpiry_space) e
  | containerRecord g n r => exact orderly_of_next orderly_takeRecord e
  | grantNotice p q g n l k => exact orderly_of_next (.of_space grantNotice_space) e
  | reselectionNotice p q l k =>
    exact orderly_of_next (.of_calm (calm_reselectionNotice same) balanced_reselectionNotice) e
  | removalRequest p => exact orderly_of_next (.of_calm (calm_removeEntry same) balanced_removeEntry) e
  | cancelRequest g n => exact orderly_of_next (.of_calm (calm_cancelRequest same) balanced_cancelRequest) e
  | freeRequest g n => exact orderly_of_next (.of_calm (calm_freeRequest same) balanced_freeRequest) e
  | gatesSetReport p g n => exact orderly_of_next (.of_space gatesSet_space) e
  | gateFault p k g n b => exact orderly_of_next (.of_calm (calm_gateFault same) balanced_gateFault) e
  | dropReport p g n => exact orderly_of_next (.of_space dropReport_space) e
  | posting x => exact orderly_of_next (.of_space takePostingEvent_space) e
  | dropNote p g q c => exact orderly_of_next (.of_space dropNote_space) e
  | stateReport p x r q => exact orderly_of_next (.of_steady (steady_stateReport still) balanced_stateReport) e
  | returnRequest p => exact orderly_of_next (.of_space returnRequest_space) e
  | returnAnswer p b x => exact orderly_of_next (.of_space returnAnswer_space) e
  | closeCompleted p => exact orderly_of_next (.of_calm (calm_closeCompleted same) balanced_closeCompleted) e
  | roomStopReport b => exact orderly_of_next (.of_calm (calm_roomStopReport same) balanced_roomStopReport) e
  | binFullReport l b => exact orderly_of_next (.of_calm (calm_withCauses same) balanced_withCauses) e
  | flagClear p => exact orderly_of_next (.of_space clearFlag_space) e
  | transitFault k g n p q => exact orderly_of_next (.of_space transitFault_space) e
  | voucherRequest x =>
    have made : Orderly s (createVoucher x s).2 := .of_space createVoucher_space
    refine orderly_of_next (made.then_space ?_) e
    rfl
  | voucherPlaceFreed p => exact orderly_of_next (.of_space placeFreed_space) e
  | intakeDeparture p => exact orderly_of_next (.of_space intakeDeparture_space) e
  | intakeArrival p b => exact orderly_of_next (.of_calm (calm_intakeArrival same) balanced_intakeArrival) e
  | portEventReport p => exact orderly_of_next (.of_calm (calm_portEvent same) balanced_portEvent) e
  | sorterDownReport p =>
    exact orderly_of_next (.of_calm (calm_foldl calm_sorterDownEntry same) (balanced_foldl balanced_sorterDownEntry)) e
  | counterPortReport p b => exact orderly_of_next (.of_space counterPortReport_space) e
  | conditionRequest c => exact orderly_of_next (.of_space setCondition_space) e
  | lineStateReport l x => exact orderly_of_next (.of_space lineStateReport_space) e
  | readEntry r k i => exact orderly_of_next (orderly_manage (.of_space readEntry_space)) e
  | lockRecordRead r i => exact orderly_of_next (orderly_manage (.of_space lockRead_space)) e
  | portWrite r i x => exact orderly_of_next (orderly_manage (.of_steady (steady_portWrite still) balanced_portWrite)) e
  | timerWrite r i v => exact orderly_of_next (orderly_manage (.of_space timerWrite_space)) e
  | materialWrite r i v => exact orderly_of_next (orderly_manage (.of_space materialWrite_space)) e
  | pitchWrite r i v => exact orderly_of_next (orderly_manage orderly_pitchWrite) e
  | classWrite r i d k => exact orderly_of_next (orderly_manage (.of_space classWrite_space)) e
  | schemeWrite r i v => exact orderly_of_next (orderly_manage (.of_space schemeWrite_space)) e
  | lineWrite r i x => exact orderly_of_next (orderly_manage orderly_lineWrite) e
  | dispositionWrite r i x => exact orderly_of_next (orderly_manage (.of_space dispositionWrite_space)) e
  | senseWrite r i x => exact orderly_of_next (orderly_manage (.of_space senseWrite_space)) e
  | outputWrite r i x => exact orderly_of_next (orderly_manage (.of_space outputWrite_space)) e
  | maskWrite r i b => exact orderly_of_next (orderly_manage (.of_space maskWrite_space)) e
  | lockRecordWrite r i k => exact orderly_of_next (orderly_manage (.of_space lockWrite_space)) e
  | articleInsert r x => exact orderly_of_next (orderly_manage (.of_space articleInsert_space)) e
  | articleReplace r x => exact orderly_of_next (orderly_manage (.of_space articleReplace_space)) e
  | articleDelete r k => exact orderly_of_next (orderly_manage (.of_space articleDelete_space)) e
  | articleFind r k => exact orderly_of_next (orderly_manage (.of_space articleFind_space)) e
  | articleRead r n => exact orderly_of_next (orderly_manage (.of_space articleRead_space)) e
  | articleClear r => exact orderly_of_next (orderly_manage (f := articleClear) (.of_space rfl)) e
  | unlock r k => exact orderly_of_next (orderly_manage (.of_space unlock_space)) e
  | relock r => exact orderly_of_next (orderly_manage (f := relock) (.of_space rfl)) e
  | clearConditions r b =>
    exact orderly_of_next (orderly_manage (f := clearConditions b) (.of_space clearNamed_space)) e
  | clearSense r b => exact orderly_of_next (orderly_manage (f := clearSense b) (.of_space releaseInputs_space)) e
  | intakeResume r n =>
    exact orderly_of_next (orderly_manage (.of_space (intakeControl_space fun _ _ => resumeContext_space))) e
  | intakeStopControl r n =>
    exact orderly_of_next (orderly_manage (.of_space (intakeControl_space fun _ _ => stopControl_space))) e
  | clearFault r n => exact orderly_of_next (orderly_manage (.of_space (intakeControl_space fun _ _ => clearFlag_space))) e
  | portEnable r n => exact orderly_of_next (orderly_manage (.of_steady (steady_adminWrite still) balanced_adminWrite)) e
  | portDisable r n => exact orderly_of_next (orderly_manage (.of_steady (steady_adminWrite still) balanced_adminWrite)) e
  | portReset r n => exact orderly_of_next (orderly_manage (.of_space portReset_space)) e
  | lineEnable r n => exact orderly_of_next (orderly_manage orderly_lineControl) e
  | lineDisable r n => exact orderly_of_next (orderly_manage orderly_lineControl) e
  | counterResume r n => exact orderly_of_next (orderly_manage (.of_space counterResume_space)) e
  | readState r k i n => exact orderly_of_next (orderly_manage (.of_space (congrArg State.space readState_state))) e
  | storeSave r => exact orderly_of_next (.of_space storeSave_space) e
  | storeSaveDone x => exact orderly_of_next (.of_space storeSaveDone_space) e

end Orderly
end Sys2Proof.Machine
end

section
/-! The commands whose effect on the space on the lines is their own: a claim and a release notice taken, a capacity write, the resets
and the store read (R91, R92, R95, R101, R103, R120, R181). -/

namespace Sys2Proof.Machine
section Moving
variable {s t : State}

/-! ### Reservations at the front of the messages, and none at all -/

/-- A message at the front adds its reservation, when it has one. -/
theorem reservations_front (c : Instr) :
    (reservations { s with mail := c :: s.mail }).Perm ((messageReservation c).toList ++ reservations s) := by
  have front : (c :: s.mail).filterMap messageReservation =
      (messageReservation c).toList ++ s.mail.filterMap messageReservation := by
    cases h : messageReservation c <;> simp [h]
  show ((indices 64).filterMap (entryReservation s) ++ (c :: s.mail).filterMap messageReservation).Perm _
  rw [front, reservations, ← List.append_assoc, ← List.append_assoc]
  exact List.perm_append_comm.append_right _

theorem spaceOf_front {c : Instr} (h : SpaceLaw { s with mail := c :: s.mail }) :
    SpaceOf ((messageReservation c).toList ++ reservations s) s.lines := (spaceLaw_iff.mp h).perm (reservations_front c)

theorem reservations_none (entries : ∀ k, (s.entry k).use = none) (mail : ∀ m ∈ s.mail, messageReservation m = none) :
    reservations s = [] := by
  have idle : entryReservation s = fun _ => none := funext fun k => by simp [entryReservation, entries]
  rw [reservations, idle, List.filterMap_eq_nil_iff.mpr mail]
  simp

/-- With no reservation the law asks for counts of 0. -/
theorem spaceLaw_empty (none : reservations s = []) (reserved : ∀ g, (cell s.lines.segments g).reserved = 0)
    (live : ∀ l, (s.line l).live = 0) : SpaceLaw s := by
  simp [SpaceLaw, none, reserved, live]

/-! ### A release notice (R95) -/

/-- A notice that the law counts names a tag that is claimed in its generation, and gives back what it reserved. -/
theorem space_release {k : Tag} {g : Gen} {l : LineIx} {n : Nat} {q : List SegIx} (distinct : ∀ m, (s.line m).record.segments.Nodup)
    (h : SpaceLaw { s with mail := .releaseNotice k g l n q :: s.mail }) : SpaceLaw (release k g l n q s) := by
  have held : SpaceOf (⟨k, g, l, n, q⟩ :: reservations s) s.lines := spaceOf_front h
  have tag : cell s.lines.tags k = ⟨false, g⟩ := (held.2.1 _ List.mem_cons_self).1
  have record : ∀ m, ((released k g l n q s).line m).record = (s.line m).record := fun m => by
    by_cases e : m = l
    · subst e; simp [released, State.line]
    · simp [released, State.line, e]
  rw [release_claimed (by rw [tag]) (by rw [tag])]
  exact space_walk (fun m => by rw [record]; exact distinct m) (space_released held)

/-! ### A capacity write (R91) -/

theorem hold_segmentWrite {i v : Nat} (h : HoldLaw s) : HoldLaw (segmentWrite i v s).state := by
  unfold segmentWrite
  split
  · exact h
  · rename_i g _
    have written : HoldLaw { s with lines := { s.lines with
        segments := put s.lines.segments g { cell s.lines.segments g with capacity := clamp 0 255 v } } } := h
    exact (hold_walk written).1

/-! ### A soft reset (R101, R120) -/

theorem holdLaw_softReset (h : HoldLaw s) : HoldLaw (softReset s) := by
  have line := line_softReset (s := s)
  have queue : (softReset s).lines.holdQueue = [] := by
    obtain ⟨high, done⟩ := softReset_eq s
    rw [done]
    rfl
  refine ⟨fun l => ?_, by simp [queue]⟩
  rw [line]
  exact h.1 l

theorem segment_softReset (g : SegIx) :
    cell (softReset s).lines.segments g = { cell s.lines.segments g with reserved := 0 } := by
  obtain ⟨high, done⟩ := softReset_eq s
  rw [done]
  exact cell_mapCells _ _ g

theorem budget_softReset : Budget s (softReset s) := fun g => by
  rw [segment_softReset]
  exact ⟨rfl, .inl (Nat.zero_le _)⟩

theorem reservation_stopReport {p : Port} : ∀ m ∈ stopReport s p, messageReservation m = none := by
  unfold stopReport
  split
  · split <;> simp [messageReservation]
  · simp

theorem spaceLaw_softReset (h : ∀ m ∈ s.mail, messageReservation m = none) : SpaceLaw (softReset s) := by
  have entries : ∀ k, ((softReset s).entry k).use = none := fun k => by
    obtain ⟨high, done⟩ := softReset_eq s
    rw [done]
    exact congrArg Entry.use (cell_mapCells _ _ k)
  have mail : ∀ m ∈ (softReset s).mail, messageReservation m = none := fun m hm => by
    rw [mail_softReset, List.mem_append, List.mem_append] at hm
    obtain (kept | stopped) | line := hm
    · exact h m (List.mem_of_mem_filter kept)
    · obtain ⟨p, -, hp⟩ := List.mem_flatMap.mp stopped
      exact reservation_stopReport m hp
    · obtain ⟨l, -, rfl⟩ := List.mem_map.mp line
      rfl
  refine spaceLaw_empty (reservations_none entries mail) (fun g => ?_) (fun l => ?_)
  · rw [segment_softReset]
  · rw [line_softReset]
    rfl

/-! ### A store read (R101, R181) -/

/-- The segments of a line record are distinct in every image that is read (R81, R181). -/
theorem segments_tablesRead (m : ConfigStore) (l : LineIx) : (cell (tablesRead m).lines l).1.segments.Nodup := by
  cases h : validImage m with
  | true =>
    rw [tablesRead_valid h]
    exact (cell_tabulate 8 (fun k => loadLine (m.body.take 724) (245 + 32 * k.val) k) l).symm ▸ List.nodup_dedup _
  | false =>
    rw [tablesRead_invalid h]
    exact (cell_tabulate 8 (fun k => (LineRecord.default k, false)) l).symm ▸ List.nodup_singleton _

theorem line_completeRead (l : LineIx) : (completeRead s).line l = loadedLine (cell (tablesRead s.store).lines l) := by
  obtain ⟨high, read⟩ := completeRead_eq_tablesStarted s
  rw [read]
  exact line_tablesStarted l

theorem holdLaw_completeRead (h : s.lines.holdQueue = []) : HoldLaw (completeRead s) := by
  have line := line_completeRead (s := s)
  have queue : (completeRead s).lines.holdQueue = [] := by
    obtain ⟨high, read⟩ := completeRead_eq_tablesStarted s
    rw [read]
    exact h
  refine ⟨fun l => ?_, by simp [queue]⟩
  rw [line]
  exact segments_tablesRead s.store l

theorem spaceLaw_completeRead (h : reservations s = []) : SpaceLaw (completeRead s) := by
  obtain ⟨entries, mail⟩ := List.append_eq_nil_iff.mp h
  rw [List.filterMap_eq_nil_iff] at entries mail
  have line := line_completeRead (s := s)
  obtain ⟨high, read⟩ := completeRead_eq_tablesStarted s
  rw [read] at line ⊢
  refine spaceLaw_empty (reservations_none (fun k => ?_) fun m hm => ?_) (fun g => ?_) (fun l => ?_)
  · have idle : entryReservation s k = none := entries k (mem_indices k)
    exact Option.map_eq_none_iff.mp idle
  · rw [List.mem_append, List.mem_append] at hm
    obtain (kept | line) | default := hm
    · exact mail m kept
    · obtain ⟨l, -, rfl⟩ := List.mem_map.mp line
      rfl
    · split at default
      · cases default
      · obtain rfl := List.mem_singleton.mp default
        rfl
  · exact congrArg Segment.reserved (cell_mapCells _ _ g)
  · rw [line]
    rfl

/-! ### Each of them, and every command -/

/-- What O57 claims of a command c that takes s to t. -/
def SpaceKept (s t : State) (c : Instr) : Prop :=
  ((∀ m, c = .storeReadDone m → s.lines.holdQueue = []) → HoldLaw t) ∧
  ((∀ r i v, c ≠ .segmentWrite r i v) → c ≠ .powerOnReset → (∀ m, c ≠ .storeReadDone m) → ∀ g,
    (cell t.lines.segments g).capacity = (cell s.lines.segments g).capacity ∧
    ((cell t.lines.segments g).reserved ≤ (cell s.lines.segments g).reserved ∨
      (cell t.lines.segments g).reserved ≤ (cell t.lines.segments g).capacity)) ∧
  (SpaceLaw { s with mail := c :: s.mail } →
    (∀ r, c = .softReset r → ∀ m ∈ s.mail, messageReservation m = none) →
    (∀ m, c = .storeReadDone m → reservations s = []) → SpaceLaw t)

/-- The capacities stand, so that the budget may be read with either. -/
theorem Budget.within (h : Budget s t) (g : SegIx) :
    (cell t.lines.segments g).capacity = (cell s.lines.segments g).capacity ∧
    ((cell t.lines.segments g).reserved ≤ (cell s.lines.segments g).reserved ∨
      (cell t.lines.segments g).reserved ≤ (cell t.lines.segments g).capacity) := by
  obtain ⟨capacity, reserved⟩ := h g
  exact ⟨capacity, by rwa [capacity]⟩

theorem spaceKept_of_hold {c : Instr} (hold : HoldLaw t ∧ Budget s t)
    (space : SpaceLaw { s with mail := c :: s.mail } → SpaceLaw t) : SpaceKept s t c :=
  ⟨fun _ => hold.1, fun _ _ _ => hold.2.within, fun law _ _ => space law⟩

theorem spaceKept_of_orderly {c : Instr} (noSpace : messageReservation c = none) (hold : HoldLaw s) (h : Orderly s t) :
    SpaceKept s t c := by
  refine spaceKept_of_hold (h.hold hold) fun law => (h.fair ⟨hold.1, ?_⟩).2
  have front := spaceOf_front law
  rwa [noSpace] at front

theorem reservation_of_apart {c : Instr} (apart : movesSpace c = false) : messageReservation c = none := by
  unfold messageReservation
  split
  · cases apart
  · cases apart
  · rfl

/-- A managed request keeps what its owner keeps (R172). -/
theorem holdLaw_of_space (e : t.space = s.space) (h : HoldLaw s) : HoldLaw t := ((Orderly.of_space e).hold h).1

theorem spaceKept_segmentWrite {r : Requester} {i v : Nat} (hold : HoldLaw s) :
    SpaceKept s (manage r (segmentWrite i v) s) (.segmentWrite r i v) := by
  have kept : HoldLaw (manage r (segmentWrite i v) s) ∧ (Balanced s → Balanced (manage r (segmentWrite i v) s)) := by
    unfold manage
    split
    · exact ⟨holdLaw_of_space placeReply_space (hold_segmentWrite hold),
        fun fair => (balanced_segmentWrite fair).of_space placeReply_space⟩
    · exact ⟨hold, id⟩
  exact ⟨fun _ => kept.1, fun other => absurd rfl (other r i v), fun law _ _ => (kept.2 ⟨hold.1, spaceOf_front law⟩).2⟩

theorem spaceKept_softReset {r : Requester} (hold : HoldLaw s) : SpaceKept s (manage r softResetRequest s) (.softReset r) := by
  have owner : HoldLaw (softResetRequest s).state ∧ Budget s (softResetRequest s).state ∧
      (Balanced s → (∀ m ∈ s.mail, messageReservation m = none) → Balanced (softResetRequest s).state) := by
    unfold softResetRequest
    split
    · exact ⟨hold, .refl s, fun fair _ => fair⟩
    · rw [answer_state]
      have law := holdLaw_softReset hold
      exact ⟨law, budget_softReset, fun _ mail => ⟨law.1, spaceLaw_softReset mail⟩⟩
  obtain ⟨law, budget, fair⟩ := owner
  unfold manage
  split
  · have placed : (placeReply r (softResetRequest s).status (softResetRequest s).data (softResetRequest s).state).space =
        (softResetRequest s).state.space := placeReply_space
    obtain ⟨law', budget'⟩ := (Orderly.of_space placed).hold law
    exact ⟨fun _ => law', fun _ _ _ => (budget.trans budget').within, fun space mail _ =>
      ((fair ⟨hold.1, spaceOf_front space⟩ (mail r rfl)).of_space placed).2⟩
  · exact spaceKept_of_orderly rfl hold (.refl s)

theorem spaceKept_storeReadDone {m : Option ConfigStore} (hold : HoldLaw s) : SpaceKept s (storeReadDone m s) (.storeReadDone m) := by
  unfold storeReadDone
  split
  · split
    · exact ⟨fun queue => holdLaw_completeRead (queue _ rfl), fun _ _ other => absurd rfl (other _),
        fun _ _ none => spaceLaw_completeRead (none _ rfl)⟩
    · exact ⟨fun queue => holdLaw_completeRead (queue _ rfl), fun _ _ other => absurd rfl (other _),
        fun _ _ none => spaceLaw_completeRead (s := { s with store := _ }) (none _ rfl)⟩
  · exact spaceKept_of_orderly rfl hold (.refl s)

end Moving

/-- Settles O57: a claim moves its reservation to its entry, a release notice ends its own, a capacity write walks the queue, the
resets and the store read leave nothing reserved, and every other command is orderly (orderly_exec). -/
theorem spaceIsNeverOverbooked : Obligations.SpaceIsNeverOverbooked := by
  intro s t c hold e
  suffices SpaceKept s t c from this
  have refl : Calm s s := .refl s
  cases c with
  | claim x =>
    cases e
    exact spaceKept_of_hold ((calm_takeClaim refl).hold hold) space_claim
  | releaseNotice k g l n q =>
    cases e
    exact spaceKept_of_hold (hold_release hold) (space_release hold.1)
  | segmentWrite r i v =>
    cases e
    exact spaceKept_segmentWrite hold
  | softReset r =>
    cases e
    exact spaceKept_softReset hold
  | powerOnReset =>
    cases e
    exact ⟨fun _ => holdLaw_reset, fun _ other => absurd rfl other, fun _ _ _ => spaceLaw_reset⟩
  | storeReadDone m =>
    cases e
    exact spaceKept_storeReadDone hold
  | _ => exact spaceKept_of_orderly (reservation_of_apart rfl) hold (orderly_exec rfl e)

end Sys2Proof.Machine
end

section
/-! The transit table's entries (chapter 6), one equation per event on an entry in use and one on an entry that is not; with the claim,
the container record and the GATE_ACK (R103 to R107). -/

namespace Sys2Proof.Machine

section Gating
variable {s : State} {p : Port} {t : Tag} {g : Gen} {u : EntryUse} {e : Entry}

/-! ### What a gate event asks of its entry -/

theorem setting_iff : e.setting = true ↔ e.state = .gating ∧ (e.step = some .setting ∨ e.step = some .releaseWait) := by
  simp [Entry.setting]

theorem ackNamesHop_iff {h : HopIx} : ackNamesHop u p h = true ↔ ∃ k, u.route[h.val]? = some k ∧ k.port = p := by
  unfold ackNamesHop
  cases u.route[h.val]? <;> simp

/-! ### GATE_SET in hop order (R104) -/

/-- A hop whose port takes its GATE_SET passes the turn to the next. -/
theorem offerGates_next {i : Nat} {h : Hop} {r : List Hop} (empty : cell s.transit.backlog h.port = [])
    (accepted : offerAnswer s h.port = .accepted) :
    offerGates t g i (h :: r) s = offerGates t g (i + 1) r (enqueue s h.port (.gateSet t g i h.gate h.position)) := by
  simp [offerGates, empty, accepted]

/-- A hop with a clear backlog, or whose port refuses the frame, ends the offers there. -/
theorem offerGates_refused {i : Nat} {h : Hop} {r : List Hop}
    (refused : cell s.transit.backlog h.port ≠ [] ∨ offerAnswer s h.port ≠ .accepted) :
    offerGates t g i (h :: r) s = (some i, s) := by
  by_cases empty : cell s.transit.backlog h.port = []
  · have no := refused.resolve_left (not_not_intro empty)
    cases ha : offerAnswer s h.port with
    | accepted => exact absurd ha no
    | _ => simp [offerGates, empty, ha]
  · simp [offerGates, empty]

/-! ### CONTAINER_RECORD (R104) -/

theorem takeRecord_ignored {r : ContainerRecord} (h : (s.entry t).use = none ∨ (s.entry t).state ≠ .gating ∨
    (s.entry t).step ≠ some .awaitingRecord ∨ (s.entry t).gen ≠ g) : takeRecord t g r s = s := by
  unfold takeRecord
  dsimp only
  split
  · rfl
  · rename_i u hu
    refine if_neg fun ⟨state, step, gen⟩ => ?_
    simp [hu, state, step, gen] at h

/-- A record awaited in AWAITING_RECORD is settled by the offers of the GATE_SET frames. -/
theorem takeRecord_awaited {r : ContainerRecord} (hu : (s.entry t).use = some u) (state : (s.entry t).state = .gating)
    (step : (s.entry t).step = some .awaitingRecord) (gen : (s.entry t).gen = g) :
    (∀ v, offerGates t g 0 u.route s = (none, v) → takeRecord t g r s = v.setEntry t { s.entry t with
      step := some .setting, record := some r.cargo, timer := startTimer s.mgmt.timers.gateAck }) ∧
    ∀ i v, offerGates t g 0 u.route s = (some i, v) →
      takeRecord t g r s = cancelWithFault t g u .refused (addBit u.refusal i) v := by
  constructor
  · intro v offered
    simp [takeRecord, hu, state, step, gen, offered]
  · intro i v offered
    simp [takeRecord, hu, state, step, gen, offered]

/-! ### The RELEASE offered to the intake (R107) -/

theorem offerRelease_accepted (h : offerAnswer s u.intake = .accepted) : offerRelease t e u s =
    ((enqueue s u.intake (.release t e.gen u.seq)).setEntry t
      { e with state := .releaseSent, step := none, heldRelease := false, timer := none }).post
      (.gatesSetReport u.intake t e.gen) := by
  unfold offerRelease
  rw [h]
  rfl

theorem offerRelease_queueFull (h : offerAnswer s u.intake = .queueFull) :
    offerRelease t e u s = s.setEntry t { e with step := some .releaseWait, heldRelease := true } := by
  unfold offerRelease
  rw [h]

theorem offerRelease_notUp (h : offerAnswer s u.intake = .notUp) :
    offerRelease t e u s = s.setEntry t { e with step := some .releaseWait, heldRelease := false } := by
  unfold offerRelease
  rw [h]

/-! ### GATE_ACK (R105, R106) -/

theorem gateAck_unused {h : HopIx} {x : GateResult} (hu : (s.entry t).use = none) :
    gateAck p t g h x s = s.request .staleFrame := by simp only [gateAck, hu]

theorem gateAck_used {h : HopIx} {x : GateResult} (hu : (s.entry t).use = some u) : gateAck p t g h x s =
    if (s.entry t).gen = g ∧ (s.entry t).setting = true ∧ ackNamesHop u p h = true then takeAck t (s.entry t) u h x s
    else s.request .staleFrame := by simp only [gateAck, hu]

theorem takeAck_refused {h : HopIx} {x : GateResult} (hx : x ≠ .normal) :
    takeAck t e u h x s = cancelWithFault t e.gen u .refused (addBit u.refusal h.val) s := by
  cases x with
  | normal => exact absurd rfl hx
  | _ => rfl

theorem takeAck_repeated {h : HopIx} (again : u.ack.getLsbD h.val = true) : takeAck t e u h .normal s = s := if_pos again

/-- The use of an entry with one more hop acknowledged (R106). -/
def EntryUse.joined (u : EntryUse) (h : HopIx) : EntryUse := { u with ack := addBit u.ack h.val }

theorem takeAck_joined {h : HopIx} (first : u.ack.getLsbD h.val = false) : takeAck t e u h .normal s =
    if (u.joined h).ack = allHops u.route.length then offerRelease t { e with use := some (u.joined h) } (u.joined h) s
    else s.setEntry t { e with use := some (u.joined h) } := if_neg (Bool.eq_false_iff.mp first)

end Gating

/-- Settles O39: the claim by its definition, an ignored record by the entry's state, a record awaited by the answer to the offers. -/
theorem claimsAndRecordsAreTaken : Obligations.ClaimsAndRecordsAreTaken := by
  refine fun s => ⟨fun c => rfl, fun t g r => ⟨fun h => congrArg _ (takeRecord_ignored h), fun u hu state step gen => ?_⟩⟩
  obtain ⟨taken, refused⟩ := takeRecord_awaited (r := r) hu state step gen
  refine ⟨fun h one empty accepted => congrArg _ (taken _ ?_), fun h rest route blocked => congrArg _ (refused 0 s ?_),
    fun i v offered => congrArg _ (refused i v offered), fun v offered => congrArg _ (taken v offered)⟩
  · rw [one, offerGates_next empty accepted]
    rfl
  · rw [route, offerGates_refused blocked]

/-- Settles O40: a GATE_ACK by what it names, a NORMAL one by the ack set it makes, a full set by the intake port's answer. -/
theorem gatesAreAcknowledged : Obligations.GatesAreAcknowledged := by
  refine fun s p t g h x => ⟨fun hu => congrArg _ (gateAck_unused hu), fun u hu => ⟨fun stale => ?_, fun gen opened names => ?_⟩⟩
  · refine congrArg _ ((gateAck_used hu).trans (if_neg fun ⟨same, setting, named⟩ => ?_))
    rcases stale with other | closed | elsewhere
    · exact other same
    · exact closed (setting_iff.mp setting)
    · exact elsewhere (ackNamesHop_iff.mp named)
  · have taken : ∀ y, gateAck p t g h y s = takeAck t (s.entry t) u h y s := fun y =>
      (gateAck_used hu).trans (if_pos ⟨gen, setting_iff.mpr opened, ackNamesHop_iff.mpr names⟩)
    subst gen
    refine ⟨fun other => congrArg _ ((taken x).trans (takeAck_refused other)),
      fun again => congrArg _ ((taken .normal).trans (takeAck_repeated again)), fun first => ?_⟩
    have joined := (taken .normal).trans (takeAck_joined first)
    refine ⟨fun more => congrArg _ (joined.trans (if_neg more)), fun full => ?_⟩
    have offered := joined.trans (if_pos full)
    exact ⟨fun ha => congrArg _ (offered.trans (offerRelease_accepted ha)),
      fun ha => congrArg _ (offered.trans (offerRelease_queueFull ha)),
      fun ha => congrArg _ (offered.trans (offerRelease_notUp ha))⟩

end Sys2Proof.Machine
end

section
/-! The ways an entry is given up before its drop (R108 to R112, R115), and the GATE_CLEAR frames of its route (R110). -/

namespace Sys2Proof.Machine

section GivingUp
variable {s : State} {p : Port} {t : Tag} {g : Gen} {u : EntryUse}

/-! ### The hops of a route at a port (R112) -/

theorem getLsbD_addBit {n : Nat} (b : BitVec n) {i : Nat} (j : Nat) (hi : i < n) :
    (addBit b j).getLsbD i = (b.getLsbD i || j == i) := by
  have member : (1#n <<< j).getLsbD i = (j == i) := by
    rw [BitVec.getLsbD_shiftLeft, BitVec.getLsbD_one, Bool.eq_iff_iff]
    simp
    omega
  rw [addBit, BitVec.getLsbD_or, member]

theorem getLsbD_foldl_addBit {n i : Nat} {α : Type} (hi : i < n) (l : List (α × Nat)) (b : BitVec n) :
    (l.foldl (fun c x => addBit c x.2) b).getLsbD i = (b.getLsbD i || l.any fun x => x.2 == i) := by
  induction l generalizing b with
  | nil => simp
  | cons x l ih => rw [List.foldl_cons, ih, getLsbD_addBit _ _ hi, List.any_cons, Bool.or_assoc]

theorem getLsbD_hopsAt (p : Port) (r : List Hop) {i : Nat} (hi : i < 6) :
    (hopsAt p r).getLsbD i = ((r[i]?).map fun h => decide (h.port = p)).getD false := by
  rw [hopsAt, getLsbD_foldl_addBit hi, Bool.eq_iff_iff]
  cases hr : r[i]? <;> simp [List.mem_zipIdx_iff_getElem?, hr]

/-! ### GATE_CLEAR (R110) -/

section Clear
variable {c : ClearFrame}

theorem sendClear_accepted (empty : cell s.transit.backlog p = []) (h : offerAnswer s p = .accepted) :
    sendClear p c s = enqueue s p (.gateClear c) := by simp [sendClear, empty, h]

theorem sendClear_queueFull (empty : cell s.transit.backlog p = []) (h : offerAnswer s p = .queueFull) :
    sendClear p c s = s.setBacklog p [c] := by simp [sendClear, empty, h]

theorem sendClear_notUp (empty : cell s.transit.backlog p = []) (h : offerAnswer s p = .notUp) :
    sendClear p c s = s := by simp [sendClear, empty, h]

/-- Behind other gates' GATE_CLEAR frames a frame joins the tail. -/
theorem sendClear_behind (waits : cell s.transit.backlog p ≠ [])
    (other : ∀ d ∈ cell s.transit.backlog p, d.gate ≠ c.gate) :
    sendClear p c s = s.setBacklog p (cell s.transit.backlog p ++ [c]) := by
  have none : (cell s.transit.backlog p).any (fun d => d.gate == c.gate) = false := by simpa using other
  simp [sendClear, waits, none]

/-- A waiting GATE_CLEAR of the same gate is renewed in its place. -/
theorem sendClear_renewed (same : ∃ d ∈ cell s.transit.backlog p, d.gate = c.gate) :
    sendClear p c s = s.setBacklog p ((cell s.transit.backlog p).map (renewClear c)) := by
  have one : (cell s.transit.backlog p).any (fun d => d.gate == c.gate) = true := by simpa using same
  have waits : cell s.transit.backlog p ≠ [] := by
    obtain ⟨d, hd, -⟩ := same
    exact List.ne_nil_of_mem hd
  simp [sendClear, waits, one]

end Clear

/-! ### The timer and the requests (R109, R111, R115) -/

theorem gateAckExpiry_unused (hu : (s.entry t).use = none) : gateAckExpiry t s = s := by simp only [gateAckExpiry, hu]

theorem gateAckExpiry_used (hu : (s.entry t).use = some u) : gateAckExpiry t s =
    if (s.entry t).setting = true ∧ (s.entry t).timer.isSome = true then
      cancelWithFault t (s.entry t).gen u .timeout (allHops u.route.length &&& ~~~u.ack) s
    else s := by simp only [gateAckExpiry, hu]

theorem cancelRequest_unused (hu : (s.entry t).use = none) : cancelRequest t g s = s := by simp only [cancelRequest, hu]

theorem cancelRequest_used (hu : (s.entry t).use = some u) : cancelRequest t g s =
    if ((s.entry t).state = .gating ∨ (s.entry t).state = .releaseSent) ∧ (s.entry t).gen = g then cancelEntry t g u s
    else s := by simp only [cancelRequest, hu]

theorem freeRequest_unused (hu : (s.entry t).use = none) : freeRequest t g s = s := by simp only [freeRequest, hu]

theorem freeRequest_used (hu : (s.entry t).use = some u) : freeRequest t g s =
    if (s.entry t).state = .releaseSent ∧ (s.entry t).gen = g then freeEntry t g u s else s := by
  simp only [freeRequest, hu]

/-! ### A sorter port that leaves UP (R112) -/

theorem exec_sorterDownReport (p : Port) (s : State) :
    exec (.sorterDownReport p) s = .next ((indices 64).foldl (sorterDownEntry p) s) := rfl

/-- An entry past AWAITING_RECORD with a hop at the port is cancelled. -/
theorem sorterDownEntry_cancels (hu : (s.entry t).use = some u) (setting : (s.entry t).setting = true)
    (here : ∃ h ∈ u.route, h.port = p) : sorterDownEntry p s t =
      cancelWithFault t (s.entry t).gen u .refused (u.refusal ||| hopsAt p u.route) s := by
  have any : u.route.any (fun h => h.port == p) = true := by simpa using here
  simp [sorterDownEntry, hu, setting, any]

/-- Any other entry stands. -/
theorem sorterDownEntry_stands
    (apart : ∀ u, (s.entry t).use = some u → (s.entry t).setting = true → ∀ h ∈ u.route, h.port ≠ p) :
    sorterDownEntry p s t = s := by
  unfold sorterDownEntry
  dsimp only
  split
  · rfl
  · rename_i u hu
    refine if_neg fun ⟨setting, any⟩ => ?_
    obtain ⟨h, mem, here⟩ := List.any_eq_true.mp any
    exact apart u hu setting h mem (beq_iff_eq.mp here)

/-- A cancelled entry leaves the others as they stand (R108). -/
theorem entry_cancelWithFault_ne {k : Tag} {f : GateFaultKind} {b : HopSet} (h : k ≠ t) :
    (cancelWithFault t g u f b s).entry k = s.entry k := by
  have freed : (cancelWithFault t g u f b s).entry k = (clearGates t g u.route s).entry k :=
    setEntry_entry_ne _ (Entry.free g) h
  rw [freed]
  simp only [State.entry, entries_clearGates]

/-- With one entry in GATING that has a hop at the port, the report cancels that entry alone. -/
theorem sorterDown_one (hu : (s.entry t).use = some u) (setting : (s.entry t).setting = true)
    (here : ∃ h ∈ u.route, h.port = p)
    (alone : ∀ k v, k ≠ t → (s.entry k).use = some v → (s.entry k).state = .gating → ∀ h ∈ v.route, h.port ≠ p) :
    (indices 64).foldl (sorterDownEntry p) s =
      cancelWithFault t (s.entry t).gen u .refused (u.refusal ||| hopsAt p u.route) s := by
  have cancelled := sorterDownEntry_cancels hu setting here
  rw [← cancelled]
  refine foldl_single (List.nodup_finRange 64) (mem_indices t)
    (fun k other => sorterDownEntry_stands fun v hv gates => alone k v other hv (setting_state gates))
    fun k other => sorterDownEntry_stands fun v hv gates => ?_
  rw [cancelled, entry_cancelWithFault_ne other] at hv gates
  exact alone k v other hv (setting_state gates)

/-- With no entry in GATING that has a hop at the port, the report changes nothing. -/
theorem sorterDown_none
    (apart : ∀ k v, (s.entry k).use = some v → (s.entry k).state = .gating → ∀ h ∈ v.route, h.port ≠ p) :
    (indices 64).foldl (sorterDownEntry p) s = s :=
  List.foldl_fixed' (fun k => sorterDownEntry_stands fun v hv gates => apart k v hv (setting_state gates)) _

end GivingUp

/-- Settles O41: each event by the test it makes of the entry, the sorter port by the one entry it cancels, and the GATE_CLEAR frames
by the clear backlog of their port. -/
theorem entriesAreCancelled : Obligations.EntriesAreCancelled := by
  refine fun s t g => ⟨fun hu => ⟨congrArg _ (gateAckExpiry_unused hu), congrArg _ (cancelRequest_unused hu),
    congrArg _ (freeRequest_unused hu)⟩, fun u hu => ?used,
    fun p apart => (exec_sorterDownReport p s).trans (congrArg _ (sorterDown_none apart)),
    fun p => ⟨exec_sorterDownReport p s,
      fun u hu state step here => sorterDownEntry_cancels hu (setting_iff.mpr ⟨state, step⟩) here, fun h => ?stands⟩,
    rfl, fun h r => rfl, fun p r i hi _ => getLsbD_hopsAt p r hi,
    fun p c => ⟨sendClear_accepted, sendClear_queueFull, sendClear_notUp, sendClear_behind, sendClear_renewed⟩⟩
  case used =>
    have expiry := gateAckExpiry_used hu
    have cancel := cancelRequest_used (g := g) hu
    have free := freeRequest_used (g := g) hu
    refine ⟨fun stopped => congrArg _ (expiry.trans (if_neg ?_)), fun setting runs => congrArg _ (expiry.trans (if_pos ?_)),
      fun state gen => ?_, fun other => congrArg _ (cancel.trans (if_neg ?_)),
      fun state gen => ?_, fun other => congrArg _ (free.trans (if_neg ?_)),
      fun p setting here alone => (exec_sorterDownReport p s).trans
        (congrArg _ (sorterDown_one hu (setting_iff.mpr setting) here alone))⟩
    · rintro ⟨setting, runs⟩
      rcases stopped with other | none
      · exact other (setting_iff.mp setting)
      · simp [none] at runs
    · exact ⟨setting_iff.mpr setting, Option.isSome_iff_ne_none.mpr runs⟩
    · subst gen
      exact congrArg _ (cancel.trans (if_pos ⟨state, rfl⟩))
    · tauto
    · subst gen
      exact congrArg _ (free.trans (if_pos ⟨state, rfl⟩))
    · tauto
  case stands =>
    refine sorterDownEntry_stands fun v hv gates => ?_
    obtain ⟨state, step⟩ := setting_iff.mp gates
    rcases h with none | other | awaits | ⟨w, hw, apart⟩
    · simp [none] at hv
    · exact absurd state other
    · simp [awaits] at step
    · cases hv.symm.trans hw
      exact apart

end Sys2Proof.Machine
end

section
/-! A container on its way: its drop, its passages, its arrival, and the transit timer (R113 to R119). -/

namespace Sys2Proof.Machine

section Travel
variable {s : State} {p : Port} {t : Tag} {g : Gen} {u : EntryUse} {q : Byte}

/-! ### DROPPED (R113, R114) -/

theorem releasedBy_iff : releasedBy s p q t = true ↔
    (s.entry t).state = .releaseSent ∧ ∃ u, (s.entry t).use = some u ∧ u.intake = p ∧ u.seq = q := by
  unfold releasedBy
  cases (s.entry t).use <;> simp

theorem dropped_stale (none : ∀ k, releasedBy s p q k = false) : dropped p q s = s.request .staleFrame := by
  have found : (indices 64).find? (releasedBy s p q) = .none := List.find?_eq_none.mpr fun k _ => by simp [none k]
  simp only [dropped, found]

/-- The one entry in RELEASE_SENT for the container takes the drop. -/
theorem dropped_taken (hu : (s.entry t).use = some u) (released : releasedBy s p q t = true)
    (alone : ∀ k, releasedBy s p q k = true → k = t) :
    dropped p q s = takeDrop t (s.entry t) u (s.entry t).container s := by
  obtain ⟨k, found⟩ := Option.isSome_iff_exists.mp (List.find?_isSome.mpr ⟨t, mem_indices t, released⟩)
  cases alone k (List.find?_some found)
  simp only [dropped, found, hu]

theorem takeDrop_eq {e : Entry} {r : Cargo} : takeDrop t e u r s =
    { s.setEntry t { e with state := .moving, hopIndex := some 0, timer := startTimer u.limit } with
      mail := s.mail ++ [.posting ⟨u.intake, u.seq, t, r.credit, r.kept⟩, .flagClear u.intake,
        .dropReport u.intake t e.gen] } := by
  simp [takeDrop, State.post, State.setEntry]

/-! ### PASSAGE (R105, R116) -/

/-- The hop matched is the first from the index on with that port and gate. -/
theorem matchHop_eq (gate : Gate) (l : List Hop) (i : Nat) : matchHop p gate i l =
    (l.findIdx? fun h => decide (h.port = p ∧ h.gate = gate)).map (i + ·) := by
  induction l generalizing i with
  | nil => rfl
  | cons h l ih =>
    rw [matchHop, List.findIdx?_cons, ih]
    by_cases hit : h.port = p ∧ h.gate = gate
    · simp [hit]
    · simp only [hit, if_false, decide_false, Bool.false_eq_true, Option.map_map]
      congr 1
      funext n
      simp only [Function.comp_apply]
      omega

theorem matchHop_none {gate : Gate} {l : List Hop} {i : Nat} (miss : ∀ h ∈ l, h.port ≠ p ∨ h.gate ≠ gate) :
    matchHop p gate i l = none := by
  rw [matchHop_eq, List.findIdx?_eq_none_iff.mpr fun h mem => by simpa [← not_and_or] using miss h mem]
  rfl

/-- The remaining hops of a route match at the first of them with that port and gate. -/
theorem matchHop_drop {gate : Gate} {l : List Hop} {i k : Nat} {h : Hop} (hk : i ≤ k) (hr : l[k]? = some h)
    (hit : h.port = p ∧ h.gate = gate)
    (before : ∀ j x, i ≤ j → j < k → l[j]? = some x → x.port ≠ p ∨ x.gate ≠ gate) :
    matchHop p gate i (l.drop i) = some k := by
  have first : (l.drop i).findIdx? (fun h => decide (h.port = p ∧ h.gate = gate)) = some (k - i) := by
    obtain ⟨hlt, rfl⟩ := List.getElem?_eq_some_iff.mp hr
    refine List.findIdx?_eq_some_iff_getElem.mpr ⟨by rw [List.length_drop]; omega, ?_, fun j hj => ?_⟩
    · simpa [Nat.add_sub_cancel' hk] using hit
    · have miss := before (i + j) _ (by omega) (by omega) (List.getElem?_eq_getElem (by omega))
      simpa [← not_and_or] using miss
  rw [matchHop_eq, first, Option.map_some, Nat.add_sub_cancel' hk]

theorem passage_stale {gate : Gate} (h : (s.entry t).use = none ∨ (s.entry t).state ≠ .moving ∨ (s.entry t).gen ≠ g) :
    passage p t g gate s = s.request .staleFrame := by
  unfold passage
  dsimp only
  split
  · rfl
  · rename_i u hu
    exact if_neg fun ⟨state, gen⟩ => by simp [hu, state, gen] at h

theorem passage_lost {gate : Gate} {i : Nat} (hu : (s.entry t).use = some u) (state : (s.entry t).state = .moving)
    (gen : (s.entry t).gen = g) (hi : (s.entry t).hopIndex = some i)
    (miss : matchHop p gate i (u.route.drop i) = none) : passage p t g gate s = loseEntry t g u .misroute s := by
  simp [passage, hu, state, gen, hi, miss]

theorem passage_passes {gate : Gate} {i k : Nat} (hu : (s.entry t).use = some u) (state : (s.entry t).state = .moving)
    (gen : (s.entry t).gen = g) (hi : (s.entry t).hopIndex = some i)
    (hit : matchHop p gate i (u.route.drop i) = some k) :
    passage p t g gate s = s.setEntry t { s.entry t with hopIndex := some (k + 1) } := by
  simp [passage, hu, state, gen, hi, hit]

/-! ### ARRIVAL and the transit timer (R105, R117, R119) -/

theorem arrival_stale (h : (s.entry t).use = none ∨ (s.entry t).state ≠ .moving ∨ (s.entry t).gen ≠ g) :
    arrival p t g s = s.request .staleFrame := by
  unfold arrival
  dsimp only
  split
  · rfl
  · rename_i u hu
    exact if_neg fun ⟨state, gen⟩ => by simp [hu, state, gen] at h

theorem arrival_moving (hu : (s.entry t).use = some u) (state : (s.entry t).state = .moving) (gen : (s.entry t).gen = g) :
    arrival p t g s = if (s.line u.line).record.binPort = p then freeEntry t g u s else loseEntry t g u .misroute s := by
  simp [arrival, hu, state, gen]

theorem transitExpiry_ignored (h : (s.entry t).use = none ∨ (s.entry t).state ≠ .moving ∨ (s.entry t).timer = none) :
    transitExpiry t s = s := by
  unfold transitExpiry
  dsimp only
  split
  · rfl
  · rename_i u hu
    refine if_neg fun ⟨state, runs⟩ => ?_
    simp [hu, state, Option.isSome_iff_ne_none.mp runs] at h

theorem transitExpiry_lost (hu : (s.entry t).use = some u) (state : (s.entry t).state = .moving)
    (runs : (s.entry t).timer ≠ none) : transitExpiry t s = loseEntry t (s.entry t).gen u .lost s := by
  simp [transitExpiry, hu, state, Option.isSome_iff_ne_none.mpr runs]

end Travel

/-- Settles O42: the drop by the entry it matches, a passage by the hop it matches, an arrival by the bin port of the line, and the
timer by whether it runs in MOVING. -/
theorem containersTravel : Obligations.ContainersTravel := by
  refine fun s p t g => ⟨fun q none => congrArg _ (dropped_stale fun k => ?stale), fun u r hu hr state hp alone => ?taken,
    fun gate h => ⟨congrArg _ (passage_stale h), congrArg _ (arrival_stale h)⟩,
    fun h => congrArg _ (transitExpiry_ignored h), fun u hu state => ⟨fun runs => congrArg _ (transitExpiry_lost hu state runs),
      fun gen => ?moving⟩⟩
  case stale =>
    refine Bool.eq_false_iff.mpr fun released => ?_
    obtain ⟨state, u, hu, hp, hq⟩ := releasedBy_iff.mp released
    exact none k u state hu hp hq
  case taken =>
    have only : ∀ k, releasedBy s p u.seq k = true → k = t := fun k released => by
      obtain ⟨sent, v, hv, here, seq⟩ := releasedBy_iff.mp released
      exact by_contra fun other => alone k v other sent hv here seq
    have container : (s.entry t).container = r := by rw [Entry.container, hr, Option.getD_some]
    subst hp
    refine congrArg _ ((dropped_taken hu (releasedBy_iff.mpr ⟨state, u, hu, rfl, rfl⟩) only).trans ?_)
    rw [container, takeDrop_eq]
  case moving =>
    subst gen
    have arrives := arrival_moving (p := p) hu state rfl
    refine ⟨fun bin => congrArg _ (arrives.trans (if_pos bin)), fun other => congrArg _ (arrives.trans (if_neg other)),
      fun gate i hi => ⟨fun miss => congrArg _ (passage_lost hu state rfl hi (matchHop_none miss)),
        fun k h hk hr hp hg before =>
          congrArg _ (passage_passes hu state rfl hi (matchHop_drop hk hr ⟨hp, hg⟩ before))⟩⟩

end Sys2Proof.Machine
end

section
/-! The tally unit's operations, one rule for each case of a session: a TALLY that is due, a posting, a drop note, a close attempt
and the session test (R122 to R129). -/

namespace Sys2Proof.Machine

section Sessions
variable {s t : State} {p : Port} {x : Session} {g : Posting}

/-! ### TALLY (R122) -/

theorem offerTally_queueFull (hx : s.session p = some x) (ha : offerAnswer s p = .queueFull) :
    offerTally p s = s.setSession p (some { x with owed := true }) := by simp only [offerTally, hx, ha]

theorem offerTally_notUp (hx : s.session p = some x) (ha : offerAnswer s p = .notUp) :
    offerTally p s = s.setSession p (some { x with owed := false }) := by simp only [offerTally, hx, ha]

/-! ### Posting (R123 to R125) -/

/-- A class the list does not hold joins its end. -/
theorem mergeClass_new {l : List (ClassIx × Nat)} {y : ClassIx × Nat} (h : ∀ z ∈ l, z.1 ≠ y.1) :
    mergeClass l y = l ++ [y] := by
  induction l with
  | nil => rfl
  | cons z l ih =>
    obtain ⟨hz, hl⟩ := List.forall_mem_cons.mp h
    exact (if_neg hz).trans (congrArg (z :: ·) (ih hl))

/-- A class the list holds is counted in its place. -/
theorem mergeClass_counted {a b : List (ClassIx × Nat)} {y : ClassIx × Nat} {n : Nat} (h : ∀ z ∈ a, z.1 ≠ y.1) :
    mergeClass (a ++ (y.1, n) :: b) y = a ++ (y.1, min (n + y.2) 65535) :: b := by
  induction a with
  | nil => exact if_pos rfl
  | cons z a ih =>
    obtain ⟨hz, ha⟩ := List.forall_mem_cons.mp h
    exact (if_neg hz).trans (congrArg (z :: ·) (ih ha))

theorem matchesAwaited_eq (x : Session) (g : Posting) :
    matchesAwaited x g = x.awaited.any fun a => a.tag == g.tag && a.seq == g.seq := by
  unfold matchesAwaited
  cases x.awaited <;> rfl

theorem takePosting_open (hx : s.session p = some x) (h : x.state = .idle ∨ x.state = .opened) :
    takePosting p g s = offerTally p
      (s.setSession p (some { addPosting x g with state := .opened, idleTimer := startIdleTimer s })) := by
  obtain h | h := h <;> simp only [takePosting, hx, postInto, h]

theorem takePosting_closing (hx : s.session p = some x) (h : x.state = .closePending ∨ x.state = .closingWait) :
    takePosting p g s = offerTally p (s.setSession p (some (addPosting x g))) := by
  obtain h | h := h <;> simp only [takePosting, hx, postInto, h]

theorem carry_some (hx : s.session p = some x) : carry p g s = s.setSession p (some { x with carried := some g }) := by
  simp only [carry, hx]

theorem takePostingEvent_none (hx : s.session g.intake = none) : takePostingEvent g s = s := by
  simp only [takePostingEvent, hx]

/-- A posting for a session that does not wait to close is judged by the session's limit (R125). -/
theorem takePostingEvent_some (hx : s.session g.intake = some x) (h : x.state ≠ .closingWait) : takePostingEvent g s =
    if x.limit < x.total + g.credit.credit then postPast g.intake g s else takePosting g.intake g s := by
  simp only [takePostingEvent, hx]
  cases hs : x.state with
  | closingWait => exact absurd hs h
  | idle | opened | closePending => rfl

theorem takePostingEvent_fits (hx : s.session g.intake = some x) (h : x.state ≠ .closingWait)
    (room : x.total + g.credit.credit ≤ x.limit) : takePostingEvent g s = takePosting g.intake g s :=
  (takePostingEvent_some hx h).trans (if_neg (Nat.not_lt.mpr room))

theorem takePostingEvent_past (hx : s.session g.intake = some x) (h : x.state ≠ .closingWait)
    (past : x.limit < x.total + g.credit.credit) : takePostingEvent g s = postPast g.intake g s :=
  (takePostingEvent_some hx h).trans (if_pos past)

theorem takePostingEvent_waiting (hx : s.session g.intake = some x) (h : x.state = .closingWait) :
    takePostingEvent g s = postWaiting g.intake x g s := by
  simp only [takePostingEvent, hx, h]

theorem postPast_closes (h : closeAttempt p s = (true, t)) : postPast p g s = takePosting p g t := by
  simp only [postPast, h, if_true]

theorem postPast_carries (h : closeAttempt p s = (false, t)) : postPast p g s = carry p g t := by
  simp only [postPast, h, Bool.false_eq_true, if_false]

/-! ### Drop notes (R126) -/

theorem dropNote_matched {k : Tag} {q : Byte} {n : Nat} (hx : s.session p = some x) (h : x.last = some ⟨k, q⟩) :
    dropNote p k q n s = s.setSession p (some { x with last := none }) := by simp only [dropNote, hx, if_pos h]

theorem dropNote_awaited {k : Tag} {q : Byte} {n : Nat} (hx : s.session p = some x) (h : x.last ≠ some ⟨k, q⟩) :
    dropNote p k q n s = s.setSession p (some { x with awaited := some ⟨k, q, n⟩ }) := by simp only [dropNote, hx, if_neg h]

/-! ### Waiting to close (R129) -/

theorem session_withClosingWait (s : State) (p : Port) (y : Option Session) (l : List Port) :
    (withClosingWait (s.setSession p y) l).session p = y := setSession_session_self s p y

theorem enterClosingWait_some (hx : s.session p = some x) (h : x.state ≠ .closingWait) : enterClosingWait p s =
    offerTally p (withClosingWait (s.setSession p (some { x with state := .closingWait, idleTimer := none }))
      (s.tally.closingWait ++ [p])) := by
  unfold enterClosingWait
  rw [hx]
  exact if_neg h

/-- At a port that is not UP the TALLY of the change of state is not owed. -/
theorem enterClosingWait_notUp (hx : s.session p = some x) (h : x.state ≠ .closingWait) (ha : offerAnswer s p = .notUp) :
    enterClosingWait p s = withClosingWait (s.setSession p (some { x with
      state := .closingWait, idleTimer := none, owed := false })) (s.tally.closingWait ++ [p]) := by
  rw [enterClosingWait_some hx h, offerTally_notUp (session_withClosingWait s p _ _) ha]
  simp only [withClosingWait, State.setSession, put_put]

end Sessions

end Sys2Proof.Machine
end

section
/-! Postings and drop notes at a session (R122 to R126). -/

namespace Sys2Proof.Machine

/-- Settles O43: a posting by the state of the session and its limit, the class counts by whether the class is held, and a TALLY by
the answer to its offer. -/
theorem postingsAreTaken : Obligations.PostingsAreTaken := by
  refine ⟨fun s g => ⟨fun hx => congrArg _ (takePostingEvent_none hx), fun x hx => ?session⟩,
    fun l y => ⟨mergeClass_new, fun a n b hl h => hl ▸ mergeClass_counted h⟩, fun s p x hx => ?tally⟩
  case session =>
    intro awaited new
    have matched : matchesAwaited x g = awaited := matchesAwaited_eq x g
    have added : addPosting x g = new := by
      unfold addPosting
      rw [matched]
      rfl
    clear_value awaited new
    subst matched added
    have posted : ∀ {u}, takePostingEvent g s = u → exec (.posting g) s = .next u := fun h => congrArg Host.Outcome.next h
    refine ⟨fun h room => posted ?_, fun h room => posted ?_, takePosting_open hx, takePosting_closing hx,
      fun h past u => ⟨fun closes => posted ?_, fun y waits hy => posted ?_⟩, fun h ha => posted ?_, fun h ha => posted ?_,
      fun h past ha up => posted ?_,
      fun k q n => ⟨fun h => congrArg _ (dropNote_matched hx h), fun h => congrArg _ (dropNote_awaited hx h)⟩⟩
    · have serves : x.state ≠ .closingWait := by rcases h with h | h <;> simp [h]
      exact (takePostingEvent_fits hx serves room).trans (takePosting_open hx h)
    · exact (takePostingEvent_fits hx (by simp [h]) room).trans (takePosting_closing hx (.inl h))
    · exact (takePostingEvent_past hx h past).trans (postPast_closes closes)
    · exact (takePostingEvent_past hx h past).trans ((postPast_carries waits).trans (carry_some hy))
    · exact (takePostingEvent_waiting hx h).trans (if_pos ha)
    · exact (takePostingEvent_waiting hx h).trans (if_neg (Bool.eq_false_iff.mp ha))
    · have opened : x.state ≠ .closingWait := by simp [h]
      have waits := (closeAttempt_awaited hx ha).trans (congrArg _ (enterClosingWait_notUp hx opened up))
      rw [takePostingEvent_past hx opened past, postPast_carries waits, carry_some (session_withClosingWait ..)]
      simp only [withClosingWait, State.setSession, put_put]
  case tally =>
    cases ha : offerAnswer s p with
    | accepted => exact offerTally_accepted hx ha
    | queueFull => exact offerTally_queueFull hx ha
    | notUp => exact offerTally_notUp hx ha

end Sys2Proof.Machine
end

section
/-! A close attempt (R125, R127 to R129, R134): the cases of the attempt, the session a close leaves, the posting carried over it, and
the session test. -/

namespace Sys2Proof.Machine

section Closing
variable {s t : State} {p c : Port} {x : Session} {g : Posting}

/-! ### The voucher of a close (R137, R138) -/

/-- Sending the head of a queue neither reads nor writes the tally unit. -/
theorem sendHead_tally (u : TallyUnit) : sendHead c { s with tally := u } = { sendHead c s with tally := u } := by
  have unit : ({ s with tally := u } : State).unit c = s.unit c := rfl
  have answer : offerAnswer { s with tally := u } c = offerAnswer s c := rfl
  simp only [sendHead, unit, answer]
  (repeat' split) <;> rfl

/-- The record of a voucher request at the tail of its queue, and the number used, before the head is sent (R137, R138). -/
def queueVoucher (r : VoucherRequest) (u : CounterUnit) (s : State) : State :=
  let t := s.setUnit r.counter (some { u with queue := u.queue ++ [newRecord r s.catalogue.rates (nextNumber s)] })
  { t with vouchers := { t.vouchers with number := nextNumber s + 1 } }

theorem createVoucher_some {r : VoucherRequest} {u : CounterUnit} (hu : s.unit r.counter = some u) : createVoucher r s =
    if Config.voucherPlaces ≤ u.queue.length then (.queueFull, s)
    else (.created (nextNumber s),
      if u.queue.isEmpty then sendHead r.counter (queueVoucher r u s) else queueVoucher r u s) := by
  simp only [createVoucher, hu]
  rfl

/-- Creating a voucher neither reads nor writes the tally unit. -/
theorem createVoucher_tally (r : VoucherRequest) (v : TallyUnit) : createVoucher r { s with tally := v } =
    ((createVoucher r s).1, { (createVoucher r s).2 with tally := v }) := by
  have unit : ({ s with tally := v } : State).unit r.counter = s.unit r.counter := rfl
  cases hu : s.unit r.counter with
  | none => simp only [createVoucher, unit, hu]
  | some u =>
    have queued : queueVoucher r u { s with tally := v } = { queueVoucher r u s with tally := v } := rfl
    rw [createVoucher_some hu, createVoucher_some (unit.trans hu), queued, sendHead_tally]
    split
    · rfl
    · split <;> rfl

theorem tally_createVoucher (r : VoucherRequest) : (createVoucher r s).2.tally = s.tally :=
  congrArg (·.2.tally) (createVoucher_tally r s.tally)

theorem session_createVoucher (r : VoucherRequest) (q : Port) : (createVoucher r s).2.session q = s.session q :=
  congrArg (fun v : TallyUnit => cell v.sessions q) (tally_createVoucher r)

/-- A queue that is full is left as it stands. -/
theorem createVoucher_full {r : VoucherRequest} (h : (createVoucher r s).1 = .queueFull) : (createVoucher r s).2 = s := by
  revert h
  unfold createVoucher
  split
  · exact fun _ => rfl
  · split
    · exact fun _ => rfl
    · exact nofun

/-! ### The attempt (R128) -/

theorem counterOf_counter (hc : (s.port p).entry.counterPort = some c) (hr : s.role c = .counter) :
    counterOf s p = some c := by simp only [counterOf, hc, if_pos hr]

theorem counterOf_none (h : ∀ c, (s.port p).entry.counterPort = some c → s.role c ≠ .counter) : counterOf s p = none := by
  unfold counterOf
  split
  · rfl
  · exact if_neg (h _ ‹_›)

theorem attemptClose_none (hx : s.session p = none) : attemptClose p s = (false, s) := by simp only [attemptClose, hx]

/-- A session with no credit closes without a voucher. -/
theorem attemptClose_empty (hx : s.session p = some x) (ha : x.awaited = none) (ht : x.total = 0) :
    attemptClose p s = (true, finishClose p x s) := by
  simp [attemptClose, hx, ha, ht]

theorem attemptClose_noCounter (hx : s.session p = some x) (ha : x.awaited = none) (ht : x.total ≠ 0)
    (hc : counterOf s p = none) : attemptClose p s = (false, enterClosingWait p s) := by
  simp [attemptClose, hx, ha, ht, hc]

theorem attemptClose_queueFull (hx : s.session p = some x) (ha : x.awaited = none) (ht : x.total ≠ 0)
    (hc : counterOf s p = some c) (hv : (createVoucher (voucherRequestOf p c x) s).1 = .queueFull) :
    attemptClose p s = (false, enterClosingWait p s) := by
  simp [attemptClose, hx, ha, ht, hc, hv, createVoucher_full hv]

theorem attemptClose_created {n : Fin 65536} (hx : s.session p = some x) (ha : x.awaited = none) (ht : x.total ≠ 0)
    (hc : counterOf s p = some c) (hv : (createVoucher (voucherRequestOf p c x) s).1 = .created n) :
    attemptClose p s = (true, finishClose p x (createVoucher (voucherRequestOf p c x) s).2) := by
  simp [attemptClose, hx, ha, ht, hc, hv]

/-! ### A session that carries a posting closes as one that does not (R125) -/

theorem carry_none (hx : s.session p = none) : carry p g s = s := by simp only [carry, hx]

theorem session_carry (hx : s.session p = some x) : (carry p g s).session p = some { x with carried := some g } := by
  rw [carry_some hx, setSession_session_self]

theorem carry_setSession (s : State) (p : Port) (x : Session) (g : Posting) :
    carry p g (s.setSession p (some x)) = s.setSession p (some { x with carried := some g }) := by
  rw [carry_some (setSession_session_self ..), setSession_setSession]

/-- The carried posting is a write of the tally unit. -/
theorem carry_tally : carry p g s = { s with tally := (carry p g s).tally } := by
  unfold carry
  split <;> rfl

theorem createVoucher_carry (r : VoucherRequest) :
    createVoucher r (carry p g s) = ((createVoucher r s).1, carry p g (createVoucher r s).2) := by
  rw [carry_tally, createVoucher_tally]
  refine Prod.ext rfl ?_
  unfold carry
  rw [session_createVoucher]
  cases s.session p with
  | none => simp only [← tally_createVoucher (s := s) r]
  | some x => simp only [State.setSession, tally_createVoucher]

theorem offerTally_carry : offerTally p (carry p g s) = carry p g (offerTally p s) := by
  cases hx : s.session p with
  | none => simp only [offerTally, carry, hx]
  | some x =>
    have answer : offerAnswer (carry p g s) p = offerAnswer s p := by
      rw [carry_some hx]
      rfl
    cases ha : offerAnswer s p with
    | accepted =>
      rw [offerTally_accepted (session_carry hx) (answer.trans ha), offerTally_accepted hx ha, carry_setSession, carry_some hx]
      exact setSession_setSession (enqueue s p (tallyFrame x)) p _ _
    | queueFull =>
      rw [offerTally_queueFull (session_carry hx) (answer.trans ha), offerTally_queueFull hx ha, carry_setSession,
        carry_some hx, setSession_setSession]
    | notUp =>
      rw [offerTally_notUp (session_carry hx) (answer.trans ha), offerTally_notUp hx ha, carry_setSession, carry_some hx,
        setSession_setSession]

theorem enterClosingWait_carry : enterClosingWait p (carry p g s) = carry p g (enterClosingWait p s) := by
  cases hx : s.session p with
  | none => simp only [enterClosingWait, carry, hx]
  | some x =>
    by_cases h : x.state = .closingWait
    · rw [enterClosingWait_waiting (session_carry hx) h, enterClosingWait_waiting hx h]
    · rw [enterClosingWait_some (session_carry hx) h, enterClosingWait_some hx h, ← offerTally_carry,
        carry_some (session_withClosingWait ..), carry_some hx]
      simp only [withClosingWait, State.setSession, put_put]

/-- A completed close leaves no trace of the carried posting. -/
theorem finishClose_carry (hx : s.session p = some x) :
    finishClose p { x with carried := some g } (carry p g s) = finishClose p x s := by
  have written : ∀ y, (carry p g s).setSession p y = s.setSession p y := fun y => by
    rw [carry_some hx, setSession_setSession]
  have list : (carry p g s).tally.closingWait = s.tally.closingWait := by rw [carry_some hx]; rfl
  simp only [finishClose, written, list]
  rfl

/-- Carrying a posting changes a close attempt in nothing, but that a session which stays carries it still. -/
theorem attemptClose_carry : attemptClose p (carry p g s) = ((attemptClose p s).1,
    if (attemptClose p s).1 then (attemptClose p s).2 else carry p g (attemptClose p s).2) := by
  cases hx : s.session p with
  | none => rw [carry_none hx, attemptClose_none hx, if_neg Bool.false_ne_true, carry_none hx]
  | some x =>
    have hy := session_carry (g := g) hx
    have counter : counterOf (carry p g s) p = counterOf s p := by
      rw [carry_some hx]
      rfl
    cases ha : x.awaited with
    | some a =>
      have waits : x.awaited.isSome = true := by simp [ha]
      rw [attemptClose_awaited hy waits, attemptClose_awaited hx waits, enterClosingWait_carry]
      rfl
    | none =>
      by_cases ht : x.total = 0
      · rw [attemptClose_empty hy ha ht, attemptClose_empty hx ha ht, finishClose_carry hx]
        rfl
      · cases hc : counterOf s p with
        | none =>
          rw [attemptClose_noCounter hy ha ht (counter.trans hc), attemptClose_noCounter hx ha ht hc, enterClosingWait_carry]
          rfl
        | some c =>
          have request : voucherRequestOf p c { x with carried := some g } = voucherRequestOf p c x := rfl
          have voucher : (createVoucher (voucherRequestOf p c x) (carry p g s)).1 = _ :=
            congrArg Prod.fst (createVoucher_carry _)
          cases hv : (createVoucher (voucherRequestOf p c x) s).1 with
          | queueFull =>
            rw [attemptClose_queueFull hy ha ht (counter.trans hc) (voucher.trans hv),
              attemptClose_queueFull hx ha ht hc hv, enterClosingWait_carry]
            rfl
          | created n =>
            rw [attemptClose_created hy ha ht (counter.trans hc) (voucher.trans hv), attemptClose_created hx ha ht hc hv,
              request, createVoucher_carry, finishClose_carry ((session_createVoucher _ p).trans hx)]
            rfl

/-! ### What follows the attempt (R125, R134) -/

theorem role_attemptClose (s : State) (p q : Port) : (attemptClose p s).2.role q = s.role q :=
  (calm_attemptClose (.refl s)).role q

theorem closeAttempt_waits (h : attemptClose p s = (false, t)) : closeAttempt p s = (false, t) := by
  simp [closeAttempt, h]

theorem closeAttempt_done (hx : s.session p = some x) (hc : x.carried = none) (h : attemptClose p s = (true, t)) :
    closeAttempt p s = (true, removeClosed p t) := by
  simp [closeAttempt, carriedOf, hx, hc, h]

theorem closeAttempt_takes (hx : s.session p = some x) (hc : x.carried = some g) (hr : s.role p = .intake)
    (h : attemptClose p s = (true, t)) : closeAttempt p s = (true, takePosting p g t) := by
  simp [closeAttempt, carriedOf, hx, hc, h, hr]

theorem removeClosed_intake (hr : s.role p = .intake) : removeClosed p s = s := if_pos hr

/-- At an INTAKE port a close with nothing carried is the attempt. -/
theorem closeAttempt_bare (hx : s.session p = some x) (hc : x.carried = none) (hr : s.role p = .intake) :
    closeAttempt p s = attemptClose p s := by
  rcases h : attemptClose p s with ⟨done, t⟩
  cases done with
  | false => exact closeAttempt_waits h
  | true =>
    have role : t.role p = .intake := by rw [← hr, ← role_attemptClose s p p, h]
    rw [closeAttempt_done hx hc h, removeClosed_intake role]

/-! ### The state a completed close leaves (R128) -/

/-- The session IDLE and out of the closing-wait list, and a paused context told, before any TALLY. -/
def leaveClosed (p : Port) (x : Session) (s : State) : State :=
  { s with
    tally := ⟨put s.tally.sessions p (some x.closed), s.tally.closingWait.filter (· != p)⟩
    mail := s.mail ++ if x.ctxWaiting then [.closeCompleted p] else [] }

theorem closed_carried (hc : x.carried = none) : x.closed = { x.closed with carried := x.carried } := by
  rw [hc]
  rfl

theorem finishClose_eq (p : Port) (x : Session) (s : State) : finishClose p x s =
    if x.state = .idle then leaveClosed p x s else offerTally p (leaveClosed p x s) := by
  have left : leaveClosed p x s = if x.ctxWaiting = true
      then (withClosingWait (s.setSession p (some x.closed)) (s.tally.closingWait.filter (· != p))).post (.closeCompleted p)
      else withClosingWait (s.setSession p (some x.closed)) (s.tally.closingWait.filter (· != p)) := by
    unfold leaveClosed
    split
    · rfl
    · rw [List.append_nil]
      rfl
  rw [left]
  rfl

theorem role_finishClose (p : Port) (x : Session) (s : State) (q : Port) : (finishClose p x s).role q = s.role q :=
  (calm_finishClose (.refl s)).role q

/-! ### The session test (R127) -/

section Test
variable {k limit : Nat}

theorem sessionTest_pending (hx : s.session p = some x) (h : x.state = .closePending) :
    sessionTest p k limit s = testByClose p (s.setSession p (some { x with limit := limit })) := by
  simp only [sessionTest, hx, h]

/-- Past the limit, what is awaited decides between waiting and a close attempt. -/
theorem sessionTest_past (hx : s.session p = some x) (h : x.state = .idle ∨ x.state = .opened)
    (past : limit < x.total + awaitedCredit x + k) : sessionTest p k limit s =
      if x.awaited.isSome then
        (.waiting, markWaiting p (enterClosingWait p (s.setSession p (some { x with limit := limit }))))
      else testByClose p (s.setSession p (some { x with limit := limit })) := by
  obtain h | h := h <;> simp only [sessionTest, hx, h, if_neg (Nat.not_le.mpr past)]

end Test

end Closing

/-- Settles O44: the session test by the state and the limit, the carried posting by attemptClose_carry, and the attempt by what is
awaited, the total, and the answer of the counter's queue. -/
theorem sessionsClose : Obligations.SessionsClose := by
  refine ⟨fun s p x k limit hx => ?test, fun s p x g hx hg hr => ?carried, fun s p x hx hg => ?attempt⟩
  case test =>
    refine ⟨fun h => ?_, sessionTest_pending hx, fun n taking hn => ⟨fun room => ?_, fun past ha => ?_, fun past ha => ?_⟩,
      markWaiting_some hx⟩
    · rw [sessionTest_closingWait hx h, markWaiting_some (setSession_session_self ..), setSession_setSession]
    · subst hn
      exact sessionTest_fits hx taking room
    · subst hn
      exact (sessionTest_past hx taking past).trans (if_neg (by simp [ha]))
    · subst hn
      exact (sessionTest_past hx taking past).trans (if_pos (Option.isSome_iff_ne_none.mpr ha))
  case carried =>
    intro bare t
    have bared : bare.session p = some { x with carried := none } := setSession_session_self ..
    have carries : carry p g bare = s := by
      have whole : ({ x with carried := some g } : Session) = x := by rw [← hg]
      rw [carry_setSession, whole, ← hx]
      exact congrArg (fun v => ({ s with tally := { s.tally with sessions := v } } : State)) (put_cell _ p)
    have attempt : attemptClose p s = _ := carries ▸ attemptClose_carry (s := bare) (g := g)
    rw [closeAttempt_bare bared rfl hr]
    refine ⟨fun done => closeAttempt_takes hx hg hr (by rw [attempt, done]; rfl),
      fun y waits hy => closeAttempt_waits ?_⟩
    rw [attempt, waits, if_neg Bool.false_ne_true, carry_some hy]
  case attempt =>
    intro waits done
    have waiting : enterClosingWait p s = waits s := by
      by_cases h : x.state = .closingWait
      · exact (enterClosingWait_waiting hx h).trans (if_pos h).symm
      · exact (enterClosingWait_some hx h).trans (if_neg h).symm
    have finished : ∀ t, t.role p = s.role p → removeClosed p (finishClose p x t) = done t := fun t role => by
      unfold removeClosed
      rw [role_finishClose, role, finishClose_eq, leaveClosed, closed_carried hg]
      rfl
    refine ⟨fun ha => ?_, fun ha ht => ?_, fun ha ht => ⟨fun none => ?_, fun c hc hr => ⟨fun full => ?_, fun n created => ?_⟩⟩⟩
    · rw [closeAttempt_awaited hx ha, waiting]
    · rw [closeAttempt_done hx hg (attemptClose_empty hx ha ht), finished s rfl]
    · rw [closeAttempt_waits (attemptClose_noCounter hx ha ht (counterOf_none none)), waiting]
    · rw [closeAttempt_waits (attemptClose_queueFull hx ha ht (counterOf_counter hc hr) full), waiting,
        createVoucher_full full]
    · rw [closeAttempt_done hx hg (attemptClose_created hx ha ht (counterOf_counter hc hr) created)]
      exact congrArg _ (finished _ ((calm_createVoucher (.refl s)).role p))

end Sys2Proof.Machine
end

section
/-! What makes a session close (R129 to R133): FINISH and the answer to a return request, PRESENT and the idle timer, a state report,
and a place freed in a voucher queue. -/

namespace Sys2Proof.Machine

section Finishing
variable {s : State} {p q : Port} {x : Session} {c : CtxState} {ask : Bool}

/-! ### The FINISH table (R130) -/

theorem exec_finish (hx : s.session p = some x) : exec (.finish p) s = .next (applyFinish p x x.reported true s) := by
  simp only [exec, execFinish, hx]

theorem applyFinish_stays (h : x.state = .idle ∨ x.state = .closePending) : applyFinish p x c ask s = s := by
  obtain h | h := h <;> simp only [applyFinish, h]

theorem applyFinish_closes (h : x.state = .opened) (hc : c = .idle ∨ c = .stopped ∨ c = .locked ∨ c = .returning) :
    applyFinish p x c ask s = (closeAttempt p s).2 := by
  rcases hc with rfl | rfl | rfl | rfl <;> simp only [applyFinish, h]

theorem applyFinish_pends (h : x.state = .opened) (hc : c = .gating ∨ c = .releasing) :
    applyFinish p x c ask s = enterClosePending p x s := by
  obtain rfl | rfl := hc <;> simp only [applyFinish, h]

theorem applyFinish_asks (h : x.state = .opened) (hc : c = .holding ∨ c = .paused) :
    applyFinish p x c ask s = if ask then s.post (.returnRequest p) else s := by
  obtain rfl | rfl := hc <;> simp only [applyFinish, h]

/-- A session that waits to close asks for a container that is PAUSED alone. -/
theorem applyFinish_waiting (h : x.state = .closingWait) :
    applyFinish p x c ask s = if c = .paused ∧ ask = true then s.post (.returnRequest p) else s := by
  cases c <;> simp [applyFinish, h]

theorem returnAnswer_returned (hx : s.session p = some x) :
    returnAnswer p true c s = if x.state = .opened then (closeAttempt p s).2 else s := by
  simp only [returnAnswer, hx, if_true]

theorem returnAnswer_kept (hx : s.session p = some x) : returnAnswer p false c s = applyFinish p x c false s := by
  simp only [returnAnswer, hx, Bool.false_eq_true, if_false]

/-- With no request to make, the table answers an OPEN session by the state of its context. -/
theorem returnAnswer_opened (hx : s.session p = some x) (h : x.state = .opened) : returnAnswer p false c s =
    if c = .gating ∨ c = .releasing then enterClosePending p x s
    else if c = .holding ∨ c = .paused then s else (closeAttempt p s).2 := by
  rw [returnAnswer_kept hx]
  cases c with
  | gating | releasing => exact applyFinish_pends h (by simp)
  | holding | paused => exact applyFinish_asks h (by simp)
  | idle | stopped | locked | returning => exact applyFinish_closes h (by simp)

/-- Any other session is left as it stands, returned or not. -/
theorem returnAnswer_stays (hx : s.session p = some x) (h : x.state ≠ .opened) (returned : Bool) :
    returnAnswer p returned c s = s := by
  cases returned with
  | true => exact (returnAnswer_returned hx).trans (if_neg h)
  | false =>
    rw [returnAnswer_kept hx]
    cases hs : x.state with
    | opened => exact absurd hs h
    | idle => exact applyFinish_stays (.inl hs)
    | closePending => exact applyFinish_stays (.inr hs)
    | closingWait => exact (applyFinish_waiting hs).trans (if_neg nofun)

/-! ### The idle timer (R132, R133) -/

theorem restartIdle_some (hx : s.session p = some x) : restartIdle p s =
    if x.state = .opened then s.setSession p (some { x with idleTimer := startIdleTimer s }) else s := by
  simp only [restartIdle, hx]

theorem idleExpiry_stopped (hx : s.session p = some x) (h : x.idleTimer = none) : idleExpiry p s = s := by
  simp [idleExpiry, hx, h]

/-- In OPEN the timer closes the session of a context at rest with nothing awaited, and runs again for any other. -/
theorem idleExpiry_opened (hx : s.session p = some x) (runs : x.idleTimer ≠ none) (h : x.state = .opened) : idleExpiry p s =
    if (x.reported = .idle ∨ x.reported = .stopped ∨ x.reported = .locked) ∧ x.awaited = none then (closeAttempt p s).2
    else s.setSession p (some { x with idleTimer := startIdleTimer s }) := by
  simp only [idleExpiry, hx, Option.isSome_iff_ne_none.mpr runs, h, if_true]
  cases hr : x.reported with
  | idle | stopped | locked => cases ha : x.awaited <;> simp
  | holding | paused | gating | releasing | returning => simp

theorem idleExpiry_other (hx : s.session p = some x) (runs : x.idleTimer ≠ none) (h : x.state ≠ .opened) :
    idleExpiry p s = s.setSession p (some { x with idleTimer := none }) := by
  simp only [idleExpiry, hx, Option.isSome_iff_ne_none.mpr runs, if_true]
  cases hs : x.state with
  | opened => exact absurd hs h
  | idle | closePending | closingWait => rfl

/-! ### Reports (R129, R131) -/

theorem tallyReport_some (hx : s.session p = some x) : tallyReport p c s =
    if x.state = .closePending ∧ c ≠ .releasing then (closeAttempt p (s.setSession p (some { x with reported := c }))).2
    else s.setSession p (some { x with reported := c }) := by
  simp only [tallyReport, hx]

/-- One waiting session, and it uses the port: its close is tried again. -/
theorem placeFreed_one (hx : s.session p = some x) (h : x.state = .closingWait) (list : s.tally.closingWait = [p])
    (uses : (s.port p).entry.counterPort = some q) : placeFreed q s = (closeAttempt p s).2 := by
  have tried : placeFreed q s = retryClose s p := by simp [placeFreed, list, uses]
  exact tried.trans (retryClose_waiting hx h)

theorem placeFreed_none (h : ∀ k ∈ s.tally.closingWait, (s.port k).entry.counterPort ≠ some q) : placeFreed q s = s := by
  have none : (s.tally.closingWait.filter fun k => (s.port k).entry.counterPort == some q) = [] := by simpa using h
  simp only [placeFreed, none, List.foldl_nil]

end Finishing

/-- Settles O45: the FINISH table by the states of the session and the context, the idle timer by whether it runs, and the freed
place by the closing-wait list. -/
theorem sessionsFinish : Obligations.SessionsFinish := by
  intro s p x hx closed restarted resting
  have finish : ∀ {t}, applyFinish p x x.reported true s = t → exec (.finish p) s = .next t :=
    fun h => (exec_finish hx).trans (congrArg _ h)
  refine ⟨fun h => finish (applyFinish_stays h), fun h hc => finish (applyFinish_closes h hc),
    fun h hc => finish (applyFinish_pends h hc), fun h hc => finish (applyFinish_asks h hc),
    fun h => finish ((applyFinish_waiting h).trans (by simp)),
    fun c h => congrArg Host.Outcome.next ((returnAnswer_returned hx).trans (if_pos h)),
    fun c h => ⟨congrArg Host.Outcome.next (returnAnswer_stays hx h true),
      congrArg Host.Outcome.next (returnAnswer_stays hx h false)⟩,
    fun c h => congrArg Host.Outcome.next (returnAnswer_opened hx h), congrArg Host.Outcome.next (restartIdle_some hx),
    fun h => congrArg Host.Outcome.next (idleExpiry_stopped hx h),
    fun runs h => congrArg Host.Outcome.next (idleExpiry_opened hx runs h),
    fun runs h => congrArg Host.Outcome.next (idleExpiry_other hx runs h), fun c => tallyReport_some hx,
    fun q list h uses => congrArg Host.Outcome.next (placeFreed_one hx h list uses),
    fun q h => congrArg Host.Outcome.next (placeFreed_none h)⟩

end Sys2Proof.Machine
end

section
/-! A voucher taken at the queue of its counter port (R137 to R140): the number it takes, and its place in the queue. -/

namespace Sys2Proof.Machine

section Creating
variable {s : State} {p : Port} {u : CounterUnit} {x : VoucherRequest} {used : List (Fin 65536)} {n : Fin 65536}

/-! ### The number (R137) -/

theorem freshNumber_unused (h : n ∉ used) : ∀ k, freshNumber used k n = n
  | 0 => rfl
  | _ + 1 => if_neg h

theorem freshNumber_used {k : Nat} (h : n ∈ used) : freshNumber used (k + 1) n = freshNumber used k (n + 1) := if_pos h

/-- A search that ends at a number in use has found every number it tried in use. -/
theorem tried_of_freshNumber_mem {k : Nat} (h : freshNumber used k n ∈ used) : ∀ i ≤ k, n + Fin.ofNat 65536 i ∈ used := by
  induction k generalizing n with
  | zero =>
    intro i hi
    obtain rfl := Nat.le_zero.mp hi
    simpa [freshNumber] using h
  | succ k ih =>
    have hn : n ∈ used := by
      by_contra free
      exact free (freshNumber_unused free (k + 1) ▸ h)
    intro i hi
    cases i with
    | zero => simpa using hn
    | succ i =>
      have next : n + Fin.ofNat 65536 (i + 1) = n + 1 + Fin.ofNat 65536 i := by
        ext; simp only [Fin.val_add, Fin.val_ofNat, Fin.val_one]; omega
      exact next ▸ ih (freshNumber_used hn ▸ h) i (Nat.le_of_succ_le_succ hi)

/-- With fewer numbers in use than there are numbers, one advance for each finds a free one: else one more number than the list
holds would be in use. -/
theorem freshNumber_not_mem (few : used.length < 65536) : freshNumber used used.length n ∉ used := by
  intro h
  have tried := tried_of_freshNumber_mem h
  have distinct : Set.InjOn (fun i => n + Fin.ofNat 65536 i) (Finset.range (used.length + 1)) := by
    intro i hi j hj e
    have same : i % 65536 = j % 65536 := congrArg Fin.val (add_left_cancel e)
    simp only [Finset.coe_range, Set.mem_Iio] at hi hj
    omega
  have count : (Finset.range (used.length + 1)).card ≤ used.toFinset.card :=
    Finset.card_le_card_of_injOn _
      (fun i hi => List.mem_toFinset.mpr (tried i (Nat.le_of_lt_succ (Finset.mem_range.mp hi)))) distinct
  have := used.toFinset_card_le
  rw [Finset.card_range] at count
  omega

theorem mem_numbersInUse : n ∈ numbersInUse s ↔ ∃ p u r, s.unit p = some u ∧ r ∈ u.queue ∧ r.number = n := by
  simp only [numbersInUse, List.mem_flatMap, mem_indices, true_and]
  refine exists_congr fun p => ?_
  cases s.unit p with
  | none => simp
  | some u => simp

/-- The queues hold 96 records at most, 8 at each port (R140). -/
theorem length_numbersInUse (law : VoucherLaw s) : (numbersInUse s).length ≤ 96 := by
  rw [numbersInUse, List.length_flatMap]
  refine (List.sum_le_card_nsmul _ 8 ?_).trans (by simp [indices])
  intro m hm
  obtain ⟨p, -, rfl⟩ := List.mem_map.mp hm
  cases hu : s.unit p with
  | none => simp
  | some u =>
    obtain ⟨places, -⟩ := law p u hu
    simpa using places

theorem nextNumber_free (h : ∀ p v r, s.unit p = some v → r ∈ v.queue → r.number ≠ s.vouchers.number) :
    nextNumber s = s.vouchers.number := by
  refine freshNumber_unused (fun used => ?_) _
  obtain ⟨p, v, r, hv, hr, e⟩ := mem_numbersInUse.mp used
  exact h p v r hv hr e

theorem nextNumber_unused {r : VoucherRecord} (law : VoucherLaw s) (hu : s.unit p = some u) (hr : r ∈ u.queue) :
    r.number ≠ nextNumber s := fun e =>
  freshNumber_not_mem (n := s.vouchers.number) (Nat.lt_of_le_of_lt (length_numbersInUse law) (by decide))
    (mem_numbersInUse.mpr ⟨p, u, r, hu, hr, e⟩)

/-! ### The queue (R138) -/

theorem createVoucher_refused
    (h : s.unit x.counter = none ∨ ∃ u, s.unit x.counter = some u ∧ 8 ≤ u.queue.length) :
    createVoucher x s = (.queueFull, s) := by
  obtain absent | ⟨u, hu, full⟩ := h
  · simp only [createVoucher, absent]
  · rw [createVoucher_some hu]
    exact if_pos full

theorem createVoucher_created (hu : s.unit x.counter = some u) (room : u.queue.length < 8) : createVoucher x s =
    (.created (nextNumber s), if u.queue = [] then sendHead x.counter (queueVoucher x u s) else queueVoucher x u s) := by
  rw [createVoucher_some hu, if_neg (show ¬ Config.voucherPlaces ≤ u.queue.length from Nat.not_le.mpr room)]
  simp only [List.isEmpty_iff]

end Creating

/-- The answer to a request is the one its creation gives (R138). -/
theorem exec_voucherRequest {s t : State} {x : VoucherRequest} {a : VoucherAnswer} (h : createVoucher x s = (a, t)) :
    exec (.voucherRequest x) s = .next { t with vouchers := { t.vouchers with answer := some a } } := by
  have run : exec (.voucherRequest x) s = execVoucherRequest x s := rfl
  rw [run, execVoucherRequest, h]

/-- Settles O46: a request by whether its queue has a place, and its number by the search over the numbers in use. -/
theorem vouchersAreCreated : Obligations.VouchersAreCreated :=
  fun s _ => ⟨fun h => exec_voucherRequest (createVoucher_refused h), fun _ hu room =>
    ⟨nextNumber s, rfl, nextNumber_free, fun law _ _ _ => nextNumber_unused law,
      exec_voucherRequest (createVoucher_created hu room)⟩⟩

end Sys2Proof.Machine
end

section
/-! The counter units (R141 to R145, R147): the head of a queue sent, a unit made READY, and what moves a unit, one equation per
case; reports to the controllers, and COUNTER_RESUME. -/

namespace Sys2Proof.Machine

section Serving
variable {s : State} {p q : Port} {u : CounterUnit} {r : VoucherRecord} {rest : List VoucherRecord} {v : VoucherReport}
  {n : Fin 65536} {x : VoucherResult}

/-! ### Reports (R147) -/

/-- The report list of a controller port replaced. -/
def keepReports (p : Port) (l : List VoucherReport) (s : State) : State :=
  { s with vouchers := { s.vouchers with reports := put s.vouchers.reports p l } }

theorem voucherReportTo_waiting (h : cell s.vouchers.reports p ≠ []) : voucherReportTo v s p =
    keepReports p (if (cell s.vouchers.reports p).length < 8 then cell s.vouchers.reports p ++ [v]
      else cell s.vouchers.reports p) s := by
  have waits : (cell s.vouchers.reports p).isEmpty = false := by simpa using h
  by_cases room : (cell s.vouchers.reports p).length < 8 <;>
    simp [voucherReportTo, offerReport, keepReports, waits, Config.reportPlaces, room]

/-- A report for a port that has none waiting, by the answer to its offer (R14). -/
theorem voucherReportTo_offered (h : cell s.vouchers.reports p = []) :
    (offerAnswer s p = .accepted → voucherReportTo v s p = keepReports p [] (enqueue s p (.voucherReport v))) ∧
    (offerAnswer s p = .queueFull → voucherReportTo v s p = keepReports p [v] s) ∧
    (offerAnswer s p = .notUp → voucherReportTo v s p = keepReports p [] s) := by
  refine ⟨fun ha => ?_, fun ha => ?_, fun ha => ?_⟩ <;> simp [voucherReportTo, offerReport, keepReports, h, ha]

theorem vouchers_offerReport {α : Type} {frame : α → TxFrame} {l : List α} {y : α} :
    (offerReport frame p l y s).2.vouchers = s.vouchers := by
  unfold offerReport
  split
  · cases offerAnswer s p <;> rfl
  · split <;> rfl

/-- Reports leave the counter units alone. -/
theorem reportVoucher_unit : (reportVoucher v s).unit q = s.unit q := by
  refine List.foldlRecOn (motive := fun t => t.unit q = s.unit q) s.controllersUp (voucherReportTo v) rfl ?_
  intro t same k _
  exact (congrArg (fun w : VoucherUnit => cell w.units q) (vouchers_offerReport (s := t) (p := k))).trans same

/-! ### The head of a queue (R141) -/

theorem sendHead_idle (hu : s.unit p = some u) (h : u.state ≠ .ready ∨ u.queue = []) : sendHead p s = s := by
  simp only [sendHead, hu]
  split
  next ready queued => simp [ready, queued] at h
  next => rfl

section Head
variable (hu : s.unit p = some u) (hs : u.state = .ready) (hq : u.queue = r :: rest)
include hu hs hq

theorem sendHead_accepted (ha : offerAnswer s p = .accepted) : sendHead p s = (enqueue s p (.voucher r)).setUnit p
    (some { u with state := .busy, queue := { r with state := .sent } :: rest,
                   replyTimer := some (s.mgmt.timers.reply + 1), sendOwed := false }) := by
  simp only [sendHead, hu, hs, hq, ha]
  rfl

theorem sendHead_queueFull (ha : offerAnswer s p = .queueFull) :
    sendHead p s = s.setUnit p (some { u with sendOwed := true }) := by
  simp only [sendHead, hu, hs, hq, ha]

theorem sendHead_notUp (ha : offerAnswer s p = .notUp) : sendHead p s = s := by
  simp only [sendHead, hu, hs, hq, ha]

end Head

/-! ### A unit made READY (R142, R144, R145) -/

/-- The unit in READY with a queue and its reply timer stopped, and the head of the queue sent. -/
def readied (p : Port) (u : CounterUnit) (l : List VoucherRecord) (s : State) : State :=
  sendHead p (s.setUnit p (some { u with state := .ready, queue := l, replyTimer := none }))

theorem unitReady_some (hu : s.unit p = some u) : unitReady p s = readied p u u.queue s := by
  simp only [unitReady, hu]
  rfl

theorem restartUnit_some (hu : s.unit p = some u) : restartUnit p s =
    if u.state = .busy ∨ u.state = .paused ∨ u.state = .stalled then readied p u u.queue s else s := by
  simp only [restartUnit, hu]
  cases u.state with
  | busy | paused | stalled => simp [unitReady_some hu]
  | ready | offline => simp

theorem resumeUnit_some (hu : s.unit p = some u) : resumeUnit p s =
    if u.state = .paused ∨ u.state = .stalled then readied p u u.queue s else s := by
  simp only [resumeUnit, hu]
  cases u.state with
  | paused | stalled => simp [unitReady_some hu]
  | ready | offline | busy => simp

/-! ### VOUCHER_DONE (R142) -/

theorem voucherDone_stale (hu : s.unit p = some u)
    (h : u.state ≠ .busy ∨ u.queue = [] ∨ ∃ r rest, u.queue = r :: rest ∧ r.number ≠ n) :
    voucherDone p n x s = s.request .staleFrame := by
  simp only [voucherDone, hu]
  split
  next r rest busy queued =>
    obtain notBusy | empty | ⟨r', rest', queued', other⟩ := h
    · exact absurd busy notBusy
    · simp [queued] at empty
    · obtain ⟨rfl, rfl⟩ := List.cons.inj (queued.symm.trans queued')
      exact if_neg other
  next => rfl

theorem voucherDone_taken (hu : s.unit p = some u) (hs : u.state = .busy) (hq : u.queue = r :: rest) :
    voucherDone p r.number x s = voucherDoneTaken p u r rest x s := by
  simp only [voucherDone, hu, hs, hq, if_true]

theorem voucherDoneTaken_printed :
    voucherDoneTaken p u r rest .printed s = readied p u rest (s.post (.voucherPlaceFreed p)) := by
  have unit : ((s.setUnit p (some { u with queue := rest, replyTimer := none })).post (.voucherPlaceFreed p)).unit p =
      some { u with queue := rest, replyTimer := none } := setUnit_unit_self s p _
  refine (unitReady_some unit).trans (congrArg (sendHead p) ?_)
  exact setUnit_setUnit (s.post (.voucherPlaceFreed p)) p _ _

theorem voucherDoneTaken_refused : voucherDoneTaken p u r rest .refused s = readied p u rest
    (((reportVoucher ⟨r, .refused⟩ (s.setUnit p (some { u with queue := rest, replyTimer := none }))).request
      .voucherRefused).post (.voucherPlaceFreed p)) :=
  unitReady_some (u := { u with queue := rest, replyTimer := none }) (reportVoucher_unit.trans (setUnit_unit_self s p _))

/-! ### The reply timer and the port's reports (R143, R145) -/

theorem replyExpiry_stopped (hu : s.unit p = some u) (h : u.replyTimer = none) : replyExpiry p s = s := by
  simp [replyExpiry, hu, h]

theorem replyExpiry_busy (hu : s.unit p = some u) (runs : u.replyTimer ≠ none) (hs : u.state = .busy) : replyExpiry p s =
    (s.setUnit p (some { u with state := .stalled, replyTimer := none })).request .counterStall := by
  simp only [replyExpiry, hu, Option.isSome_iff_ne_none.mpr runs, hs, if_true]
  rfl

theorem counterPortReport_down (hu : s.unit p = some u) : counterPortReport p false s =
    s.setUnit p (some { u with state := .offline, replyTimer := none, sendOwed := false }) := by
  simp only [counterPortReport, hu]
  rfl

theorem counterPortReport_up (hu : s.unit p = some u) : counterPortReport p true s =
    if u.state = .offline then readied p u u.queue s else s := by
  simp only [counterPortReport, hu, if_true, unitReady_some hu]

/-! ### COUNTER_RESUME (R144) -/

theorem counterResume_badIndex {i : Nat} (h : 12 ≤ i) : counterResume i s = answer .badIndex s := by
  simp [counterResume, index?_none h]

theorem counterResume_noUnit (hu : s.unit p = none) : counterResume p.val s = answer .notAllowed s := by
  simp [counterResume, hu]

theorem counterResume_notAllowed (hu : s.unit p = some u) (h : s.role p ≠ .counter ∨ u.state = .offline) :
    counterResume p.val s = answer .notAllowed s := by
  simp only [counterResume, index?_val, hu]
  obtain role | off := h
  · exact if_pos role
  · simp [off]

theorem counterResume_done (hu : s.unit p = some u) (hr : s.role p = .counter) (on : u.state ≠ .offline) :
    counterResume p.val s =
      answer .done (if u.state = .paused ∨ u.state = .stalled then readied p u u.queue s else s) := by
  simp [counterResume, hu, hr, on, resumeUnit_some hu]

theorem spares_sendHead (hq : q ≠ p) : SparesPort q s (sendHead p s) := by
  unfold sendHead
  split
  · exact .refl q s
  · split
    · split
      · exact ⟨enqueue_port_ne s _ hq, rfl⟩
      · exact ⟨rfl, rfl⟩
      · exact .refl q s
    · exact .refl q s

theorem spares_readied {l : List VoucherRecord} (hq : q ≠ p) : SparesPort q s (readied p u l s) := by
  have edited : ∀ w, SparesPort q s (s.setUnit p w) := fun _ => ⟨rfl, rfl⟩
  exact (edited _).trans (spares_sendHead hq)

end Serving

section Resuming
variable {s : State} {p : Port} {u : CounterUnit} {r : Requester}

/-- A request that the counter unit turns down changes nothing but its requester's queue. -/
theorem counterResume_refused {i : Nat} {st : Status} (h : ServesRequests s r.port)
    (e : counterResume i s = answer st s) : Answers (.counterResume r i) r st .none s s :=
  answers_spared h rfl e (.refl r.port s)

/-- The requester's port is a controller's, so that what the counter port sends leaves it alone. -/
theorem counterResume_served (h : ServesRequests s r.port) (hu : s.unit p = some u) (hr : s.role p = .counter)
    (on : u.state ≠ .offline) : Answers (.counterResume r p.val) r .done .none s
      (if u.state = .paused ∨ u.state = .stalled then readied p u u.queue s else s) := by
  have controller : s.role r.port = .controller := h.1
  have other : r.port ≠ p := fun e => by simp [e, hr] at controller
  refine answers_spared h rfl (counterResume_done hu hr on) ?_
  split
  · exact spares_readied other
  · exact .refl r.port s

end Resuming

/-- Settles O47: the reports port by port, and the unit by its state and its queue. -/
theorem counterUnitsServe : Obligations.CounterUnitsServe := by
  refine ⟨fun s v => ?_, fun s p r h absent => counterResume_refused h (counterResume_noUnit absent), fun s p u hu => ?_⟩
  · refine congrArg (fun f => s.controllersUp.foldl f s) (funext fun t => funext fun q => ?_)
    by_cases waits : cell t.vouchers.reports q = []
    · obtain ⟨accepted, queueFull, notUp⟩ := voucherReportTo_offered (v := v) waits
      dsimp only
      rw [if_neg (not_not.mpr waits)]
      cases ha : offerAnswer t q with
      | accepted => exact accepted ha
      | queueFull => exact queueFull ha
      | notUp => exact notUp ha
    · exact (voucherReportTo_waiting waits).trans (if_pos waits).symm
  · intro ready
    refine ⟨sendHead_idle hu, fun r rest hs hq =>
        ⟨sendHead_accepted hu hs hq, sendHead_queueFull hu hs hq, sendHead_notUp hu hs hq⟩,
      fun n x h => congrArg Host.Outcome.next (voucherDone_stale hu h), fun r rest hs hq => ?_,
      fun h => congrArg Host.Outcome.next (replyExpiry_stopped hu h),
      fun runs hs => congrArg Host.Outcome.next (replyExpiry_busy hu runs hs),
      congrArg Host.Outcome.next (counterPortReport_down hu), congrArg Host.Outcome.next (counterPortReport_up hu),
      restartUnit_some hu, fun r h => ⟨fun i hi => counterResume_refused h (counterResume_badIndex hi),
        fun no => counterResume_refused h (counterResume_notAllowed hu no), counterResume_served h hu⟩⟩
    have taken : ∀ x, exec (.voucherDone p r.number x) s = .next (voucherDoneTaken p u r rest x s) :=
      fun x => congrArg Host.Outcome.next (voucherDone_taken hu hs hq)
    exact ⟨(taken .printed).trans (congrArg _ voucherDoneTaken_printed), taken .paperOut,
      (taken .refused).trans (congrArg _ voucherDoneTaken_refused)⟩

end Sys2Proof.Machine
end

section
/-! The fault unit (R149 to R154, R157, R159, R160): what a fault gives and records at its context, and its report, one
controller port at a time. -/

namespace Sys2Proof.Machine

section Judging
variable {s : State} {p : Port} {f : FaultRaise} {flag : Bool} {d : Disposition} {c : FaultContext}

/-! ### A raised fault (R151, R153, R154, R160) -/

theorem isDouble_eq :
    isDouble f flag d = (decide (f.state ≠ .locked) && decide (d.cls = .contributory) && flag) := by
  simp only [isDouble, bne, beq_eq_decide, decide_not]

/-- The outcome SHUTDOWN, which R160 reports, is that of an intake that is LOCKED, and of no other. -/
theorem faultOutcomeOf_eq_shutdown : faultOutcomeOf f flag d = .shutdown ↔ f.state = .locked := by
  by_cases locked : f.state = .locked
  · simp only [faultOutcomeOf, locked, if_true]
  · cases double : isDouble f flag d <;> simp [faultOutcomeOf, locked, double, actionOutcome_ne_shutdown]

theorem isReported_iff : isReported f flag d = true ↔
    d.report = true ∨ faultKind f.number = .abort ∨ isDouble f flag d = true ∨ f.state = .locked := by
  simp only [isReported, Bool.or_eq_true, beq_iff_eq, faultOutcomeOf_eq_shutdown, or_assoc]

/-- A fault raised at a fault context: its outcome, and the context with the fault recorded, reported when R160 asks for it. -/
theorem raiseFault_some (hc : s.faultContext p = some c) (hd : cell s.faults.dispositions f.number = d) :
    let e := errorRecordOf p f (isDouble f c.flag d)
    let t := s.setFaultContext p (some { c with flag := flagAfter f c.flag d, last := some e })
    raiseFault p f s = (faultOutcomeOf f c.flag d,
      if d.report = true ∨ faultKind f.number = .abort ∨ isDouble f c.flag d = true ∨ f.state = .locked
        then reportFault e t else t) := by
  subst hd
  simp only [raiseFault, hc, isReported_iff]

/-! ### HEAD_FAULT (R157) -/

theorem headFault_some {n : FaultNo} {code : Byte} {o : FaultResult} {t : State} (hc : s.faultContext p = some c)
    (raised : raiseFault p ⟨n, true, c.reported, .none, 0, c.seq, none, none, some code⟩ s = (o, t)) :
    headFault p n code s = t.post (.faultOutcome p n o) := by
  simp only [headFault, hc, raised]

end Judging

section Reporting
variable {s : State} {p : Port} {e : ErrorRecord}

/-! ### One controller port's copy of a report (R160) -/

/-- The fault report list of a controller port replaced. -/
def keepFaultReports (p : Port) (l : List ErrorRecord) (s : State) : State :=
  { s with faults := { s.faults with reports := put s.faults.reports p l } }

/-- A list replaced by itself changes nothing. -/
theorem keepFaultReports_self {l : List ErrorRecord} (h : cell s.faults.reports p = l) : keepFaultReports p l s = s := by
  subst h
  simp only [keepFaultReports, put_cell]

theorem faultReportTo_waiting (h : cell s.faults.reports p ≠ []) : faultReportTo e s p =
    keepFaultReports p (if (cell s.faults.reports p).length < 8 then cell s.faults.reports p ++ [e]
      else cell s.faults.reports p) s := by
  have waits : (cell s.faults.reports p).isEmpty = false := by simpa using h
  by_cases room : (cell s.faults.reports p).length < 8 <;>
    simp [faultReportTo, offerReport, keepFaultReports, waits, Config.reportPlaces, room]

/-- A report for a port that has none waiting, by the answer to its offer (R14). -/
theorem faultReportTo_offered (h : cell s.faults.reports p = []) :
    (offerAnswer s p = .accepted → faultReportTo e s p = keepFaultReports p [] (enqueue s p (.faultReport e))) ∧
    (offerAnswer s p = .queueFull → faultReportTo e s p = keepFaultReports p [e] s) ∧
    (offerAnswer s p = .notUp → faultReportTo e s p = keepFaultReports p [] s) := by
  refine ⟨fun ha => ?_, fun ha => ?_, fun ha => ?_⟩ <;> simp [faultReportTo, offerReport, keepFaultReports, h, ha]

theorem reportFault_oneController (h : s.controllersUp = [p]) : reportFault e s = faultReportTo e s p := by
  simp only [reportFault, h, List.foldl_cons, List.foldl_nil]

end Reporting

/-- Settles O48: a fault at its context, then the report port by port, by whether reports wait there and by the answer to the
offer; a list that is empty already is left as it stands. -/
theorem faultsAreJudged : Obligations.FaultsAreJudged := by
  intro s p c hc
  refine ⟨fun f => ?_, fun n code o t raised => congrArg Host.Outcome.next (headFault_some hc raised),
    fun k t g q => ?_, fun e => ⟨reportFault_noController, ?_, fun q alone => ?_⟩⟩
  · intro d kind double outcome record t reported
    have twice : isDouble f c.flag d = double := isDouble_eq
    have gives : faultOutcomeOf f c.flag d = outcome := by
      rw [faultOutcomeOf, twice]
      refine congrArg (ite _ _) (congrArg (ite _ _) ?_)
      show actionOutcome kind d = _
      cases kind <;> cases ha : d.action <;> simp only [actionOutcome, ha]
    have raised := raiseFault_some hc (d := d) rfl
    rw [gives, twice] at raised
    exact raised
  · cases k <;> rfl
  · refine congrArg (fun tell => s.controllersUp.foldl tell s) (funext fun t => funext fun q => ?_)
    by_cases waits : cell t.faults.reports q = []
    · obtain ⟨accepted, queueFull, notUp⟩ := faultReportTo_offered (e := e) waits
      dsimp only
      rw [if_neg (not_not.mpr waits)]
      cases ha : offerAnswer t q with
      | accepted => exact accepted ha
      | queueFull => exact queueFull ha
      | notUp => exact notUp ha
    · exact (faultReportTo_waiting waits).trans (if_pos waits).symm
  · rw [reportFault_oneController alone]
    by_cases waits : cell s.faults.reports q = []
    · obtain ⟨accepted, queueFull, notUp⟩ := faultReportTo_offered (e := e) waits
      dsimp only
      rw [if_neg (not_not.mpr waits)]
      cases ha : offerAnswer s q with
      | accepted => exact (accepted ha).trans (keepFaultReports_self waits)
      | queueFull => exact queueFull ha
      | notUp => exact (notUp ha).trans (keepFaultReports_self waits)
    · rw [faultReportTo_waiting waits]
      dsimp only
      rw [if_pos waits]
      split
      · rfl
      · exact keepFaultReports_self rfl

end Sys2Proof.Machine
end

section
/-! The condition set, its NOTICE frames and the output lines (R167 to R170): what one NOTICE leaves at each port, the notices of
one event together, and when a line is high. -/

namespace Sys2Proof.Machine

section Notices
variable {s : State} {p q : Port} {c : Condition} {k : ConditionSet}

/-! ### What a change of the set leaves of a port (R169) -/

theorem withConditions_port : (withConditions s k).port p =
    { s.port p with tx := (s.port p).tx.map (rewriteNotice k) } := rewriteNotices_port _ p

theorem withConditions_controllersUp : (withConditions s k).controllersUp = s.controllersUp := by
  simp only [State.controllersUp, State.role, State.up, withConditions_port]

theorem withConditions_offerAnswer : offerAnswer (withConditions s k) p = offerAnswer s p := by
  simp only [offerAnswer, withConditions_port, List.length_map]

theorem mem_controllersUp : p ∈ s.controllersUp ↔ s.role p = .controller ∧ (s.port p).link = .up := by
  simp [State.controllersUp, State.up]

/-! ### One NOTICE (R169) -/

/-- What a NOTICE rests on at a port, and all it changes there: the link port and whether its slot is QUEUED. -/
def noticeView (s : State) (p : Port) : LinkPort × Bool := (s.port p, cell s.cond.queued p)

/-- A port after a NOTICE of set k was due to it: it is accepted with the slot EMPTY, the port UP and a free place. -/
def noticed (k : ConditionSet) (v : LinkPort × Bool) : LinkPort × Bool :=
  if v.2 = false ∧ v.1.link = .up ∧ v.1.tx.length < 16 then ({ v.1 with tx := v.1.tx ++ [.notice k] }, true) else v

theorem noticeTo_accepted (empty : cell s.cond.queued p = false) (ha : offerAnswer s p = .accepted) :
    noticeTo s p = setQueued (enqueue s p (.notice s.cond.set)) p true := by
  simp [noticeTo, empty, ha]

theorem noticeTo_unsent (h : cell s.cond.queued p = true ∨ offerAnswer s p ≠ .accepted) : noticeTo s p = s := by
  unfold noticeTo
  split
  · rfl
  · rename_i empty
    split
    · rename_i ha
      exact absurd ha (h.resolve_left empty)
    · rfl
    · rfl

/-- A NOTICE to a port changes link ports and notice slots alone. -/
theorem noticeTo_frame (s : State) (p : Port) : ∃ ports queued,
    noticeTo s p = { s with ports := ports, cond := { s.cond with queued := queued } } := by
  by_cases h : cell s.cond.queued p = true ∨ offerAnswer s p ≠ .accepted
  · exact ⟨s.ports, s.cond.queued, noticeTo_unsent h⟩
  · obtain ⟨empty, ha⟩ := not_or.mp h
    exact ⟨_, _, noticeTo_accepted (Bool.not_eq_true _ ▸ empty) (not_not.mp ha)⟩

theorem noticeView_noticeTo_self : noticeView (noticeTo s p) p = noticed s.cond.set (noticeView s p) := by
  have answer : offerAnswer s p = .accepted ↔ (s.port p).link = .up ∧ (s.port p).tx.length < 16 := offerAnswer_accepted
  by_cases h : cell s.cond.queued p = false ∧ offerAnswer s p = .accepted
  · rw [noticeTo_accepted h.1 h.2, noticed, if_pos ⟨h.1, answer.mp h.2⟩]
    exact Prod.ext (enqueue_port_self s p _) (cell_put_self _ p true)
  · have unsent : cell s.cond.queued p = true ∨ offerAnswer s p ≠ .accepted := by
      rw [← Bool.not_eq_false]
      exact not_and_or.mp h
    rw [noticeTo_unsent unsent, noticed, if_neg fun k => h ⟨k.1, answer.mpr k.2⟩]

theorem noticeView_noticeTo_ne (hq : q ≠ p) : noticeView (noticeTo s p) q = noticeView s q := by
  by_cases h : cell s.cond.queued p = true ∨ offerAnswer s p ≠ .accepted
  · rw [noticeTo_unsent h]
  · obtain ⟨empty, ha⟩ := not_or.mp h
    rw [noticeTo_accepted (Bool.not_eq_true _ ▸ empty) (not_not.mp ha)]
    exact Prod.ext (enqueue_port_ne s _ hq) (cell_put_ne _ true hq)

/-! ### The NOTICES of one event (R169) -/

theorem notices_frame (l : List Port) (s : State) : ∃ ports queued,
    l.foldl noticeTo s = { s with ports := ports, cond := { s.cond with queued := queued } } := by
  induction l generalizing s with
  | nil => exact ⟨s.ports, s.cond.queued, rfl⟩
  | cons p l ih =>
    obtain ⟨ports, queued, one⟩ := noticeTo_frame s p
    obtain ⟨ports', queued', rest⟩ := ih (noticeTo s p)
    exact ⟨ports', queued', by rw [List.foldl_cons, rest, one]⟩

/-- Each port of the list has its NOTICE, and no other port is touched. -/
theorem noticeView_notices {l : List Port} (hl : l.Nodup) :
    noticeView (l.foldl noticeTo s) q = if q ∈ l then noticed s.cond.set (noticeView s q) else noticeView s q := by
  induction l generalizing s with
  | nil => rfl
  | cons p l ih =>
    obtain ⟨fresh, hl⟩ := List.nodup_cons.mp hl
    have set : (noticeTo s p).cond.set = s.cond.set := by
      obtain ⟨ports, queued, one⟩ := noticeTo_frame s p
      rw [one]
    rw [List.foldl_cons, ih hl, set]
    by_cases hq : q = p
    · subst hq
      rw [if_neg fresh, if_pos List.mem_cons_self, noticeView_noticeTo_self]
    · simp only [noticeView_noticeTo_ne hq, List.mem_cons, hq, false_or]

/-! ### A condition set, and conditions cleared (R168 to R170) -/

theorem setCondition_standing (h : s.cond.set.getLsbD (conditionNumber c) = true) : setCondition c s = s := if_pos h

theorem setCondition_masked (h : s.cond.set.getLsbD (conditionNumber c) = false)
    (hm : s.cond.mask.getLsbD (conditionNumber c) = true) :
    setCondition c s = evalOutputs (withConditions s (addBit s.cond.set (conditionNumber c))) := by
  simp [setCondition, hasBit, h, hm]

/-- The state after a condition with its mask bit clear, before the outputs are evaluated: the set has grown, and each
controller port that is UP has had its NOTICE. -/
def noticesSent (c : Condition) (s : State) : State :=
  s.controllersUp.foldl noticeTo (withConditions s (addBit s.cond.set (conditionNumber c)))

theorem setCondition_unmasked (h : s.cond.set.getLsbD (conditionNumber c) = false)
    (hm : s.cond.mask.getLsbD (conditionNumber c) = false) : setCondition c s = evalOutputs (noticesSent c s) := by
  simp [setCondition, hasBit, h, hm, withConditions_controllersUp, noticesSent]

theorem noticesSent_frame (c : Condition) (s : State) : ∃ ports queued, noticesSent c s =
    { s with
      ports := ports
      cond := { s.cond with set := addBit s.cond.set (conditionNumber c), queued := queued } } :=
  notices_frame _ _

/-- Whether a port has a NOTICE of a condition newly set: a controller port that is UP, its slot EMPTY and a place free. -/
def noticeDue (s : State) (p : Port) : Bool :=
  decide (s.role p = .controller ∧ (s.port p).link = .up ∧ cell s.cond.queued p = false ∧ (s.port p).tx.length < 16)

theorem noticesSent_view (c : Condition) (s : State) (p : Port) :
    let l := (withConditions s (addBit s.cond.set (conditionNumber c))).port p
    noticeView (noticesSent c s) p =
      ({ l with tx := l.tx ++ if noticeDue s p then [.notice (addBit s.cond.set (conditionNumber c))] else [] },
        cell s.cond.queued p || noticeDue s p) := by
  intro l
  have nodup : s.controllersUp.Nodup := (List.nodup_finRange 12).filter _
  have view : noticeView (withConditions s (addBit s.cond.set (conditionNumber c))) p = (l, cell s.cond.queued p) := rfl
  have port : l = { s.port p with tx := (s.port p).tx.map (rewriteNotice (addBit s.cond.set (conditionNumber c))) } :=
    withConditions_port
  have link : l.link = (s.port p).link := by rw [port]
  have places : l.tx.length = (s.port p).tx.length := by rw [port, List.length_map]
  have due : (p ∈ s.controllersUp ∧ cell s.cond.queued p = false ∧ l.link = .up ∧ l.tx.length < 16) ↔
      noticeDue s p = true := by
    rw [mem_controllersUp, link, places, noticeDue, decide_eq_true_iff]
    tauto
  rw [noticesSent, noticeView_notices nodup, view, noticed, ← ite_and]
  cases told : noticeDue s p with
  | true => exact (if_pos (due.mpr told)).trans (by rw [Bool.or_true]; rfl)
  | false => exact (if_neg fun k => Bool.false_ne_true (told.symm.trans (due.mp k))).trans (by simp)

theorem clearConditions_eq (b : BitVec 24) (s : State) :
    let left := s.cond.set &&& ~~~(b.setWidth 22)
    clearConditions b s = ⟨.done, .conditions left, evalOutputs (withConditions s left)⟩ := by
  intro left
  obtain ⟨high, evaluated⟩ := evalOutputs_eq (withConditions s left)
  have set : (clearNamed (conditionOperand b) s).cond.set = left := by
    show (evalOutputs (withConditions s left)).cond.set = left
    rw [evaluated]
    rfl
  simp only [clearConditions, set]
  rfl

end Notices

section Outputs
variable {s : State} {o : OutputEntry}

/-! ### Output lines (R167) -/

theorem ne_zero_iff_exists_bit {n : Nat} {b : BitVec n} : b ≠ 0 ↔ ∃ k < n, b.getLsbD k = true := by
  constructor
  · intro h
    by_contra none
    refine h (BitVec.eq_of_getLsbD_eq fun k hk => ?_)
    simpa using fun on => none ⟨k, hk, on⟩
  · rintro ⟨k, -, on⟩ rfl
    simp at on

/-- When the function of an output line is active (R167). -/
def OutputActive (s : State) (o : OutputEntry) : Prop :=
  match o.function with
  | .manual => o.manual = true
  | .lineOpen l => cell s.cond.lineStates l = .opened ∨ cell s.cond.lineStates l = .nearFull
  | .intakeReady p => s.role p = .intake ∧ s.up p = true ∧ cell s.cond.ctxStates p ≠ .stopped ∧
      cell s.cond.ctxStates p ≠ .locked ∧ s.cond.roomStops = 0
  | .anyCondition => ∃ k < 22, s.cond.set.getLsbD k = true ∧ s.cond.mask.getLsbD k = false

theorem functionActive_iff : functionActive s o = true ↔ OutputActive s o := by
  unfold functionActive OutputActive
  cases o.function with
  | manual => rfl
  | lineOpen l => simp
  | intakeReady p => simp [and_assoc]
  | anyCondition =>
    simp only [bne_iff_ne, ne_zero_iff_exists_bit]
    refine exists_congr fun k => and_congr_right fun hk => ?_
    simp [hk]

theorem levelHigh_iff : levelHigh s o = true ↔ (o.polarity = .activeHigh ↔ OutputActive s o) := by
  rw [← functionActive_iff]
  unfold levelHigh
  cases o.polarity <;> simp

theorem evalOutputs_loading (h : s.mgmt.loading = true) : evalOutputs s = s := if_pos h

theorem evalOutputs_loaded (h : s.mgmt.loading = false) :
    evalOutputs s = { s with cond := { s.cond with high := mapCells (levelHigh s) s.cond.outputs } } :=
  if_neg (by simp [h])

end Outputs

/-- Settles O51: a condition by what stands of it and of its mask bit (noticesSent_view at each port), and each line by its function
and polarity. -/
theorem conditionsAreSet : Obligations.ConditionsAreSet := by
  intro s c n set_ more
  have changed : ∀ k, withConditions s k = set_ k := fun k => rfl
  refine ⟨fun h => congrArg Host.Outcome.next (setCondition_standing h),
    fun h hm => congrArg Host.Outcome.next (setCondition_masked h hm), fun h hm => ?_, fun r hr b => ?_,
    fun l x => rfl, evalOutputs_loading, fun h => ?_⟩
  · intro told
    refine ⟨noticesSent c s, congrArg Host.Outcome.next (setCondition_unmasked h hm), ?_⟩
    have view := noticesSent_view c s
    obtain ⟨ports, queued, frame⟩ := noticesSent_frame c s
    refine ⟨by rw [frame], by rw [frame], by rw [frame]; rfl, fun p => ?_⟩
    exact ⟨congrArg Prod.snd (view p), congrArg Prod.fst (view p)⟩
  · intro left
    have ports : (evalOutputs (withConditions s left)).ports = (withConditions s left).ports := evalOutputs_ports
    have slot : (evalOutputs (withConditions s left)).slot r.port = s.slot r.port := by
      rw [State.slot, evalOutputs_mgmt]
      rfl
    have place : offerAnswer (evalOutputs (withConditions s left)) r.port = .accepted := by
      simp only [offerAnswer, State.port, ports]
      exact withConditions_offerAnswer.trans (offerAnswer_of_serves hr)
    exact congrArg Host.Outcome.next (manage_answers_place hr (clearConditions_eq b s) slot place)
  · rw [evalOutputs_loaded h]
    refine ⟨rfl, rfl, fun o => ?_⟩
    intro e active
    rw [cell_mapCells]
    exact levelHigh_iff

end Sys2Proof.Machine
end

section
/-! Sense inputs (R163 to R165): an input that latches, one that is released, and the requests that clear latches or write an
entry. -/

namespace Sys2Proof.Machine

section Latching
variable {s : State} {i : SenseIx} {l : LineIx} {c : Condition}

/-! ### The counts of latches (R165) -/

/-- A report posted under a condition joins the messages under it. -/
theorem post_if (P : Prop) [Decidable P] (m : Instr) (s : State) :
    (if P then s.post m else s) = { s with mail := s.mail ++ if P then [m] else [] } := by
  by_cases h : P
  · rw [if_pos h, if_pos h]
    rfl
  · rw [if_neg h, if_neg h, List.append_nil]

theorem countBinLatch_eq (l : LineIx) (s : State) :
    let n := cell s.cond.latchCount l + 1
    countBinLatch l s = { s with
      cond := { s.cond with latchCount := put s.cond.latchCount l n }
      mail := s.mail ++ if n = 1 then [.binFullReport l true] else [] } := post_if _ _ _

theorem uncountBinLatch_eq (l : LineIx) (s : State) :
    let n := cell s.cond.latchCount l - 1
    uncountBinLatch l s = { s with
      cond := { s.cond with latchCount := put s.cond.latchCount l n }
      mail := s.mail ++ if n = 0 then [.binFullReport l false] else [] } := post_if _ _ _

theorem countRoomStop_eq (s : State) : countRoomStop s = { s with
    cond := { s.cond with roomStops := s.cond.roomStops + 1 }
    mail := s.mail ++ if s.cond.roomStops = 0 then [.roomStopReport true] else [] } := post_if _ _ _

theorem uncountRoomStop_eq (s : State) : uncountRoomStop s = { s with
    cond := { s.cond with roomStops := s.cond.roomStops - 1 }
    mail := s.mail ++ if s.cond.roomStops ≤ 1 then [.roomStopReport false] else [] } := post_if _ _ _

/-! ### An input that latches (R165) -/

/-- A request to set a condition changes the ports, the set, the notice slots and the output levels alone (R168). -/
theorem setCondition_frame (c : Condition) (s : State) : ∃ ports set queued high, setCondition c s =
    { s with ports := ports, cond := { s.cond with set := set, queued := queued, high := high } } := by
  cases h : s.cond.set.getLsbD (conditionNumber c) with
  | true => exact ⟨s.ports, s.cond.set, s.cond.queued, s.cond.high, setCondition_standing h⟩
  | false =>
    cases hm : s.cond.mask.getLsbD (conditionNumber c) with
    | true =>
      obtain ⟨high, evaluated⟩ := evalOutputs_eq (withConditions s (addBit s.cond.set (conditionNumber c)))
      exact ⟨_, _, s.cond.queued, high, (setCondition_masked h hm).trans evaluated⟩
    | false =>
      obtain ⟨ports, queued, sent⟩ := noticesSent_frame c s
      obtain ⟨high, evaluated⟩ := evalOutputs_eq (noticesSent c s)
      exact ⟨ports, _, queued, high, by rw [setCondition_unmasked h hm, evaluated, sent]⟩

@[simp] theorem setCondition_latchCount : (setCondition c s).cond.latchCount = s.cond.latchCount := by
  obtain ⟨ports, set, queued, high, e⟩ := setCondition_frame c s
  rw [e]

@[simp] theorem setCondition_roomStops : (setCondition c s).cond.roomStops = s.cond.roomStops := by
  obtain ⟨ports, set, queued, high, e⟩ := setCondition_frame c s
  rw [e]

/-- An input LATCHED, with SENSE_LATCH set (R165, step 1). -/
def latchTold (i : SenseIx) (s : State) : State :=
  setCondition .senseLatch (setInput s i { cell s.cond.inputs i with state := .latched, timer := none })

theorem latchTold_latchCount : (latchTold i s).cond.latchCount = s.cond.latchCount := setCondition_latchCount

theorem latchTold_roomStops : (latchTold i s).cond.roomStops = s.cond.roomStops := setCondition_roomStops

theorem latchInput_none (h : (cell s.cond.sense i).function = .none) : latchInput i s = evalOutputs (latchTold i s) := by
  simp only [latchInput, h, countLatch]
  rfl

theorem latchInput_binFull (h : (cell s.cond.sense i).function = .binFull l) :
    latchInput i s = evalOutputs (countBinLatch l (latchTold i s)) := by
  simp only [latchInput, h, countLatch]
  rfl

theorem latchInput_roomStop (h : (cell s.cond.sense i).function = .roomStop) :
    latchInput i s = evalOutputs (countRoomStop (setCondition .roomStop (latchTold i s))) := by
  simp only [latchInput, h, countLatch]
  rfl

theorem debounceExpiry_stale (h : (cell s.cond.inputs i).state ≠ .debouncing ∨ (cell s.cond.inputs i).timer = none) :
    debounceExpiry i s = s :=
  if_neg fun ⟨debouncing, runs⟩ => h.elim (· debouncing) fun stopped => by simp [stopped] at runs

theorem debounceExpiry_latches (hs : (cell s.cond.inputs i).state = .debouncing)
    (ht : (cell s.cond.inputs i).timer ≠ none) : debounceExpiry i s = latchInput i s :=
  if_pos ⟨hs, Option.isSome_iff_ne_none.mpr ht⟩

/-! ### An input released (R165) -/

theorem releaseInput_unlatched (h : (cell s.cond.inputs i).state ≠ .latched) : releaseInput s i = s := if_neg h

theorem releaseInput_latched (h : (cell s.cond.inputs i).state = .latched) : releaseInput s i =
    setInput (uncountLatch (cell s.cond.sense i).function s) i
      (restartedInput (cell s.cond.sense i) (cell s.cond.inputs i)) := if_pos h

theorem releaseInput_binFull (h : (cell s.cond.inputs i).state = .latched)
    (hf : (cell s.cond.sense i).function = .binFull l) : releaseInput s i =
    setInput (uncountBinLatch l s) i (restartedInput (cell s.cond.sense i) (cell s.cond.inputs i)) := by
  rw [releaseInput_latched h, hf, uncountLatch]

theorem releaseInput_roomStop (h : (cell s.cond.inputs i).state = .latched)
    (hf : (cell s.cond.sense i).function = .roomStop) : releaseInput s i =
    setInput (uncountRoomStop s) i (restartedInput (cell s.cond.sense i) (cell s.cond.inputs i)) := by
  rw [releaseInput_latched h, hf, uncountLatch]

/-- The counts and the messages alone change with a latch taken away. -/
theorem uncountLatch_frame (f : SenseFunction) (s : State) : ∃ counts stops mail, uncountLatch f s =
    { s with cond := { s.cond with latchCount := counts, roomStops := stops }, mail := mail } := by
  cases f with
  | none => exact ⟨s.cond.latchCount, s.cond.roomStops, s.mail, rfl⟩
  | binFull l => exact ⟨_, s.cond.roomStops, _, uncountBinLatch_eq l s⟩
  | roomStop => exact ⟨s.cond.latchCount, _, _, uncountRoomStop_eq s⟩

theorem releaseInput_frame (s : State) (i : SenseIx) : ∃ counts stops mail x, x.level = (cell s.cond.inputs i).level ∧
    releaseInput s i = { s with
      cond := { s.cond with latchCount := counts, roomStops := stops, inputs := put s.cond.inputs i x }, mail := mail } := by
  by_cases h : (cell s.cond.inputs i).state = .latched
  · obtain ⟨counts, stops, mail, e⟩ := uncountLatch_frame (cell s.cond.sense i).function s
    refine ⟨counts, stops, mail, restartedInput (cell s.cond.sense i) (cell s.cond.inputs i), ?_, ?_⟩
    · unfold restartedInput
      split <;> rfl
    · rw [releaseInput_latched h, e]
      rfl
  · exact ⟨s.cond.latchCount, s.cond.roomStops, s.mail, cell s.cond.inputs i, rfl, by
      rw [releaseInput_unlatched h, put_cell]⟩

@[simp] theorem desk_releaseInput : desk (releaseInput s i) = desk s := by
  obtain ⟨counts, stops, mail, x, -, e⟩ := releaseInput_frame s i
  rw [e]
  rfl

theorem desk_releaseInputs (l : List SenseIx) (s : State) : desk (l.foldl releaseInput s) = desk s := by
  induction l generalizing s with
  | nil => rfl
  | cons i l ih => rw [List.foldl_cons, ih, desk_releaseInput]

theorem desk_evalOutputs : desk (evalOutputs s) = desk s := Prod.ext evalOutputs_ports evalOutputs_mgmt

theorem releaseInput_sense : (releaseInput s i).cond.sense = s.cond.sense := by
  obtain ⟨counts, stops, mail, x, -, e⟩ := releaseInput_frame s i
  rw [e]

theorem releaseInput_level : (cell (releaseInput s i).cond.inputs i).level = (cell s.cond.inputs i).level := by
  obtain ⟨counts, stops, mail, x, level, e⟩ := releaseInput_frame s i
  rw [e, ← level]
  exact congrArg SenseInput.level (cell_put_self _ i x)

/-! ### CLEAR_SENSE (R165) -/

/-- The inputs one bit names, and none by no bit. -/
theorem filter_indices_bit (i : SenseIx) : ((indices 8).filter fun k => (1#8 <<< i.val).getLsbD k.val) = [i] := by
  have bit : ∀ k : SenseIx, (1#8 <<< i.val).getLsbD k.val = (i.val == k.val) := fun k => by
    have := getLsbD_addBit (0 : BitVec 8) i.val k.isLt
    simpa [addBit] using this
  refine filter_indices_one ((bit i).trans (beq_self_eq_true _)) fun k hk => (bit k).trans ?_
  exact beq_false_of_ne fun e => hk (Fin.ext e.symm)

theorem filter_indices_zero : ((indices 8).filter fun k => (0 : BitVec 8).getLsbD k.val) = [] :=
  filter_indices_none fun _ => BitVec.getLsbD_zero

theorem manage_clearSense {r : Requester} (h : ServesRequests s r.port) {b : BitVec 8} {l : List SenseIx}
    (named : ((indices 8).filter fun k => b.getLsbD k.val) = l) :
    Answers (.clearSense r b) r .done .none s (evalOutputs (l.foldl releaseInput s)) := by
  subst named
  exact congrArg Host.Outcome.next (manage_answers_desk h rfl (desk_evalOutputs.trans (desk_releaseInputs _ s)))

/-! ### A sense entry written (R163) -/

theorem senseFunctionOf_eq (f l : Nat) : senseFunctionOf f l =
    if f = 255 then some .none
    else if f = 1 then (if h : l < 8 then some (.binFull ⟨l, h⟩) else none)
    else if f = 2 then some .roomStop else none := by
  unfold senseFunctionOf
  split
  · rfl
  · by_cases h : l < 8 <;> simp [index?, h]
  · rfl
  · rename_i h0 h1 h2
    rw [if_neg h0, if_neg h1, if_neg h2]

theorem senseEntryOf_eq (f : SenseFields) : senseEntryOf f =
    (senseFunctionOf f.function f.line).map fun x => ⟨x, max 20 (min 2000 f.debounce)⟩ := by
  rw [senseEntryOf, clamp_eq 20 2000 _ (by decide)]
  cases senseFunctionOf f.function f.line <;> rfl

/-- A function code outside its set, and a line above 7, are refused (R163, log entry 9). -/
theorem senseEntryOf_invalid {f : SenseFields}
    (h : f.function ≠ 255 ∧ (f.function = 0 ∨ 2 < f.function) ∨ (f.function = 1 ∧ 7 < f.line)) : senseEntryOf f = none := by
  rw [senseEntryOf_eq, senseFunctionOf_eq]
  obtain ⟨ne, other⟩ | ⟨one, line⟩ := h
  · rw [if_neg ne, if_neg (by omega), if_neg (by omega), Option.map_none]
  · rw [if_neg (by omega), if_pos one, dif_neg (by omega), Option.map_none]

theorem senseEntryOf_debounce {f : SenseFields} {y : SenseEntry} (h : senseEntryOf f = some y) :
    y.debounce = max 20 (min 2000 f.debounce) := by
  rw [senseEntryOf_eq] at h
  obtain ⟨x, -, rfl⟩ := Option.map_eq_some_iff.mp h
  rfl

theorem senseWrite_index {n : Nat} {f : SenseFields} (h : 8 ≤ n) : senseWrite n f s = answer .badIndex s := by
  simp only [senseWrite, index?_none h]

theorem senseWrite_value {f : SenseFields} (h : senseEntryOf f = none) : senseWrite i.val f s = answer .badValue s := by
  simp only [senseWrite, index?_val, h]

theorem senseWrite_written {f : SenseFields} {y : SenseEntry} (h : senseEntryOf f = some y) : senseWrite i.val f s =
    answer (if y.debounce = f.debounce then .done else .doneClamped) (applySense i y s) := by
  simp only [senseWrite, index?_val, h, clampStatus_ne]

theorem applySense_same {y : SenseEntry} (h : y.function = (cell s.cond.sense i).function) :
    applySense i y s = setSense s i y := if_pos h.symm

/-- A change of function releases the input and starts it again by its level. -/
theorem applySense_changed {y : SenseEntry} (h : y.function ≠ (cell s.cond.sense i).function) :
    let free := releaseInput s i
    applySense i y s = evalOutputs { free with cond := { free.cond with
      sense := put s.cond.sense i y
      inputs := put free.cond.inputs i (restartedInput y (cell s.cond.inputs i)) } } := by
  intro free
  have restarts : restartedInput y (cell free.cond.inputs i) = restartedInput y (cell s.cond.inputs i) := by
    rw [restartedInput_eq, restartedInput_eq, releaseInput_level]
  have sense : free.cond.sense = s.cond.sense := releaseInput_sense
  rw [← restarts, ← sense]
  exact if_neg (Ne.symm h)

end Latching

/-- Settles O50: a latch and a release by the input's function, and a write by whether the function changes. -/
theorem senseInputsLatch : Obligations.SenseInputsLatch := by
  intro s i e x with_ started
  have restarted : ∀ f, restartedInput f x = started f := fun f => restartedInput_eq f x
  refine ⟨rfl, rfl, fun h => congrArg Host.Outcome.next (debounceExpiry_stale h), fun hs ht => ?_,
    releaseInput_unlatched, fun l hs hf => ?_, fun hs hf => ?_, fun r hr => ?_⟩
  · have latches : exec (.debounceTimerExpiry i) s = .next (latchInput i s) :=
      congrArg Host.Outcome.next (debounceExpiry_latches hs ht)
    intro told
    refine ⟨fun hf => ?_, fun l hf => ?_, fun hf => ?_⟩
    · rw [latches, latchInput_none hf]
      rfl
    · intro n
      have count : cell (latchTold i s).cond.latchCount l + 1 = n := by rw [latchTold_latchCount]
      rw [latches, latchInput_binFull hf, countBinLatch_eq, count]
      rfl
    · rw [latches, latchInput_roomStop hf, countRoomStop_eq, setCondition_roomStops, latchTold_roomStops]
      rfl
  · rw [releaseInput_binFull hs hf, uncountBinLatch_eq, restarted]
    rfl
  · rw [releaseInput_roomStop hs hf, uncountRoomStop_eq, restarted]
    rfl
  · have keeps : ∀ {n : Nat} {f : SenseFields} {st : Status}, senseWrite n f s = answer st s →
        Answers (.senseWrite r n f) r st .none s s :=
      fun h => congrArg Host.Outcome.next (manage_unchanged hr h)
    refine ⟨manage_clearSense hr (filter_indices_bit i), manage_clearSense hr filter_indices_zero,
      fun b => manage_clearSense hr rfl, fun n f h => keeps (senseWrite_index h),
      fun f h => keeps (senseWrite_value (senseEntryOf_invalid h)),
      fun f => (senseEntryOf_eq f).trans (congrArg _ (senseFunctionOf_eq _ _)), fun f y h => ⟨senseEntryOf_debounce h, ?_⟩⟩
    intro st free
    have written : senseWrite i.val f s = answer st (applySense i y s) := senseWrite_written h
    refine ⟨fun same => ?_, fun changed => ?_⟩
    · rw [applySense_same same] at written
      exact congrArg Host.Outcome.next (manage_answers hr written rfl rfl)
    · rw [applySense_changed changed] at written
      rw [← restarted y]
      exact congrArg Host.Outcome.next (manage_answers_desk hr written (desk_evalOutputs.trans desk_releaseInput))

end Sys2Proof.Machine
end

section
/-! The reply slots of the management unit (R172, R179, R182): when a request is taken, and how its reply and one owed by a
store save reach the port. -/

namespace Sys2Proof.Machine

section ReplySlots
variable {s : State} {p : Port} {m m' : Reply}

/-! ### Taking a request -/

theorem keepsOthersOut_iff {i : Instr} : keepsOthersOut i = true ↔ ∃ q, i = .softReset q ∨ i = .storeSave q := by
  unfold keepsOthersOut
  split <;> simp_all

theorem any_keepsOthersOut {l : List Instr} :
    l.any keepsOthersOut = false ↔ (∀ q, .softReset q ∉ l) ∧ ∀ q, .storeSave q ∉ l := by
  simp only [List.any_eq_false, keepsOthersOut_iff]
  constructor
  · exact fun h => ⟨fun q hq => h _ hq ⟨q, .inl rfl⟩, fun q hq => h _ hq ⟨q, .inr rfl⟩⟩
  · rintro ⟨noReset, noSave⟩ i hi ⟨q, rfl | rfl⟩
    · exact noReset q hi
    · exact noSave q hi

/-- With no request of the port being carried out, a request is carried out when the unit takes it (R172, R179, R182). -/
theorem mayTake_idle (h : (s.slot p).carried = .none) : mayTake s p = true ↔ s.role p = .controller ∧
    (s.slot p).reply = none ∧ (s.slot p).owed = none ∧ (∀ q, .softReset q ∉ s.mail) ∧ ∀ q, .storeSave q ∉ s.mail := by
  rw [mayTake, if_pos h, ← any_keepsOthersOut]
  simp [takesRequest, h, and_assoc]

theorem isRequestOf_iff {i : Instr} : isRequestOf p i = true ↔ ∃ q, requesterOf i = some q ∧ q.port = p := by
  unfold isRequestOf
  cases requesterOf i <;> simp

/-- With one being carried out, it is that one, which has left the messages. -/
theorem mayTake_carried (h : (s.slot p).carried ≠ .none) :
    mayTake s p = true ↔ ∀ i ∈ s.mail, ∀ q, requesterOf i = some q → q.port ≠ p := by
  rw [mayTake, if_neg h]
  simp only [Bool.not_eq_true', List.any_eq_false, isRequestOf_iff, not_exists, not_and, ne_eq]

theorem manage_taken {r : Requester} {owner : State → Answer} (h : mayTake s r.port = true) :
    manage r owner s = placeReply r (owner s).status (owner s).data (owner s).state := if_pos h

/-! ### A reply in its slot, offered to the port -/

theorem offerSlot_empty (h : (s.slot p).reply = none) : offerSlot p s = s := by
  simp only [offerSlot, h]

theorem offerSlot_reply (h : (s.slot p).reply = some m) : offerSlot p s =
    match offerAnswer s p with
    | .accepted => (enqueue s p (.mgmtReply m)).setSlot p { s.slot p with reply := none }
    | .queueFull => s
    | .notUp => s.setSlot p { s.slot p with reply := none } := by
  cases ha : offerAnswer s p <;> simp only [offerSlot, h, ha]

theorem enqueue_setSlot {f : TxFrame} {x : ControllerSlot} :
    enqueue (s.setSlot p x) p f = (enqueue s p f).setSlot p x := rfl

theorem offerAnswer_setSlot {q : Port} {x : ControllerSlot} : offerAnswer (s.setSlot q x) p = offerAnswer s p := rfl

/-- A reply put into its slot, with nothing else owed there, and offered. -/
theorem offerSlot_setSlot : offerSlot p (s.setSlot p ⟨some m, .none, none⟩) =
    match offerAnswer s p with
    | .accepted => (enqueue s p (.mgmtReply m)).setSlot p ⟨none, .none, none⟩
    | .queueFull => s.setSlot p ⟨some m, .none, none⟩
    | .notUp => s.setSlot p ⟨none, .none, none⟩ := by
  rw [offerSlot_reply (m := m) (by rw [setSlot_slot_self])]
  cases ha : offerAnswer s p <;>
    simp only [offerAnswer_setSlot, ha, setSlot_slot_self, enqueue_setSlot, setSlot_setSlot]

theorem offerSlot_owed : ((offerSlot p s).slot p).owed = (s.slot p).owed := by
  cases h : (s.slot p).reply with
  | none => rw [offerSlot_empty h]
  | some m =>
    rw [offerSlot_reply h]
    cases offerAnswer s p <;> simp only [setSlot_slot_self]

/-! ### A reply owed by a save (R182) -/

/-- Nothing is settled while the slot holds a reply, a request is to fill it, or nothing is owed. -/
theorem settleOwed_unsettled (h : ∀ m, s.slot p ≠ ⟨none, .none, some m⟩) : settleOwed p s = s := by
  generalize hx : s.slot p = x at h
  simp only [settleOwed, hx]
  split
  next m hc hr ho => exact absurd (by rw [← hc, ← hr, ← ho]) (h m)
  next => rfl

theorem settleOwed_owed (h : s.slot p = ⟨none, .none, some m⟩) :
    settleOwed p s = offerSlot p (s.setSlot p ⟨some m, .none, none⟩) := by
  simp only [settleOwed, h]

/-! ### The slot's reply, and then the one owed -/

theorem offerReplies_unowed (h : (s.slot p).owed = none) : offerReplies p s = offerSlot p s :=
  settleOwed_unsettled fun m hm => by simpa [hm, h] using offerSlot_owed (s := s) (p := p)

theorem offerReplies_carried (h : (s.slot p).reply = none) (hc : (s.slot p).carried ≠ .none) : offerReplies p s = s := by
  rw [offerReplies, offerSlot_empty h]
  exact settleOwed_unsettled fun m hm => hc (by rw [hm])

theorem offerReplies_owed (h : s.slot p = ⟨none, .none, some m⟩) :
    offerReplies p s = offerSlot p (s.setSlot p ⟨some m, .none, none⟩) := by
  rw [offerReplies, offerSlot_empty (by rw [h]), settleOwed_owed h]

/-- A full queue keeps the reply in its slot, whatever is owed. -/
theorem offerReplies_queueFull (h : (s.slot p).reply = some m) (ha : offerAnswer s p = .queueFull) : offerReplies p s = s := by
  rw [offerReplies, offerSlot_reply h, ha]
  exact settleOwed_unsettled fun m' hm => by simp [hm] at h

/-- A reply sent makes way for the one owed. -/
theorem offerReplies_accepted (h : s.slot p = ⟨some m, .none, some m'⟩) (ha : offerAnswer s p = .accepted) :
    offerReplies p s = offerSlot p ((enqueue s p (.mgmtReply m)).setSlot p ⟨some m', .none, none⟩) := by
  rw [offerReplies, offerSlot_reply (by rw [h]), ha, h]
  simp only [settleOwed_owed (setSlot_slot_self _ _ _), setSlot_setSlot]

/-- So does one dropped. -/
theorem offerReplies_notUp (h : s.slot p = ⟨some m, .none, some m'⟩) (ha : offerAnswer s p = .notUp) :
    offerReplies p s = offerSlot p (s.setSlot p ⟨some m', .none, none⟩) := by
  rw [offerReplies, offerSlot_reply (by rw [h]), ha, h]
  simp only [settleOwed_owed (setSlot_slot_self _ _ _), setSlot_setSlot]

/-- A port that took a frame is still UP. -/
theorem offerAnswer_enqueue_ne_notUp {f : TxFrame} (h : offerAnswer s p = .accepted) :
    offerAnswer (enqueue s p f) p ≠ .notUp := by
  simpa [offerAnswer_notUp] using (offerAnswer_accepted.mp h).1

/-! ### A reply placed -/

variable {r : Requester} {st : Status} {d : ReplyData}

theorem placeReply_orphaned (h : (s.slot r.port).carried = .orphaned) :
    placeReply r st d s = s.setSlot r.port { s.slot r.port with carried := .none } := if_pos h

theorem placeReply_kept (h : (s.slot r.port).carried ≠ .orphaned) : placeReply r st d s =
    offerReplies r.port (s.setSlot r.port ⟨some ⟨r.tag, st, d⟩, .none, (s.slot r.port).owed⟩) := if_neg h

/-- A reply placed in a slot whose port is owed nothing. -/
theorem placeReply_unowed (h : (s.slot r.port).carried ≠ .orphaned) (ho : (s.slot r.port).owed = none) :
    placeReply r st d s = offerSlot r.port (s.setSlot r.port ⟨some ⟨r.tag, st, d⟩, .none, none⟩) := by
  rw [placeReply_kept h, ho, offerReplies_unowed (by rw [setSlot_slot_self])]

/-- A reply placed in a slot whose port is owed a save's reply goes first, and the save's after it (log entry 53). -/
theorem placeReply_owed (h : (s.slot r.port).carried ≠ .orphaned) (ho : (s.slot r.port).owed = some m') :
    let sent := enqueue s r.port (.mgmtReply ⟨r.tag, st, d⟩)
    placeReply r st d s =
      match offerAnswer s r.port with
      | .accepted =>
        if offerAnswer sent r.port = .accepted then (enqueue sent r.port (.mgmtReply m')).setSlot r.port ⟨none, .none, none⟩
        else sent.setSlot r.port ⟨some m', .none, none⟩
      | .queueFull => s.setSlot r.port ⟨some ⟨r.tag, st, d⟩, .none, some m'⟩
      | .notUp => s.setSlot r.port ⟨none, .none, none⟩ := by
  intro sent
  rw [placeReply_kept h, ho]
  cases ha : offerAnswer s r.port with
  | accepted =>
    rw [offerReplies_accepted (setSlot_slot_self _ _ _) ha, enqueue_setSlot, setSlot_setSlot, offerSlot_setSlot]
    cases hb : offerAnswer sent r.port with
    | accepted => rfl
    | queueFull => rfl
    | notUp => exact absurd hb (offerAnswer_enqueue_ne_notUp ha)
  | queueFull => exact offerReplies_queueFull (by rw [setSlot_slot_self]) ha
  | notUp =>
    rw [offerReplies_notUp (setSlot_slot_self _ _ _) ha, setSlot_setSlot, offerSlot_setSlot, ha]

end ReplySlots

/-- Settles O16: when a request is taken by whether one is being carried out, and a reply by the answer of its port. -/
theorem repliesGoThroughTheSlot : Obligations.RepliesGoThroughTheSlot := by
  intro s r st d owner x m
  refine ⟨mayTake_idle, mayTake_carried, manage_refused, manage_taken, placeReply_orphaned, fun hc ho => ?_, fun m' hr ho => ?_,
    fun m' hr hc ho => ?_, offerReplies_carried, fun m' hc ho => placeReply_owed hc ho⟩
  · exact (placeReply_unowed hc ho).trans offerSlot_setSlot
  · exact (offerReplies_unowed ho).trans (offerSlot_reply hr)
  · have hx : s.slot r.port = ⟨none, .none, some m'⟩ := by rw [← hr, ← hc, ← ho]
    exact (offerReplies_owed hx).trans offerSlot_setSlot

end Sys2Proof.Machine
end

section
/-! The image body of the configuration store (R180, R181): where each part of it stands, and each part loaded back. -/

namespace Sys2Proof.Machine

/-! ### Bytes at a place of a body -/

/-- The given bytes stand in a body from byte i on. -/
def BytesAt (body : List Byte) (i : Nat) (bytes : List Byte) : Prop := bytes <+: body.drop i

section Places
variable {body a b bytes : List Byte} {i : Nat}

theorem bytesAt_self : BytesAt body 0 body := List.prefix_rfl

theorem bytesAt_append : BytesAt body i (a ++ b) ↔ BytesAt body i a ∧ BytesAt body (i + a.length) b := by
  unfold BytesAt
  rw [← List.drop_drop]
  constructor
  · rintro ⟨t, ht⟩
    simp [← ht]
  · rintro ⟨⟨t, ht⟩, hb⟩
    rw [← ht, List.drop_left] at hb
    rw [← ht]
    exact (List.prefix_append_right_inj a).mpr hb

theorem getD_of_bytesAt (h : BytesAt body i bytes) {k : Nat} (hk : k < bytes.length) : body.getD (i + k) 0 = bytes[k] := by
  obtain ⟨t, ht⟩ := h
  have : (body.drop i).getD k 0 = bytes[k] := by
    rw [← ht, List.getD_eq_getElem?_getD, List.getElem?_append_left hk, List.getElem?_eq_getElem hk, Option.getD_some]
  rw [← this]
  simp

/-- The number of the bytes that stand at a place. -/
theorem numberAt_of_bytesAt {n : Nat} (h : BytesAt body i bytes) (hn : bytes.length = n) :
    numberAt body i n = number bytes := by
  subst hn
  unfold numberAt
  congr 1
  refine List.ext_getElem (by simp) fun k h1 h2 => ?_
  rw [List.getElem_map, List.getElem_range, getD_of_bytesAt h h2]

theorem byteAt_of_bytesAt {c : Byte} (h : BytesAt body i (c :: b)) : byteAt body i = c.toNat :=
  congrArg BitVec.toNat (getD_of_bytesAt h (k := 0) (by simp))

/-! ### Numbers -/

theorem byteAt_put1 {n : Nat} (h : BytesAt body i (put1 n)) (hn : n ≤ 255) : byteAt body i = n :=
  (byteAt_of_bytesAt h).trans (Nat.mod_eq_of_lt (by omega))

theorem numberAt_put2 {n : Nat} (h : BytesAt body i (put2 n)) (hn : n ≤ 65535) : numberAt body i 2 = n := by
  rw [numberAt_of_bytesAt h (length_put2 n)]
  simp [number, put2]
  omega

theorem numberAt_put3 {n : Nat} (h : BytesAt body i (put3 n)) (hn : n < 16777216) : numberAt body i 3 = n := by
  rw [numberAt_of_bytesAt h (length_put3 n)]
  simp [number, put3]
  omega

theorem numberAt_putTare {n : Int} (h : BytesAt body i (putTare n)) (lo : -500 ≤ n) (hi : n ≤ 500) :
    (BitVec.ofNat 16 (numberAt body i 2)).toInt = n := by
  have whole : numberAt body i 2 = (BitVec.ofInt 16 n).toNat :=
    (numberAt_of_bytesAt h rfl).trans ((number_lowBytes 2 _).trans (Nat.mod_eq_of_lt (BitVec.isLt _)))
  rw [whole, BitVec.ofNat_toNat, BitVec.setWidth_eq, BitVec.toInt_ofInt]
  exact Int.bmod_eq_of_le (by omega) (by omega)

theorem numberAt_putKey {k : Key} (h : BytesAt body i (putKey k)) : BitVec.ofNat 128 (numberAt body i 16) = k := by
  have whole : numberAt body i 16 = k.toNat :=
    (numberAt_of_bytesAt h rfl).trans ((number_lowBytes 16 k).trans (Nat.mod_eq_of_lt k.isLt))
  rw [whole, BitVec.ofNat_toNat, BitVec.setWidth_eq]

/-! ### Names, indices, flags and optional fields -/

theorem storedName_putName {α : Type} [DecidableEq α] {names : List α} {x d : α} (h : BytesAt body i (putName names x))
    (hx : x ∈ names) (hn : names.length ≤ 256) : storedName names d (byteAt body i) = x := by
  have place : names.idxOf x < names.length := List.idxOf_lt_length_of_mem hx
  rw [byteAt_put1 h (by simp only [codeOf]; omega)]
  simp [storedName, decodeName, codeOf, hx]

theorem storedIndex_put1 {n : Nat} {x : Fin (n + 1)} (h : BytesAt body i (put1 x.val)) (hn : n ≤ 255) :
    storedIndex n (byteAt body i) = x := by
  have := x.isLt
  rw [byteAt_put1 h (by omega)]
  exact Fin.ext (min_eq_left (by omega))

theorem storedOptional_putOptional {n : Nat} {x : Option (Fin n)} (h : BytesAt body i (putOptional x)) (hn : n ≤ 255) :
    storedOptional n (byteAt body i) = x := by
  cases x with
  | none =>
    rw [byteAt_of_bytesAt h]
    exact dif_neg (by simpa using hn)
  | some y =>
    have := y.isLt
    rw [byteAt_put1 h (by omega)]
    exact index?_val y

theorem decodeFlag_putFlag {x : Bool} (h : BytesAt body i (putFlag x)) : decodeFlag (byteAt body i) = some x := by
  rw [byteAt_of_bytesAt h]
  cases x <;> rfl

theorem clamp_of_mem {lo hi n : Nat} (h : lo ≤ n) (k : n ≤ hi) : clamp lo hi n = n := by
  rw [clamp_eq lo hi n (h.trans k)]
  omega

/-! ### Lists and tables of entries of one width -/

variable {α : Type} {item : α → List Byte} {w : Nat}

theorem length_flatMap_width {xs : List α} (width : ∀ x ∈ xs, (item x).length = w) :
    (xs.flatMap item).length = xs.length * w := by
  induction xs with
  | nil => simp
  | cons x xs ih =>
    rw [List.flatMap_cons, List.length_append, width x List.mem_cons_self, ih fun y hy => width y (List.mem_cons_of_mem x hy),
      List.length_cons, Nat.succ_mul, Nat.add_comm]

theorem bytesAt_flatMap {xs : List α} (width : ∀ x ∈ xs, (item x).length = w) (h : BytesAt body i (xs.flatMap item)) {k : Nat}
    (hk : k < xs.length) : BytesAt body (i + w * k) (item xs[k]) := by
  induction xs generalizing i k with
  | nil => contradiction
  | cons x xs ih =>
    rw [List.flatMap_cons, bytesAt_append, width x List.mem_cons_self] at h
    obtain ⟨head, tail⟩ := h
    cases k with
    | zero => exact head
    | succ k =>
      have := ih (fun y hy => width y (List.mem_cons_of_mem x hy)) tail (Nat.lt_of_succ_lt_succ hk)
      rwa [Nat.mul_succ, Nat.add_comm _ w, ← Nat.add_assoc]

/-- A list loaded item by item. -/
theorem map_range_load {xs : List α} {load : Nat → α} (width : ∀ x ∈ xs, (item x).length = w)
    (h : BytesAt body i (xs.flatMap item)) (reads : ∀ x j, BytesAt body j (item x) → load j = x) :
    (List.range xs.length).map (fun k => load (i + w * k)) = xs := by
  refine List.ext_getElem (by simp) fun k h1 h2 => ?_
  rw [List.getElem_map, List.getElem_range]
  exact reads _ _ (bytesAt_flatMap width h h2)

theorem length_putStored {xs : List α} {capacity : Nat} (width : ∀ x ∈ xs, (item x).length = w) (h : xs.length ≤ capacity) :
    (putStored capacity w item xs).length = 1 + capacity * w := by
  simp only [putStored, List.length_append, length_put1, length_flatMap_width width, List.length_replicate, Nat.add_assoc,
    ← Nat.add_mul, Nat.add_sub_of_le h]

theorem bytesAt_putStored {xs : List α} {capacity : Nat} (h : BytesAt body i (putStored capacity w item xs)) :
    BytesAt body i (put1 xs.length) ∧ BytesAt body (i + 1) (xs.flatMap item) := by
  rw [putStored, bytesAt_append, bytesAt_append] at h
  exact h.1

section Tables
variable {n : Nat} {v : Vector α n}

theorem length_putTable (width : ∀ k, (item (cell v k)).length = w) : (putTable item v).length = n * w := by
  rw [putTable, length_flatMap_width (w := w), Vector.length_toList]
  intro x hx
  obtain ⟨k, hk, rfl⟩ := List.getElem_of_mem hx
  exact width ⟨k, by simpa using hk⟩

/-- A table loaded entry by entry. -/
theorem tabulate_load {load : Fin n → α} (h : BytesAt body i (putTable item v)) (width : ∀ k, (item (cell v k)).length = w)
    (reads : ∀ k, BytesAt body (i + w * k.val) (item (cell v k)) → load k = cell v k) : tabulate n load = v := by
  refine cell_ext fun k => ?_
  rw [cell_tabulate]
  refine reads k ?_
  have := bytesAt_flatMap (w := w) ?_ h (k := k.val) (by simp)
  · simpa [cell] using this
  · intro x hx
    obtain ⟨k, hk, rfl⟩ := List.getElem_of_mem hx
    exact width ⟨k, by simpa using hk⟩

end Tables

/-! ### Entries -/

@[simp] theorem length_putOptional {n : Nat} (x : Option (Fin n)) : (putOptional x).length = 1 := by
  cases x <;> rfl

@[simp] theorem length_putTare (n : Int) : (putTare n).length = 2 := rfl
@[simp] theorem length_putFlag (x : Bool) : (putFlag x).length = 1 := rfl
@[simp] theorem length_putKey (k : Key) : (putKey k).length = 16 := rfl
@[simp] theorem length_putClass (c : TariffClass) : (putClass c).length = 3 := rfl
@[simp] theorem length_putHop (x : Hop) : (putHop x).length = 3 := rfl
@[simp] theorem length_putDisposition (d : Disposition) : (putDisposition d).length = 4 := rfl

@[simp] theorem length_putPortEntry (e : PortEntry) : (putPortEntry e).length = 10 := by
  simp [putPortEntry]

@[simp] theorem length_putLineTail (r : LineRecord) : (putLineTail r).length = 7 := by
  simp [putLineTail]

@[simp] theorem length_putSense (f : SenseFunction) : (putSense f).length = 2 := by
  cases f <;> rfl

@[simp] theorem length_putOutput (f : OutputFunction) : (putOutput f).length = 2 := by
  cases f <;> rfl

theorem mem_enables (x : Bool) : x ∈ enables := by cases x <;> decide
theorem mem_manualValues (x : Bool) : x ∈ manualValues := by cases x <;> decide
theorem mem_roles (x : Role) : x ∈ roles := by cases x <;> decide
theorem mem_positions (x : Position) : x ∈ positions := by cases x <;> decide
theorem mem_actions (x : Action) : x ∈ actions := by cases x <;> decide
theorem mem_faultClasses (x : FaultClass) : x ∈ faultClasses := by cases x <;> decide
theorem mem_polarities (x : Polarity) : x ∈ polarities := by cases x <;> decide

theorem loadPort_putPortEntry {e d : PortEntry} (h : BytesAt body i (putPortEntry e))
    (limit : 1 ≤ e.creditLimit ∧ e.creditLimit ≤ 999999) (tare : -500 ≤ e.tare ∧ e.tare ≤ 500) (hold : e.holdLimit ≤ 60000) :
    loadPort body i d = e := by
  simp only [putPortEntry, bytesAt_append, List.length_append, length_putName, length_putOptional, length_put3, length_putTare,
    Nat.reduceAdd] at h
  obtain ⟨⟨⟨⟨⟨hr, he⟩, hc⟩, hl⟩, ht⟩, hh⟩ := h
  rw [loadPort, storedName_putName hr (mem_roles _) (by decide), storedName_putName he (mem_enables _) (by decide),
    storedOptional_putOptional hc (by decide), numberAt_put3 hl (by omega), numberAt_putTare ht tare.1 tare.2,
    numberAt_put2 hh (by omega), clamp_of_mem limit.1 limit.2, clamp_of_mem (Nat.zero_le _) hold,
    clampInt_eq _ _ _ (by decide), min_eq_right tare.2, max_eq_right tare.1]

theorem loadHop_putHop {x : Hop} (h : BytesAt body i (putHop x)) : loadHop body i = x := by
  simp only [putHop, bytesAt_append, List.length_append, length_put1, Nat.reduceAdd] at h
  obtain ⟨⟨hp, hg⟩, hq⟩ := h
  rw [loadHop, storedIndex_put1 hp (by decide), storedIndex_put1 hg (by decide),
    storedName_putName hq (mem_positions _) (by decide)]

theorem loadDisposition_putDisposition {x d : Disposition} (h : BytesAt body i (putDisposition x)) :
    loadDisposition body i d = x := by
  simp only [putDisposition, bytesAt_append, List.length_append, length_put1, length_putName, Nat.reduceAdd] at h
  obtain ⟨⟨⟨ha, hk⟩, hc⟩, hr⟩ := h
  rw [loadDisposition, storedName_putName ha (mem_actions _) (by decide), storedIndex_put1 hk (by decide),
    storedName_putName hc (mem_faultClasses _) (by decide), decodeFlag_putFlag hr, Option.getD_some]

theorem loadSenseFunction_putSense {f : SenseFunction} (h : BytesAt body i (putSense f)) :
    loadSenseFunction (byteAt body i) (byteAt body (i + 1)) = f := by
  cases f with
  | none => rw [byteAt_of_bytesAt h]; rfl
  | roomStop => rw [byteAt_of_bytesAt h]; rfl
  | binFull l =>
    have line : BytesAt body (i + 1) (put1 l.val) := (bytesAt_append (a := [1])).mp h |>.2
    rw [byteAt_of_bytesAt h]
    exact congrArg SenseFunction.binFull (storedIndex_put1 line (by decide))

theorem loadSense_putSense {e : SenseEntry} (h : BytesAt body i (putSense e.function ++ put2 e.debounce))
    (range : 20 ≤ e.debounce ∧ e.debounce ≤ 2000) : loadSense body i = e := by
  rw [bytesAt_append, length_putSense] at h
  obtain ⟨hf, hd⟩ := h
  rw [loadSense, loadSenseFunction_putSense hf, numberAt_put2 hd (by omega), clamp_of_mem range.1 range.2]

theorem loadOutputFunction_putOutput {f : OutputFunction} (h : BytesAt body i (putOutput f)) :
    loadOutputFunction (byteAt body i) (byteAt body (i + 1)) = f := by
  cases f with
  | manual => rw [byteAt_of_bytesAt h]; rfl
  | anyCondition => rw [byteAt_of_bytesAt h]; rfl
  | lineOpen l =>
    have line : BytesAt body (i + 1) (put1 l.val) := (bytesAt_append (a := [1])).mp h |>.2
    rw [byteAt_of_bytesAt h]
    exact congrArg OutputFunction.lineOpen (storedIndex_put1 line (by decide))
  | intakeReady p =>
    have port : BytesAt body (i + 1) (put1 p.val) := (bytesAt_append (a := [2])).mp h |>.2
    rw [byteAt_of_bytesAt h]
    exact congrArg OutputFunction.intakeReady (storedIndex_put1 port (by decide))

theorem loadOutput_putOutput {e : OutputEntry}
    (h : BytesAt body i (putOutput e.function ++ putName polarities e.polarity ++ putName manualValues e.manual)) :
    loadOutput body i = e := by
  simp only [bytesAt_append, List.length_append, length_putOutput, length_putName, Nat.reduceAdd] at h
  obtain ⟨⟨hf, hp⟩, hm⟩ := h
  rw [loadOutput, loadOutputFunction_putOutput hf, storedName_putName hp (mem_polarities _) (by decide),
    storedName_putName hm (mem_manualValues _) (by decide)]

/-! ### Line entries -/

/-- The fields of a line record in the ranges R82 allows. -/
def LineInRange (l : LineIx) (r : LineRecord) : Prop :=
  1 ≤ r.route.length ∧ r.route.length ≤ 6 ∧ 1 ≤ r.segments.length ∧ r.segments.length ≤ 4 ∧ r.segments.Nodup ∧
    r.overflow ≠ some l ∧ r.nearFull < r.full ∧ r.full ≤ 100 ∧ 500 ≤ r.transitLimit ∧ r.transitLimit ≤ 60000

variable {l : LineIx} {x : LineRecord × Bool}

theorem length_putSegments {segments : List SegIx} (h : segments.length ≤ 4) :
    (putStored 4 1 (fun g => put1 g.val) segments).length = 5 := length_putStored (fun _ _ => rfl) h

theorem length_putRoute {route : List Hop} (h : route.length ≤ 6) : (putStored 6 3 putHop route).length = 19 :=
  length_putStored (fun x _ => length_putHop x) h

theorem length_putStoredLine (h : LineInRange l x.1) : (putStoredLine x).length = 32 := by
  obtain ⟨-, route, -, segments, -⟩ := h
  simp only [putStoredLine, List.length_append, length_putRoute route, length_putSegments segments,
    length_putLineTail, length_putName]

theorem loadOverflow_putOptional {o : Option LineIx} (h : BytesAt body i (putOptional o)) (ho : o ≠ some l) :
    loadOverflow l (byteAt body i) = o := by
  rw [loadOverflow, storedOptional_putOptional h (by decide)]
  cases o with
  | none => rfl
  | some m => exact if_neg fun e => ho (congrArg some e)

theorem loadMaterials_setWidth {m : MaterialSet} (h : BytesAt body i [m.setWidth 8]) : BitVec.ofNat 6 (byteAt body i) = m := by
  rw [byteAt_of_bytesAt h]
  exact BitVec.eq_of_toNat_eq (by simp; omega)

theorem loadLine_putStoredLine {r : LineRecord} {e : Bool} (h : BytesAt body i (putStoredLine (r, e)))
    (range : LineInRange l r) : loadLine body i l = (r, e) := by
  obtain ⟨routeMin, routeMax, segMin, segMax, nodup, other, below, fullMax, limitMin, limitMax⟩ := range
  simp only [putStoredLine, putLineTail, bytesAt_append, List.length_append, length_putRoute routeMax,
    length_putSegments segMax, length_put1, length_put2, length_putOptional, List.length_singleton, Nat.add_assoc,
    Nat.reduceAdd] at h
  obtain ⟨⟨⟨route, segments⟩, ⟨⟨⟨⟨bin, overflow⟩, materials⟩, near⟩, full⟩, limit⟩, enabled⟩ := h
  obtain ⟨routeCount, hops⟩ := bytesAt_putStored route
  obtain ⟨segmentCount, items⟩ := bytesAt_putStored segments
  have hopsLoad : (List.range r.route.length).map (fun k => loadHop body (i + 1 + 3 * k)) = r.route :=
    map_range_load (fun y _ => length_putHop y) hops fun y j => loadHop_putHop
  have itemsLoad : (List.range r.segments.length).map (fun k => storedIndex 11 (byteAt body (i + 20 + 1 * k))) = r.segments :=
    map_range_load (load := fun j => storedIndex 11 (byteAt body j)) (fun y _ => rfl) items
      fun y j hy => storedIndex_put1 hy (by decide)
  simp only [Nat.one_mul] at itemsLoad
  simp only [loadLine, byteAt_put1 routeCount (by omega), byteAt_put1 segmentCount (by omega), byteAt_put1 near (by omega),
    byteAt_put1 full (by omega), numberAt_put2 limit (by omega), clamp_of_mem routeMin routeMax, clamp_of_mem segMin segMax,
    hopsLoad, itemsLoad, nodup.dedup, storedIndex_put1 bin (by decide), loadOverflow_putOptional overflow other,
    loadMaterials_setWidth materials, clamp_of_mem (Nat.zero_le _) (show r.nearFull ≤ 99 by omega), clamp_of_mem below fullMax,
    clamp_of_mem limitMin limitMax, storedName_putName enabled (mem_enables _) (by decide)]

end Places

/-! ### The whole body -/

section Body
variable {i : Image} {body : List Byte} (lines : ∀ l, LineInRange l (cell i.lines l).1)

theorem length_ports : (putTable putPortEntry i.ports).length = 120 := length_putTable fun _ => length_putPortEntry _

theorem length_allowances : (putTable put2 i.allowances).length = 12 := length_putTable fun _ => length_put2 _

theorem length_bytes {n : Nat} {v : Vector Nat n} : (putTable put1 v).length = n := by
  rw [length_putTable fun _ => length_put1 _, Nat.mul_one]

theorem length_classes : (putTable putClass i.classes).length = 96 := length_putTable fun _ => length_putClass _

theorem length_dispositions : (putTable putDisposition i.dispositions).length = 128 :=
  length_putTable fun _ => length_putDisposition _

theorem length_sense : (putTable (fun e => putSense e.function ++ put2 e.debounce) i.sense).length = 32 :=
  length_putTable (w := 4) fun _ => by simp

theorem length_outputs : (putTable (fun e => putOutput e.function ++ putName polarities e.polarity ++
    putName manualValues e.manual) i.outputs).length = 32 := length_putTable (w := 4) fun _ => by simp

include lines

theorem length_lines : (putTable putStoredLine i.lines).length = 256 :=
  length_putTable fun l => length_putStoredLine (lines l)

/-- R180: the image body has 724 bytes. -/
theorem length_imageBody : (imageBody i).length = 724 := by
  simp only [imageBody, List.length_append, length_ports, length_allowances, length_bytes, length_classes, length_lines lines,
    length_dispositions, length_sense, length_outputs, length_put2, length_put3, length_putKey]

/-- R180: where each table stands in a body that begins with the image. -/
theorem imageBody_places (h : BytesAt body 0 (imageBody i)) :
    BytesAt body 0 (putTable putPortEntry i.ports) ∧
    (BytesAt body 120 (put2 i.timers.gateAck) ∧ BytesAt body 122 (put2 i.timers.handover) ∧
      BytesAt body 124 (put2 i.timers.reply) ∧ BytesAt body 126 (put2 i.timers.idle)) ∧
    BytesAt body 128 (putTable put2 i.allowances) ∧ BytesAt body 140 (putTable put1 i.pitches) ∧
    BytesAt body 145 (putTable putClass i.classes) ∧ BytesAt body 241 (putTable put1 i.rates) ∧
    BytesAt body 245 (putTable putStoredLine i.lines) ∧ BytesAt body 501 (putTable put1 i.capacities) ∧
    BytesAt body 513 (putTable putDisposition i.dispositions) ∧
    BytesAt body 641 (putTable (fun e => putSense e.function ++ put2 e.debounce) i.sense) ∧
    BytesAt body 673 (putTable (fun e => putOutput e.function ++ putName polarities e.polarity ++
      putName manualValues e.manual) i.outputs) ∧
    BytesAt body 705 (put3 i.mask.toNat) ∧ BytesAt body 708 (putKey i.code) := by
  simpa only [imageBody, bytesAt_append, List.length_append, length_ports, length_allowances, length_bytes, length_classes,
    length_lines lines, length_dispositions, length_sense, length_outputs, length_put2, length_put3, Nat.zero_add,
    Nat.reduceAdd, and_assoc] using h

end Body

section Loads
variable {i : Image} {body : List Byte}

theorem loadPorts (h : BytesAt body 0 (putTable putPortEntry i.ports))
    (range : ∀ p, 1 ≤ (cell i.ports p).creditLimit ∧ (cell i.ports p).creditLimit ≤ 999999 ∧ -500 ≤ (cell i.ports p).tare ∧
      (cell i.ports p).tare ≤ 500 ∧ (cell i.ports p).holdLimit ≤ 60000) :
    (tabulate 12 fun p => loadPort body (10 * p.val) (.default p)) = i.ports :=
  tabulate_load h (fun _ => length_putPortEntry _) fun p hp => by
    obtain ⟨limitMin, limitMax, tareMin, tareMax, hold⟩ := range p
    rw [Nat.zero_add] at hp
    exact loadPort_putPortEntry hp ⟨limitMin, limitMax⟩ ⟨tareMin, tareMax⟩ hold

theorem loadAllowances (h : BytesAt body 128 (putTable put2 i.allowances)) (range : ∀ k, cell i.allowances k ≤ 2000) :
    (tabulate 6 fun k => min (numberAt body (128 + 2 * k.val) 2) 2000) = i.allowances :=
  tabulate_load h (fun _ => length_put2 _) fun k hk => by
    have := range k
    rw [numberAt_put2 hk (by omega), min_eq_left this]

theorem loadPitches (h : BytesAt body 140 (putTable put1 i.pitches))
    (range : ∀ k, 1 ≤ cell i.pitches k ∧ cell i.pitches k ≤ 15) :
    (tabulate 5 fun k => clamp 1 15 (byteAt body (140 + k.val))) = i.pitches :=
  tabulate_load h (fun _ => length_put1 _) fun k hk => by
    obtain ⟨least, most⟩ := range k
    rw [Nat.one_mul] at hk
    rw [byteAt_put1 hk (by omega), clamp_of_mem least most]

theorem loadClasses (h : BytesAt body 145 (putTable putClass i.classes)) (range : ∀ k, (cell i.classes k).deposit ≤ 65535) :
    (tabulate 32 fun k => (⟨numberAt body (145 + 3 * k.val) 2, storedIndex 3 (byteAt body (147 + 3 * k.val))⟩ : TariffClass)) =
      i.classes :=
  tabulate_load h (fun _ => length_putClass _) fun k hk => by
    rw [putClass, bytesAt_append, length_put2, Nat.add_right_comm] at hk
    obtain ⟨deposit, scheme⟩ := hk
    rw [numberAt_put2 deposit (range k), storedIndex_put1 scheme (by decide)]

theorem loadRates (h : BytesAt body 241 (putTable put1 i.rates)) (range : ∀ k, cell i.rates k ≤ 250) :
    (tabulate 4 fun k => min (byteAt body (241 + k.val)) 250) = i.rates :=
  tabulate_load h (fun _ => length_put1 _) fun k hk => by
    have := range k
    rw [Nat.one_mul] at hk
    rw [byteAt_put1 hk (by omega), min_eq_left this]

theorem loadLines (h : BytesAt body 245 (putTable putStoredLine i.lines)) (range : ∀ l, LineInRange l (cell i.lines l).1) :
    (tabulate 8 fun l => loadLine body (245 + 32 * l.val) l) = i.lines :=
  tabulate_load h (fun l => length_putStoredLine (range l)) fun l hl => loadLine_putStoredLine hl (range l)

theorem loadCapacities (h : BytesAt body 501 (putTable put1 i.capacities)) (range : ∀ k, cell i.capacities k ≤ 255) :
    (tabulate 12 fun g => byteAt body (501 + g.val)) = i.capacities :=
  tabulate_load h (fun _ => length_put1 _) fun g hg => by
    rw [Nat.one_mul] at hg
    exact byteAt_put1 hg (range g)

theorem loadDispositions (h : BytesAt body 513 (putTable putDisposition i.dispositions)) :
    (tabulate 32 fun n => loadDisposition body (513 + 4 * n.val) (.default n.val)) = i.dispositions :=
  tabulate_load h (fun _ => length_putDisposition _) fun _ => loadDisposition_putDisposition

theorem loadSenses (h : BytesAt body 641 (putTable (fun e => putSense e.function ++ put2 e.debounce) i.sense))
    (range : ∀ k, 20 ≤ (cell i.sense k).debounce ∧ (cell i.sense k).debounce ≤ 2000) :
    (tabulate 8 fun k => loadSense body (641 + 4 * k.val)) = i.sense :=
  tabulate_load h (fun _ => by simp) fun k hk => loadSense_putSense hk (range k)

theorem loadOutputs (h : BytesAt body 673 (putTable (fun e => putOutput e.function ++ putName polarities e.polarity ++
    putName manualValues e.manual) i.outputs)) : (tabulate 8 fun k => loadOutput body (673 + 4 * k.val)) = i.outputs :=
  tabulate_load h (fun _ => by simp) fun _ => loadOutput_putOutput

theorem loadMask {m : ConditionSet} (h : BytesAt body 705 (put3 m.toNat)) : BitVec.ofNat 22 (numberAt body 705 3) = m := by
  rw [numberAt_put3 h (by omega), BitVec.ofNat_toNat, BitVec.setWidth_eq]

end Loads

/-- Settles O60: the 724 bytes are those of the tables in turn, and each table is loaded from its place, entry by entry. -/
theorem imagesAreReadBack : Obligations.ImagesAreReadBack := by
  intro i ports timers allowances pitches classes rates capacities lines sense
  refine ⟨length_imageBody lines, ?_⟩
  obtain ⟨atPorts, ⟨atGateAck, atHandover, atReply, atIdle⟩, atAllowances, atPitches, atClasses, atRates, atLines, atCapacities,
    atDispositions, atSense, atOutputs, atMask, atCode⟩ := imageBody_places lines bytesAt_self
  obtain ⟨ackMin, ackMax, handoverMin, handoverMax, replyMin, replyMax, idle⟩ := timers
  have gateAck : clampTimer 0 i.timers.gateAck = i.timers.gateAck := clamp_of_mem ackMin ackMax
  have handover : clampTimer 1 i.timers.handover = i.timers.handover := clamp_of_mem handoverMin handoverMax
  have reply : clampTimer 2 i.timers.reply = i.timers.reply := clamp_of_mem replyMin replyMax
  have idle : clampTimer 3 i.timers.idle = i.timers.idle := by
    rw [clampTimer_idle]
    split <;> omega
  simp only [loadImage, loadPorts atPorts ports, numberAt_put2 atGateAck (by omega), numberAt_put2 atHandover (by omega),
    numberAt_put2 atReply (by omega), numberAt_put2 atIdle (by omega), gateAck, handover, reply, idle,
    loadAllowances atAllowances allowances, loadPitches atPitches pitches, loadClasses atClasses classes,
    loadRates atRates rates, loadLines atLines lines, loadCapacities atCapacities capacities,
    loadDispositions atDispositions, loadSenses atSense sense, loadOutputs atOutputs, loadMask atMask, numberAt_putKey atCode]

end Sys2Proof.Machine
end

section
open Sys2Proof Sys2Proof.Machine Host

namespace Sys2Proof.Machine

/-- Settles O1: a queue with a front is the first branch of `step`, whose update of the queue overwrites the one it reads. -/
theorem stepRunsTheFrontCommand : Obligations.StepRunsTheFrontCommand := by
  intro c rest s
  simp only [step]

end Sys2Proof.Machine
end
